-- ==== Sys2Proof/Word.lean ====
section
/-! DEFINITION. The word types of the Basbel and their plainest arithmetic (spec/00, notation; R193). -/

namespace Sys2Proof

/-- A byte. -/
abbrev Byte := BitVec 8
/-- Sixteen bits: a ledger-core register, a logical address. -/
abbrev Half := BitVec 16
/-- Thirty-two bits: a device register, a physical address, an engine register. -/
abbrev Word := BitVec 32
/-- Four bits: a condition or a key. -/
abbrev Nibble := BitVec 4

/-- A ledger core LC0 to LC3. -/
abbrev Core := Fin 4
/-- A context of a ledger core. -/
abbrev Ctx := Fin 8
/-- A channel, and its channel engine. -/
abbrev Chan := Fin 8
/-- A converter: 0 is CNVA, 1 is CNVB. -/
abbrev Cnv := Fin 2
/-- A Usdar port. -/
abbrev Port := Fin 4
/-- A Tarn mailbox slot: LC0 to LC3, then Wellhead. -/
abbrev Slot := Fin 5
/-- A transaction tag. -/
abbrev Tag := Fin 64
/-- An answer-cache entry. -/
abbrev Entry := Fin 256
/-- A console UART. -/
abbrev Uart := Fin 2
/-- An I2C controller. -/
abbrev Iic := Fin 2
/-- A Narga session: 0 is CON0, 1 to 8 are tunnel sessions. -/
abbrev Session := Fin 9

/-- Bit `i` of a word as a truth value. -/
abbrev bit {w : Nat} (v : BitVec w) (i : Nat) : Bool := v.getLsbD i

/-- The field of `v` from bit `lo`, `n` bits wide, as a number. -/
def field {w : Nat} (v : BitVec w) (lo n : Nat) : Nat := (v.toNat >>> lo) % 2 ^ n

/-- A truth value as the number 0 or 1. -/
def b2n (b : Bool) : Nat := if b then 1 else 0

/-- Byte `k` of a word, byte 0 in bits 7 to 0 (spec/02, byte +k). -/
def byteOf (v : Word) (k : Nat) : Byte := BitVec.ofNat 8 (v.toNat >>> (8 * k))

/-- The low byte of sixteen bits. -/
def lowByte (v : Half) : Byte := v.setWidth 8
/-- The high byte of sixteen bits. -/
def highByte (v : Half) : Byte := BitVec.ofNat 8 (v.toNat >>> 8)
/-- Sixteen bits from their low and high byte (R193, little-endian). -/
def half (lo hi : Byte) : Half := BitVec.ofNat 16 (lo.toNat + 256 * hi.toNat)

/-- The number whose little-endian bytes are `l`. -/
def leNat : List Byte → Nat
  | [] => 0
  | b :: t => b.toNat + 256 * leNat t

/-- The `n` little-endian bytes of a number. -/
def leBytes : Nat → Nat → List Byte
  | 0, _ => []
  | n + 1, v => BitVec.ofNat 8 v :: leBytes n (v / 256)

/-- The `n` big-endian bytes of a number. -/
def beBytes (n v : Nat) : List Byte := (leBytes n v).reverse

/-- The number whose big-endian bytes are `l`. -/
def beNat (l : List Byte) : Nat := leNat l.reverse

end Sys2Proof
end

