-- ==== Sys2Proof/Syntax.lean ====
section
/-! DEFINITION. The commands of the Basbel: one constructor of Instr per row of spec/opcode_table.json, with the operands that
the row's rule lets vary (the table gives none; notes/assumptions/7.md). -/

namespace Sys2Proof

/-- A master of the physical space (spec/02 Table 2.2, SYS_BERR_INFO.MASTER). A ledger core reaches a register from one
context, in supervisor or user state; each has its own holder pair (R31). -/
inductive Master where
  | lc (c : Core) (k : Ctx) (sup : Bool)
  | ce (n : Chan)
  | wellhead
  | tarn
  | test
  deriving DecidableEq, Repr

/-- The width of an access (SYS_BERR_INFO.SIZE). -/
inductive Width where
  | byte | half | word
  deriving DecidableEq, Repr

/-- The form of a ledger-core instruction (R204). -/
inductive Form where
  | A | S
  deriving DecidableEq, Repr

/-- An addressing mode with its operand bytes (Table 7.1); `reserved` is mode 101b, 110b or 111b. The immediate is one byte. -/
inductive Operand8 where
  | imm (i : Byte) | abs (a : Half) | absX (a : Half) | absY (a : Half) | dp (d : Byte) | reserved (m : Fin 3)
  deriving DecidableEq, Repr

/-- The addressing modes of page F1h: the immediate is sixteen bits (R250). -/
inductive Operand16 where
  | imm (i : Half) | abs (a : Half) | absX (a : Half) | absY (a : Half) | dp (d : Byte) | reserved (m : Fin 3)
  deriving DecidableEq, Repr

/-- LDX and LDY stand in the primary map and on page F1h (R250). -/
inductive OperandXY where
  | primary (o : Operand8) | page (o : Operand16)
  deriving DecidableEq, Repr

/-- The two operand forms of INCM, DECM and CLRM (Table 7.4). -/
inductive OperandAD where
  | abs (a : Half) | dp (d : Byte)
  deriving DecidableEq, Repr

/-- What SECDED finds as a store-buffer entry drains (R347). -/
inductive DrainError where
  /-- `verifyTwice`: the word fails its read-back verification twice (R441, R449). `spoils`: the word as it is left in memory or in the key
  table is in error, in one bit or in two, and so found at its next read (R389, R387, R449; log 81). `healthSlot`: the drain itself goes well, and the
  next record of the health log fails its verification (R601; log 81). -/
  | none | corrected | double | verifyTwice | spoils (double : Bool) | healthSlot
  deriving DecidableEq, Repr

/-- What an upset strikes in a core's parity-protected arrays while a line fill completes (R346, R386; log 81): the line that is filled, or
the LAB entries of a context and BDT index. -/
inductive Upset where
  | none | line | lab (k : Ctx) (idx : Fin 32)
  deriving DecidableEq, Repr

/-- A lookup that an instruction had made before it was abandoned in a later one (R358, R384): its address, and whether a fetch made it. -/
structure Lookup where
  a : Half
  fetch : Bool
  deriving DecidableEq, Repr

/-- A core whose running context leaves off at a boundary, or inside an instruction that is abandoned in a lookup after those `made`. -/
structure AtBoundary where
  core : Core
  made : List Lookup
  deriving DecidableEq, Repr

/-- A core whose waiting instruction goes on; an event that comes then is taken at the checkpoint that `stop` names (R299). -/
structure GoesOn where
  core : Core
  stop : Option Nat
  deriving DecidableEq, Repr

/-- A core whose oldest line fill ends, with what an upset strikes meanwhile. -/
structure FillEnd where
  core : Core
  upset : Upset
  deriving DecidableEq, Repr

/-- A core whose group is applied, with the word that fails its read-back verification twice, if one does (R441). -/
structure Applied where
  core : Core
  bad : Option (Fin 8)
  deriving DecidableEq, Repr

/-- A core whose check fails: that of its register file, return stack or context store, or that of its state machines (R408). -/
structure FailedCheck where
  core : Core
  store : Bool
  deriving DecidableEq, Repr

/-- What the surge comparator of a converter sees: an input, and the difference V(P) - V(N) it rises to in units of VREF / 65536. -/
structure SurgeInput where
  cnv : Cnv
  input : Fin 8
  diff : Int
  deriving DecidableEq, Repr

/-- What Tarn finds lost of its two copies (R103): one copy of something, both copies of a channel's data, the device key. -/
inductive CopyLoss where
  | one | channel (n : Chan) | deviceKey
  deriving DecidableEq, Repr

/-- Who raises an urgent entry (R159); the surge comparator names CNV_SURGE.ENTRY. -/
inductive UrgentSource where
  | surge | tarn (e : Fin 16) | engine (n : Chan) (e : Fin 16)
  deriving DecidableEq, Repr

/-- The 32 bytes of a TRAIN payload (Table 13.3). -/
abbrev TrainPayload := Vector Byte 32

/-- A TRAIN frame: the eight bytes of its header and its payload. -/
structure TrainFrame where
  header : BitVec 64
  payload : TrainPayload
  deriving DecidableEq, Repr

/-- Codes that a port hears and that make no good frame. -/
structure BadCodes where
  port : Port
  codes : List (BitVec 10)
  deriving DecidableEq, Repr

/-- A received Usdar frame: its header fields (Table 13.4) and its payload. -/
structure Frame where
  type : Nibble
  tc : BitVec 2
  seq : BitVec 12
  ack : BitVec 12
  len : BitVec 9
  dst : BitVec 12
  src : BitVec 12
  hld : Bool
  payload : List Byte
  deriving DecidableEq, Repr

/-- A byte received by a UART with its errors (R689), and the autobaud rate its start bit measured, if any (R692). -/
structure RxByte where
  b : Byte
  fe : Bool
  pe : Bool
  brk : Bool
  rate : Option (Fin 8)
  deriving DecidableEq, Repr

/-- The textual checks of R544 that a Narga line fails first, if any: a bad byte, a bad check or tag, a bad noun, a wrong
argument count, a bad number. -/
inductive LineFlaw where
  | badByte | badCheck | badNoun | badCount | badNumber
  deriving DecidableEq, Repr

/-- A Narga line as it ends: its session, for a machine line its tag and check (R538), the bytes after its verb and one separator
(R555, R558), and its textual flaw. -/
structure NLine where
  sess : Session
  tag : Option String
  check : Half
  args : List Byte
  flaw : Option LineFlaw
  deriving DecidableEq, Repr

/-- The `route tunnel` setting (R551). -/
inductive TunnelSetting where
  | off | any | node (id : BitVec 12)
  deriving DecidableEq, Repr

/-- What an `img` verb names (R614): a firmware slot (false A, true B) or the microcode of an engine. -/
inductive ImageRef where
  | wfw (slotB : Bool) | tfw (slotB : Bool) | lfw (slotB : Bool) | mcode (n : Chan)
  deriving DecidableEq, Repr

/-- What a Narga line asks for: the verbs of Tables 15.2 and 15.3 with their arguments, a line too long (R534) and a verb of neither table
(R552). -/
inductive NVerb where
  | lineTooLong
  | unknownVerb
  | help (verb : Option String)
  | id
  | idFull
  | stat
  | ch (n : Option Nat)
  | chIn (n : Nat)
  | chOut (n : Nat)
  | chReload (n : Nat)
  | chClose (n : Nat)
  | cnv (u : Cnv)
  | cnvCal (u : Cnv)
  | port (p : Nat)
  | portPeer (p : Nat)
  | portRetrain (p : Nat)
  | portOn (p : Nat)
  | portOff (p : Nat)
  | routeNode
  | routeNodeSet (id : Nat)
  | route (id : Nat)
  | routeSet (id : Nat) (nbr : Option Nat)
  | routeTunnel (set : Option TunnelSetting)
  | logHealth (k : Option Nat)
  | logLegal (k : Option Nat)
  | logHealthFrom (q : Nat) (k : Option Nat)
  | logLegalFrom (q : Nat) (k : Option Nat)
  | tarn
  | tarnTime (set : Option Nat)
  | tarnLogack (q : Nat)
  | tarnNonce
  | tarnStage (off : Nat) (data : List Byte)
  | tarnSubmit
  | pwr
  | pwrGo (ps : Nat)
  | clk
  | img
  | imgVerify (img : ImageRef)
  | imgActivate (img : ImageRef)
  | reconcile (unit : Byte)
  | app (text : List Byte)
  | resetCore (c : Nat)
  | resetPort (p : Nat)
  | resetDevice
  | more
  | expertOn
  | expertOff
  | xregRead (a : Nat)
  | xregWrite (a : Nat) (v : Nat)
  | xchScrub (n : Nat) (i : Nat)
  | xchInj (n : Nat) (word : Nat) (bit : Nat)
  | xcnvRaw (u : Cnv) (on : Bool)
  | xcnvSurge (u : Cnv)
  | xportLoop (p : Nat)
  | xportPrbs (p : Nat)
  | xportTestOff (p : Nat)
  | xportHead (p : Nat) (b : Nat)
  | xportGohyst (p : Nat) (b : Nat)
  | xclkMon (clock : Option Nat)
  deriving DecidableEq, Repr

/-- The sensors of Table 16.1. -/
inductive Sensor where
  | temp (i : Fin 4) | vin | vcore | avdd | vio (bank : Fin 3) | vref | hold
  deriving DecidableEq, Repr

/-- The loops that lock (Table 18.6). -/
inductive Pll where
  | spll | cpll | tpll
  deriving DecidableEq, Repr

/-- What the flash answers to discovery (R701, R702, R727): nothing, no usable SFDP, or a table with the density as log2 of
bytes, the read mode and the presence of a 64 KiB erase. -/
inductive FlashAnswer where
  | silent | noSfdp | sfdp (log2 : Fin 33) (mode : Fin 6) (erase64 : Bool)
  deriving DecidableEq, Repr

/-- The causes of a device reset (Table 19.3). -/
inductive ResetCause where
  | resetN | narga | spll
  deriving DecidableEq, Repr

/-- How an I2C transfer ends on the bus (R695, R696, Table 20.3). -/
inductive IicResult where
  | ok (data : List Byte) | nackAddr | nackData (i : Byte) | lost
  deriving DecidableEq, Repr

/-- What the low-power comparator latches in PS4 and PS5 (R92). -/
inductive LowPowerBreak where
  | mesh | caseChange
  deriving DecidableEq, Repr

/-- The commands. -/
inductive Instr where
  /-- A read of byte +0 (or 16-bit at +0) reads the whole register into the snapshot holder and applies its read side effects (R32). -/
  | snapshotRead (m : Master) (a : Nat) (w : Width)
  /-- A byte or 16-bit write below byte +3 captures the register into the staging holder and replaces its own bytes (R34). -/
  | stagedWrite (m : Master) (a : Nat) (w : Width) (v : Word)
  /-- A commit to a register that has no row of its own applies each field by its access code (R35). -/
  | commit (m : Master) (a : Nat) (w : Width) (v : Word)
  /-- Clearing SYS_STAT.BERRV releases the bus-error capture and zeroes BERRCNT (R44). -/
  | sysStatClear (m : Master) (v : Word)
  /-- Tarn takes an increment and adds it to FWD or REV, and to SES in session (R58). -/
  | incrementTake (n : Chan) (parityBad : Bool)
  /-- Tarn writes the aggregated out-of-session quanta record 0411h (R59). -/
  | outsideSessionRecord (n : Chan)
  /-- Tarn writes changed totalizers to its nonvolatile memory within 1 ms (R61). -/
  | totalizerSave
  /-- Tarn starts an owed pulse on MPOn and decrements BACKLOG (R63). -/
  | mpoPulseStart (n : Chan)
  /-- The WIDTH active time of an MPO pulse ends and the gap begins (R63). -/
  | mpoPulseEnd (n : Chan)
  /-- The inactive gap after an MPO pulse ends (R63). -/
  | mpoGapEnd (n : Chan)
  /-- TMB OPEN starts a session, numbers it and records price, direction and preset (R67). -/
  | tmbOpen (slot : Slot) (cmd : Word)
  /-- TMB FREEZE releases DENn and fixes the session quantity and end time (R69). -/
  | freeze (slot : Slot) (cmd : Word)
  /-- TMB SIGN fixes and stores the record body and queues it for signing (R70). -/
  | sign (slot : Slot) (cmd : Word)
  /-- Ed25519 signing completes; Tarn verifies and releases the record to the last-signed area (R71). -/
  | signatureDone (ok : Bool)
  /-- TMB SETOUT moves a channel from IN to OUT (R84). -/
  | setout (slot : Slot) (cmd : Word)
  /-- TMB REEVAL returns an OUT channel to IN when no fault is present and PERM is 0 (R84). -/
  | reeval (slot : Slot) (cmd : Word)
  /-- TMB NONCE returns a new 8-byte calibration nonce (R84). -/
  | nonce (slot : Slot) (cmd : Word)
  /-- The current nonce lapses 60 s after issue (R84). -/
  | nonceExpiry
  /-- TMB LOGACK marks legal records up to s as exported (R80). -/
  | logack (slot : Slot) (cmd : Word)
  /-- TMB RELOAD stops an engine, verifies and writes new microcode into its control store (R134). -/
  | reload (slot : Slot) (cmd : Word)
  /-- The engine's check of all 2048 loaded words finishes; a mismatch fails the load (R134). -/
  | loadVerifyDone (n : Chan) (ok : Bool)
  /-- Tarn copies MC0–MC7, starts the engine at word 0000h and answers the RELOAD (R135). -/
  | reloadDone (n : Chan)
  /-- TMB TIMESET logs old and new times, then sets the RTC (R77). -/
  | timeset (slot : Slot) (cmd : Word)
  /-- A reserved TMB command code is answered RESERVED and changes nothing (R84). -/
  | tmbReservedCode (slot : Slot) (cmd : Word)
  /-- Writing 1 to a slot's ACK asks Tarn to clear RSP.DONE (R82). -/
  | tmbAck (m : Master) (slot : Slot) (v : Word)
  /-- Signed command ENROLL-KEY enrolls a public key in a slot (R90). -/
  | enrollKey (slot : Slot) (cmd : Word)
  /-- Signed command REVOKE-KEY revokes an enrolled key slot (R90). -/
  | revokeKey (slot : Slot) (cmd : Word)
  /-- Signed command SET-CONSTANTS sets a channel's SRC, meter constants and MPO_CFG (R90). -/
  | setConstants (slot : Slot) (cmd : Word)
  /-- Signed command SET-CNV-FACTORS sets a converter's legal factors (R90). -/
  | setCnvFactors (slot : Slot) (cmd : Word)
  /-- Signed command CHANNEL-IN returns a SEALED-OUT channel to IN (R90). -/
  | channelIn (slot : Slot) (cmd : Word)
  /-- Signed command CHANNEL-SEALED-OUT sets a channel SEALED-OUT (R90). -/
  | channelSealedOut (slot : Slot) (cmd : Word)
  /-- Signed command CLEAR-TAMPER unlatches a mesh break (R90). -/
  | clearTamper (slot : Slot) (cmd : Word)
  /-- Signed command DEBUG-ENABLE opens the debug window for its duration (R717). -/
  | debugEnable (slot : Slot) (cmd : Word)
  /-- A signed command of an unlisted type is answered RESERVED (R90). -/
  | signedReservedType (slot : Slot) (cmd : Word)
  /-- A debounced SEAL_N change is logged and sets TMB_EVT.SEALCHG (R87). -/
  | sealChange (isOpen : Bool)
  /-- Every 100 µs Tarn compares the tamper mesh outputs with their returns (R91). -/
  | meshCompare (bad0 : Bool) (bad1 : Bool)
  /-- CASE_N opening or closing is logged and sets TMB_STAT.CASE (R93). -/
  | caseChange (isOpen : Bool)
  /-- A write to TMB_XDIAG turns the MPO test pattern on or off for OUT channels (R94). -/
  | tmbXdiagWrite (m : Master) (v : Word)
  /-- The 1 Hz test pattern emits a 50 ms pulse on MPOn (R94). -/
  | xdiagTestPulse (n : Chan) (on : Bool)
  /-- Tarn receives an engine or converter fault notice and closes and sets the channel OUT (R101). -/
  | faultNotice
  /-- Loss of a nonvolatile copy is restored, or seals out channels, or stops signing (R103). -/
  | tarnCopyLoss (loss : CopyLoss)
  /-- TCLK stopped for 100 µs releases all DEN and holds MPO inactive (R105). -/
  | tclkWatchdog
  /-- Tarn leaves reset, checks copies, loads channels, logs START and resolves sessions (R106). -/
  | tarnStart (sealOpen : Bool) (caseOpen : Bool) (meshBroken : Bool)
  /-- An engine executes one microword, all its fields together (R110). -/
  | microword (n : Chan)
  /-- A held word (WAIT, BUSRD, full-queue BUSWR or INC) completes (R119). -/
  | microHeldComplete (n : Chan)
  /-- TICK reaches the compare value, setting TCMPH and firing an armed timer trap (R114). -/
  | tickCompare (n : Chan)
  /-- A post-mortem handler running 256 ec halts the engine (R125). -/
  | postMortemTimeout (n : Chan)
  /-- The scrubber checks one control-store word and corrects single-bit errors in place (R130). -/
  | scrubRead (n : Chan)
  /-- A commit to CE_HPARAM reaches HOSTP whole and sets condition HOSTP (R142). -/
  | ceHparamWrite (m : Master) (n : Chan) (v : Word)
  /-- A write of ARM = 1 to CE_XINJ flips one stored control-store bit (R138). -/
  | ceXinjWrite (m : Master) (n : Chan) (v : Word)
  /-- A pulse input's filtered level changes and the counter counts by QMODE (R708). -/
  | pulseLevelChange (n : Chan) (a : Bool) (b : Bool)
  /-- CNV_CMD START starts a sequence, or becomes the pending start (R156). -/
  | cnvStart (m : Master) (u : Cnv)
  /-- CNV_CMD CALFULL starts the 16-step self-calibration unless a session exists (R164). -/
  | calfull (m : Master) (u : Cnv)
  /-- A filtered TRIG0 or TRIG1 edge of the chosen kind arms a start after DLY (R156). -/
  | trigEdge (t : Fin 2) (rising : Bool)
  /-- CNV_TRIG.DLY after a TRIG edge, the sequence starts (R156). -/
  | trigDelayEnd (u : Cnv)
  /-- An entry's SAMP cc of sampling end and its conversion begins (R152). -/
  | samplingEnd (u : Cnv)
  /-- A conversion ends; its corrected result enters its destination and the next entry begins (R152). -/
  | conversionDone (u : Cnv) (raw : BitVec 18)
  /-- An urgent entry reaches the converter, aborting the running entry or queueing (R160). -/
  | urgentArrival (u : Cnv) (src : UrgentSource)
  /-- The surge comparator fires, raising its urgent entry and setting SURGE (R163). -/
  | surgeCrossing (x : SurgeInput)
  /-- The surge comparator's HOLD time ends (R163). -/
  | surgeHoldEnd (u : Cnv)
  /-- A calibration conversion completes, advancing the step or ending calibration (R164). -/
  | calConversionDone (u : Cnv) (factors : List Word)
  /-- With BGCAL, an idle converter starts one background calibration conversion (R167). -/
  | bgcalConversionStart (u : Cnv)
  /-- A conversion unfinished 64 cc after sampling faults the converter WATCHDOG (R186). -/
  | conversionWatchdog (u : Cnv)
  /-- VREF outside 2.5 V ±2 % for 10 µs faults both converters (R186). -/
  | referenceFault
  /-- An engine writing A5h to CNV_DECLARE faults the converter DECLARED (R173). -/
  | cnvDeclareWrite (m : Master) (u : Cnv) (v : Word)
  /-- Writing 1 to CNV_XSURGE fires the surge comparator once (R179). -/
  | cnvXsurgeWrite (m : Master) (u : Cnv) (v : Word)
  /-- In Still, the CNV_SLOW period elapses and the slow sequence runs (R191). -/
  | slowSequenceTimer (u : Cnv)
  /-- LDA loads A from the operand (R244). -/
  | lda (c : Core) (o : Operand8)
  /-- STA stores A to the operand (R244). -/
  | sta (c : Core) (o : Operand8)
  /-- ADD adds the operand to A (R244). -/
  | add (c : Core) (o : Operand8)
  /-- ADDC adds operand and CD to A, setting CD (R245). -/
  | addc (c : Core) (o : Operand8)
  /-- SUB subtracts the operand from A (R244). -/
  | sub (c : Core) (o : Operand8)
  /-- SUBB subtracts operand and CD from A, setting CD (R245). -/
  | subb (c : Core) (o : Operand8)
  /-- AND ands the operand into A (R244). -/
  | and (c : Core) (o : Operand8)
  /-- OR ors the operand into A (R244). -/
  | or (c : Core) (o : Operand8)
  /-- XOR xors the operand into A (R244). -/
  | xor (c : Core) (o : Operand8)
  /-- LDX loads X with a 16-bit operand (R244). -/
  | ldx (c : Core) (o : OperandXY)
  /-- LDY loads Y with a 16-bit operand (R244). -/
  | ldy (c : Core) (o : OperandXY)
  /-- STX stores X (R244). -/
  | stx (c : Core) (o : Operand8)
  /-- STY stores Y (R244). -/
  | sty (c : Core) (o : Operand8)
  /-- CBA compares A with the operand and branches (R241). -/
  | cba (c : Core) (o : Operand8) (bw : Half)
  /-- CBX compares X with the operand and branches (R241). -/
  | cbx (c : Core) (o : Operand8) (bw : Half)
  /-- CBY compares Y with the operand and branches (R241). -/
  | cby (c : Core) (o : Operand8) (bw : Half)
  /-- An undefined opcode raises EC 01h (R246). -/
  | undefinedOpcode (c : Core) (f : Form) (op : Byte) (second : Byte)
  /-- NOP does nothing (R246). -/
  | nop (c : Core) (f : Form)
  /-- TRXA sets X from A zero-extended (R246). -/
  | trxa (c : Core)
  /-- TRYA sets Y from A zero-extended (R246). -/
  | trya (c : Core)
  /-- TRAX sets A from X[7:0] (R246). -/
  | trax (c : Core)
  /-- TRAY sets A from Y[7:0] (R246). -/
  | tray (c : Core)
  /-- TRYX sets Y from X (R246). -/
  | tryx (c : Core)
  /-- TRXY sets X from Y (R246). -/
  | trxy (c : Core)
  /-- INCA increments A (R246). -/
  | inca (c : Core)
  /-- DECA decrements A (R246). -/
  | deca (c : Core)
  /-- INCX increments X (R246). -/
  | incx (c : Core)
  /-- DECX decrements X (R246). -/
  | decx (c : Core)
  /-- INCY increments Y (R246). -/
  | incy (c : Core)
  /-- DECY decrements Y (R246). -/
  | decy (c : Core)
  /-- ZERA clears A (R246). -/
  | zera (c : Core)
  /-- NEGA negates A (R246). -/
  | nega (c : Core)
  /-- NOTA inverts A (R246). -/
  | nota (c : Core)
  /-- SHLA shifts A left into CD (R246). -/
  | shla (c : Core)
  /-- SHRA shifts A right logically into CD (R246). -/
  | shra (c : Core)
  /-- ASRA shifts A right arithmetically into CD (R246). -/
  | asra (c : Core)
  /-- ROLA rotates A left through CD (R246). -/
  | rola (c : Core)
  /-- RORA rotates A right through CD (R246). -/
  | rora (c : Core)
  /-- CLCD clears CD (R246). -/
  | clcd (c : Core)
  /-- SWNA swaps the nibbles of A (R246). -/
  | swna (c : Core)
  /-- TXL sets L from X (R246). -/
  | txl (c : Core)
  /-- TLX sets X from L (R246). -/
  | tlx (c : Core)
  /-- TDX sets X from DP (R246). -/
  | tdx (c : Core)
  /-- TXD sets DP from X without a limit check (R248). -/
  | txd (c : Core)
  /-- SXA sets X from A sign-extended (R246). -/
  | sxa (c : Core)
  /-- ADXA adds A to X (R246). -/
  | adxa (c : Core)
  /-- ADYA adds A to Y (R246). -/
  | adya (c : Core)
  /-- MUL sets X to A × X[7:0] (R246). -/
  | mul (c : Core)
  /-- DIV divides X by A into quotient X and remainder A (R247). -/
  | div (c : Core)
  /-- PUSHA pushes A on the data stack (R207). -/
  | pusha (c : Core)
  /-- POPA pops A from the data stack (R207). -/
  | popa (c : Core)
  /-- PUSHX pushes X (R207). -/
  | pushx (c : Core)
  /-- POPX pops X (R207). -/
  | popx (c : Core)
  /-- PUSHY pushes Y (R207). -/
  | pushy (c : Core)
  /-- POPY pops Y (R207). -/
  | popy (c : Core)
  /-- PUSHL pushes L (R207). -/
  | pushl (c : Core)
  /-- POPL pops L (R207). -/
  | popl (c : Core)
  /-- RCTX copies CTX into Y (R196). -/
  | rctx (c : Core) (f : Form)
  /-- WCTX loads CTX from Y within privilege limits (R196). -/
  | wctx (c : Core) (f : Form)
  /-- SYNC starts waiting for the context's stores to drain (R222). -/
  | sync (c : Core) (f : Form)
  /-- SYNC completes, discards prefetch and applies new translation and routing values (R222). -/
  | syncDone (c : Core)
  /-- WAIT puts the context in IDLE (R200). -/
  | wait (c : Core) (f : Form)
  /-- SVC n raises EC 15h with n in FAULTINFO (R218). -/
  | svc (c : Core) (f : Form) (n : Byte)
  /-- BPT raises EC 16h (R246). -/
  | bpt (c : Core) (f : Form)
  /-- JMP sets PC to an address (R246). -/
  | jmp (c : Core) (f : Form) (a : Half)
  /-- JMPX sets PC to an address plus X (R246). -/
  | jmpx (c : Core) (a : Half)
  /-- CALL pushes the return address and jumps, trapping EC 0Fh at the limit (R210). -/
  | call (c : Core) (f : Form) (a : Half)
  /-- CALLX pushes the return address and jumps to X (R246). -/
  | callx (c : Core)
  /-- RET pops a non-trap entry and continues at its PC (R212). -/
  | ret (c : Core) (f : Form)
  /-- BRA branches by a signed 16-bit displacement (R246). -/
  | bra (c : Core) (f : Form) (r : Half)
  /-- DBNX decrements X and branches while nonzero (R263). -/
  | dbnx (c : Core) (r : Half)
  /-- DBNY decrements Y and branches while nonzero (R263). -/
  | dbny (c : Core) (r : Half)
  /-- INCM increments a memory byte (R246). -/
  | incm (c : Core) (o : OperandAD)
  /-- DECM decrements a memory byte (R246). -/
  | decm (c : Core) (o : OperandAD)
  /-- CLRM clears a memory byte (R246). -/
  | clrm (c : Core) (o : OperandAD)
  /-- ADDM adds A to a memory byte (R249). -/
  | addm (c : Core) (o : Operand8)
  /-- ADDCM adds A and CD to a memory byte (R249). -/
  | addcm (c : Core) (o : Operand8)
  /-- SUBBM subtracts A and CD from a memory byte (R249). -/
  | subbm (c : Core) (o : Operand8)
  /-- SETM ors A into a memory byte (R249). -/
  | setm (c : Core) (o : Operand8)
  /-- CLRBM clears A's bits in a memory byte (R249). -/
  | clrbm (c : Core) (o : Operand8)
  /-- ROLM rotates a memory byte left through CD (R249). -/
  | rolm (c : Core) (o : Operand8)
  /-- RORM rotates a memory byte right through CD (R249). -/
  | rorm (c : Core) (o : Operand8)
  /-- MINU sets A to the unsigned minimum of A and m (R249). -/
  | minu (c : Core) (o : Operand8)
  /-- MAXU sets A to the unsigned maximum of A and m (R249). -/
  | maxu (c : Core) (o : Operand8)
  /-- LDL loads L (R250). -/
  | ldl (c : Core) (o : Operand16)
  /-- STL stores L (R250). -/
  | stl (c : Core) (o : Operand16)
  /-- ADDX adds a word to X (R250). -/
  | addx (c : Core) (o : Operand16)
  /-- SUBX subtracts a word from X (R250). -/
  | subx (c : Core) (o : Operand16)
  /-- ADDY adds a word to Y (R250). -/
  | addy (c : Core) (o : Operand16)
  /-- SUBY subtracts a word from Y (R250). -/
  | suby (c : Core) (o : Operand16)
  /-- LDDP loads DP (R250). -/
  | lddp (c : Core) (o : Operand16)
  /-- STDP stores DP (R250). -/
  | stdp (c : Core) (o : Operand16)
  /-- ADDDP adds a word to DP (R250). -/
  | adddp (c : Core) (o : Operand16)
  /-- CBL compares L with a word and branches (R250). -/
  | cbl (c : Core) (o : Operand16) (bw : Half)
  /-- RTI pops a trap entry and restores PC and CTX (R212). -/
  | rti (c : Core) (f : Form)
  /-- SPILL n writes the oldest return-stack entries to the spill area (R213). -/
  | spill (c : Core) (f : Form) (n : Byte)
  /-- FILL n reads spilled entries back into the core (R213). -/
  | fill (c : Core) (f : Form) (n : Byte)
  /-- KSET writes a frame's storage-key entry through the store buffer (R371). -/
  | kset (c : Core) (f : Form)
  /-- MVU moves bytes to user space with user-side checks (R364). -/
  | mvu (c : Core) (stop : Option Nat)
  /-- MVFU moves bytes from user space with user-side checks (R364). -/
  | mvfu (c : Core) (stop : Option Nat)
  /-- SETIM sets CTX.IM (R262). -/
  | setim (c : Core) (f : Form)
  /-- CLRIM clears CTX.IM (R262). -/
  | clrim (c : Core) (f : Form)
  /-- WDR restarts the context's watchdog (R406). -/
  | wdr (c : Core) (f : Form)
  /-- RSRD reads the newest return-stack entry into X and Y (R255). -/
  | rsrd (c : Core) (f : Form)
  /-- RSWR rewrites the newest return-stack entry from X and Y (R255). -/
  | rswr (c : Core) (f : Form)
  /-- The emulation call FFh raises EC 14h (R258). -/
  | emulationCall (c : Core) (f : Form) (e : Byte)
  /-- S-form DUP duplicates the top byte (R256). -/
  | dup (c : Core)
  /-- S-form DROP drops the top byte (R256). -/
  | drop (c : Core)
  /-- S-form SWAP swaps the top two bytes (R256). -/
  | swap (c : Core)
  /-- S-form OVER copies the second byte to the top (R256). -/
  | over (c : Core)
  /-- S-form ROT rotates the top three bytes (R256). -/
  | rot (c : Core)
  /-- S-form DUPW duplicates the top word (R256). -/
  | dupw (c : Core)
  /-- S-form DROPW drops the top word (R256). -/
  | dropw (c : Core)
  /-- S-form SWAPW swaps the top two words (R256). -/
  | swapw (c : Core)
  /-- S-form OVERW copies the second word to the top (R256). -/
  | overw (c : Core)
  /-- S-form TOA pops into A (R256). -/
  | toa (c : Core)
  /-- S-form FROMA pushes A (R256). -/
  | froma (c : Core)
  /-- S-form TOX pops into X (R256). -/
  | tox (c : Core)
  /-- S-form FROMX pushes X (R256). -/
  | fromx (c : Core)
  /-- S-form TOY pops into Y (R256). -/
  | toy (c : Core)
  /-- S-form FROMY pushes Y (R256). -/
  | fromy (c : Core)
  /-- S-form ADD adds the top two bytes (R256). -/
  | sAdd (c : Core)
  /-- S-form ADDC adds bytes with CD (R256). -/
  | sAddc (c : Core)
  /-- S-form SUB subtracts bytes (R256). -/
  | sSub (c : Core)
  /-- S-form SUBB subtracts bytes with CD (R256). -/
  | sSubb (c : Core)
  /-- S-form AND ands bytes (R256). -/
  | sAnd (c : Core)
  /-- S-form OR ors bytes (R256). -/
  | sOr (c : Core)
  /-- S-form XOR xors bytes (R256). -/
  | sXor (c : Core)
  /-- S-form NOT inverts the top byte (R256). -/
  | sNot (c : Core)
  /-- S-form NEG negates the top byte (R256). -/
  | sNeg (c : Core)
  /-- S-form SHL shifts the top byte left into CD (R256). -/
  | sShl (c : Core)
  /-- S-form SHR shifts the top byte right into CD (R256). -/
  | sShr (c : Core)
  /-- S-form ASR shifts the top byte right arithmetically (R256). -/
  | sAsr (c : Core)
  /-- S-form MUL pushes the word product of two bytes (R256). -/
  | sMul (c : Core)
  /-- S-form DIV divides a word by a byte, pushing quotient and remainder (R256). -/
  | sDiv (c : Core)
  /-- S-form INC increments the top byte (R256). -/
  | sInc (c : Core)
  /-- S-form DEC decrements the top byte (R256). -/
  | sDec (c : Core)
  /-- S-form ADDW adds words (R256). -/
  | addw (c : Core)
  /-- S-form SUBW subtracts words (R256). -/
  | subw (c : Core)
  /-- S-form ANDW ands words (R256). -/
  | andw (c : Core)
  /-- S-form ORW ors words (R256). -/
  | orw (c : Core)
  /-- S-form XORW xors words (R256). -/
  | xorw (c : Core)
  /-- S-form NOTW inverts the top word (R256). -/
  | notw (c : Core)
  /-- S-form NEGW negates the top word (R256). -/
  | negw (c : Core)
  /-- S-form SHLW shifts the top word left (R256). -/
  | shlw (c : Core)
  /-- S-form SHRW shifts the top word right (R256). -/
  | shrw (c : Core)
  /-- S-form INCW increments the top word (R256). -/
  | incw (c : Core)
  /-- S-form DECW decrements the top word (R256). -/
  | decw (c : Core)
  /-- S-form ZXW zero-extends a byte to a word (R256). -/
  | zxw (c : Core)
  /-- S-form SXW sign-extends a byte to a word (R256). -/
  | sxw (c : Core)
  /-- S-form LOW reduces a word to its low byte (R256). -/
  | low (c : Core)
  /-- S-form LD pushes the byte at a popped address (R256). -/
  | ld (c : Core)
  /-- S-form ST stores a popped byte at a popped address (R256). -/
  | st (c : Core)
  /-- S-form LDW pushes the word at a popped address (R256). -/
  | ldw (c : Core)
  /-- S-form STW stores a popped word at a popped address (R256). -/
  | stw (c : Core)
  /-- S-form TOL pops into L (R256). -/
  | tol (c : Core)
  /-- S-form FROML pushes L (R256). -/
  | froml (c : Core)
  /-- S-form FROMDP pushes the old DP (R256). -/
  | fromdp (c : Core)
  /-- S-form TODP pops a word into DP (R256). -/
  | todp (c : Core)
  /-- S-form CB compares two byte items and branches (R241). -/
  | cb (c : Core) (cc : Nibble) (r : Half)
  /-- S-form CBW compares two word items and branches (R241). -/
  | cbw (c : Core) (cc : Nibble) (r : Half)
  /-- S-form CALLS calls a popped address (R256). -/
  | calls (c : Core)
  /-- S-form JMPS jumps to a popped address (R256). -/
  | jmps (c : Core)
  /-- S-form LITS pushes a small literal byte (R256). -/
  | lits (c : Core) (v : BitVec 5)
  /-- S-form LIT8 pushes an 8-bit literal (R256). -/
  | lit8 (c : Core) (i : Byte)
  /-- S-form LIT16 pushes a 16-bit literal (R256). -/
  | lit16 (c : Core) (i : Half)
  /-- S-form LITN pushes a byte F2h–FFh (R256). -/
  | litn (c : Core) (v : Fin 14)
  /-- DLD copies a packed value, normalising its sign (R278). -/
  | dld (c : Core) (lb : Byte)
  /-- DADD adds packed fields (R278). -/
  | dadd (c : Core) (lb : Byte)
  /-- DSUB subtracts packed fields (R278). -/
  | dsub (c : Core) (lb : Byte)
  /-- DMUL multiplies packed fields with a checkpoint per multiplier digit (R281). -/
  | dmul (c : Core) (lb : Byte) (lm : Byte) (stop : Option Nat)
  /-- DDIV divides packed fields into quotient and remainder (R282). -/
  | ddiv (c : Core) (lb : Byte) (abandoned : Bool)
  /-- DSHR shifts and rounds a packed field (R280). -/
  | dshr (c : Core) (lb : Byte) (s : Byte)
  /-- DCB compares packed values and branches (R279). -/
  | dcb (c : Core) (lb : Byte) (bw : Half)
  /-- ZPK converts zoned to packed (R283). -/
  | zpk (c : Core) (lb : Byte) (lz : Byte)
  /-- PZN converts packed to zoned (R283). -/
  | pzn (c : Core) (lb : Byte) (lz : Byte)
  /-- DTOB converts packed to binary (R284). -/
  | dtob (c : Core) (lb : Byte)
  /-- BTOD converts binary to packed (R284). -/
  | btod (c : Core) (lb : Byte)
  /-- DUS converts unsigned packed to signed packed (R285). -/
  | dus (c : Core) (lb : Byte)
  /-- UADD adds unsigned packed fields with CD carry (R286). -/
  | uadd (c : Core) (lb : Byte)
  /-- USUB subtracts unsigned packed fields with CD borrow (R286). -/
  | usub (c : Core) (lb : Byte)
  /-- MVS moves L bytes ascending, checkpointing per chunk (R288). -/
  | mvs (c : Core) (stop : Option Nat)
  /-- MVSB moves L bytes descending (R288). -/
  | mvsb (c : Core) (stop : Option Nat)
  /-- FILS fills L bytes with A (R289). -/
  | fils (c : Core) (stop : Option Nat)
  /-- CBS compares strings and branches (R290). -/
  | cbs (c : Core) (bw : Half) (stop : Option Nat)
  /-- TRS translates bytes through a table (R291). -/
  | trs (c : Core) (stop : Option Nat)
  /-- TRTS scans for the first byte with a nonzero table entry (R291). -/
  | trts (c : Core) (stop : Option Nat)
  /-- EDT edits packed digits into a pattern (R295). -/
  | edt (c : Core) (stop : Option Nat)
  /-- EDTL edits and pushes each field's first printed position (R296). -/
  | edtl (c : Core) (stop : Option Nat)
  /-- The core switches to the READY context of highest level in 6 lc (R199). -/
  | contextSwitch (e : AtBoundary)
  /-- LCC_CTXGO.GO puts STOPPED contexts in READY (R202). -/
  | ctxgoGo (m : Master) (c : Core) (mask : Byte)
  /-- LCC_CTXGO.STOP requests contexts to stop at their next boundary (R202). -/
  | ctxgoStop (m : Master) (c : Core) (mask : Byte)
  /-- A context reaches its boundary or checkpoint and enters STOPPED (R202). -/
  | contextStop (e : AtBoundary) (k : Ctx)
  /-- A commit to LCC_MODE starts the count to the mode switch (R219). -/
  | lccModeWrite (m : Master) (c : Core) (v : Word)
  /-- At the third completed instruction the new mode applies and prefetch is discarded (R331). -/
  | modeSwitchPoint (c : Core)
  /-- LCC_CACHE.IINV invalidates the instruction cache and line buffer (R338). -/
  | lccCacheIinv (m : Master) (c : Core) (v : Word)
  /-- LCC_CACHE.DINV invalidates the data cache (R338). -/
  | lccCacheDinv (m : Master) (c : Core) (v : Word)
  /-- LCC_CACHE.BPINV clears the predictor counters (R338). -/
  | lccCacheBpinv (m : Master) (c : Core) (v : Word)
  /-- The oldest store-buffer entry finishes draining to its physical address (R317). -/
  | storeBufferDrain (c : Core) (err : DrainError)
  /-- A store waiting for a free store-buffer entry proceeds (R318). -/
  | storeRoomResume (g : GoesOn)
  /-- A load waiting for matching entries or register stores to drain reads (R319). -/
  | loadDrainResume (g : GoesOn)
  /-- A cache or line-buffer line fill completes (R321). -/
  | lineFillDone (e : FillEnd)
  /-- A commit to XLT_BDTB or XLT_BDTN empties the context's LAB entries (R360). -/
  | xltBdtWrite (m : Master) (c : Core) (k : Ctx) (second : Bool) (v : Word)
  /-- A commit to a pinned block register half takes the combined new value (R377). -/
  | xltPbrWrite (m : Master) (c : Core) (k : Ctx) (i : Fin 4) (second : Bool) (v : Word)
  /-- A W1C write to XLT_KEYj clears MOD or ACC of frame entries (R378). -/
  | xltKeyClear (m : Master) (j : Fin 1280) (v : Word)
  /-- XLT_XDIAG turns the L2-LAB or I/D-LABs off on every core (R379). -/
  | xltXdiagWrite (m : Master) (v : Word)
  /-- A pending line is taken at a boundary or checkpoint and its handler entered (R395). -/
  | interruptEntry (e : AtBoundary)
  /-- Context 0 takes EC 11h at the core's next boundary whatever its state (R399). -/
  | ec11Entry (c : Core)
  /-- IRQ_RSDROP discards the return stacks of named STOPPED contexts (R400). -/
  | irqRsdropWrite (m : Master) (v : Word)
  /-- IRQ_DBSET sets a doorbell (R405). -/
  | doorbellSet (m : Master) (v : Word)
  /-- A W1C write to IRQ_DB clears a doorbell (R405). -/
  | doorbellClear (m : Master) (v : Word)
  /-- A commit to IRQ_LINEn reroutes a line at the target core's next boundary (R404). -/
  | irqLineWrite (m : Master) (n : Fin 48) (v : Word)
  /-- IRQ_XFORCE holds a named line asserted or releases it (R414). -/
  | irqXforceWrite (m : Master) (v : Word)
  /-- A context watchdog reaches 0, raising EC 17h or halting the core (R407). -/
  | watchdogExpiry (c : Core) (k : Ctx)
  /-- A halted core's lines begin delivery to its fallback core (R410). -/
  | fallbackDelivery (c : Core)
  /-- NVL_CGc_CMD OPEN opens a commit group for the context (R426). -/
  | cgOpen (c : Core) (k : Ctx)
  /-- NVL_CGc_CMD CLOSE writes the group's address and seal words to the journal (R430). -/
  | cgClose (c : Core) (k : Ctx)
  /-- NVL_CGc_CMD ABORT discards an open group (R432). -/
  | cgAbort (c : Core) (k : Ctx)
  /-- The seal word is written; the group is durable and DONE is set (R430). -/
  | groupDurable (c : Core) (verified : Bool)
  /-- A durable group's words are applied to the array and the seal cleared (R430). -/
  | groupApplied (g : Applied)
  /-- 20 µs after PFAIL, still-open groups are discarded (R435). -/
  | groupGraceEnd
  /-- Wellhead measures the hold-up capacitor and sets GMAX and HOLDOK (R439). -/
  | dischargeTest (charged : Bool) (dropMilli : Nat)
  /-- A write to NVL_CTRL.GROUPS recomputes GMAX (R440). -/
  | nvlCtrlWrite (m : Master) (v : Word)
  /-- A block copy to a spare completes and the switch is made (R441). -/
  | remapDone (block : Nat)
  /-- A port's backoff delay in Dry ends and an attempt starts (R457). -/
  | backoffExpiry (p : Port)
  /-- Four consecutive TS1 in Dry start an attempt at once (R455). -/
  | ts1Detect (p : Port)
  /-- A TS1 or TS2 received during Seep or Level advances lock toward the next state (R454). -/
  | tsOrderedSet (p : Port) (ts2 : Bool)
  /-- A Seep, Fill or Level timeout fails the attempt (R454). -/
  | trainingTimeout (p : Port) (clockLock : Bool)
  /-- In Fill a TRAIN OFFER is sent every 4 µs (R454). -/
  | offerTimer (p : Port)
  /-- The 10 µs of electrical idle at Level entry ends (R454). -/
  | levelIdleEnd (p : Port)
  /-- A received OFFER is checked and the rate agreed (R458). -/
  | trainOffer (p : Port) (f : TrainFrame)
  /-- A received PARAM is checked and the flow mode fixed (R461). -/
  | trainParam (p : Port) (f : TrainFrame)
  /-- A received ECHO is answered with ECHOREP (R460). -/
  | trainEcho (p : Port) (f : TrainFrame)
  /-- A received ECHOREP yields a round-trip measurement (R460). -/
  | trainEchorep (p : Port) (f : TrainFrame) (rttNs : Nat)
  /-- A received READY completes Level; the port enters Flow, resuming or not (R463). -/
  | trainReady (p : Port) (f : TrainFrame)
  /-- Loss of signal returns a port to Dry (R456). -/
  | lossOfSignal (p : Port)
  /-- One second in Flow clears FAILS and STUCK (R457). -/
  | flowStable (p : Port)
  /-- A frame with bad framing, symbols or CRC is discarded and NAKed if none outstanding (R466). -/
  | badFrame (b : BadCodes)
  /-- A DATA frame is disposed by sequence and routed or delivered (R467). -/
  | dataFrame (p : Port) (f : Frame)
  /-- A BCAST frame is accepted, delivered and flooded, or dropped as duplicate (R503). -/
  | bcastFrame (p : Port) (f : Frame)
  /-- An ACK frees acknowledged frames (R469). -/
  | ackFrame (p : Port) (f : Frame)
  /-- A NAK acks and starts replay from its value plus one (R470). -/
  | nakFrame (p : Port) (f : Frame)
  /-- A CREDIT frame updates a class's credit limit (R477). -/
  | creditFrame (p : Port) (f : Frame)
  /-- A HOLD holds the sender's new and replayed frames (R475). -/
  | holdFrame (p : Port) (f : Frame)
  /-- A GO releases a held sender (R475). -/
  | goFrame (p : Port) (f : Frame)
  /-- A TRAIN frame in Flow takes the port out of Flow into a new attempt (R488). -/
  | trainInFlow (p : Port) (f : Frame)
  /-- A received VIOLATION is counted in Flow or fails training (R482). -/
  | violationFrame (p : Port) (f : Frame)
  /-- An IDLE keep-alive frame applies its ack (R465). -/
  | idleFrame (p : Port) (f : Frame)
  /-- A frame of reserved TYPE is dropped as a violation (R481). -/
  | reservedTypeFrame (p : Port) (f : Frame)
  /-- The ack timer runs out and the cumulative ack is sent (R468). -/
  | ackTimerExpiry (p : Port)
  /-- The replay timer runs out and unacknowledged frames are replayed (R470). -/
  | replayTimerExpiry (p : Port)
  /-- 8 µs without a sent frame in Flow sends an IDLE frame (R465). -/
  | idleTimerExpiry (p : Port)
  /-- 10 ms without progress logs STALL and the port leaves Flow (R473). -/
  | stallTimeout (p : Port)
  /-- Every 100 µs a receiver sends CREDIT for all classes (R478). -/
  | creditTimer (p : Port)
  /-- A port's one-second tick restarts violation counting (R483). -/
  | violationSecondTick (p : Port)
  /-- The 1 s quarantine hold-off ends and an attempt starts (R483). -/
  | quarantineEnd (p : Port)
  /-- 1.2 s out of Flow, a port acts as a port reset and hands frames back (R787). -/
  | resumeHoldExpiry (p : Port)
  /-- A port starts its next frame by replay, control and class order (R504). -/
  | frameSend (p : Port) (eccDouble : Bool)
  /-- USD_CTRL.RETRAIN sends the port to Dry without a failure (R484). -/
  | usdRetrain (m : Master) (p : Port)
  /-- USD_CTRL.EN enables the port or holds it in Dry (R484). -/
  | usdEnWrite (m : Master) (p : Port) (v : Word)
  /-- USD_XTEST sets loopback or PRBS while the port is disabled in Dry (R486). -/
  | usdXtestWrite (m : Master) (p : Port) (v : Word)
  /-- A locally delivered request is answered from the cache, dropped or executed (R514). -/
  | requestArrival (cacheDouble : Bool)
  /-- An answer completes its SENT tag or is dropped as late (R511). -/
  | answerArrival (tagDouble : Bool)
  /-- SUBMIT takes a request into a tag and sends it or waits for a route (R509). -/
  | txnSubmit (c : Core) (v : Word)
  /-- RELEASE frees a DONE tag of its owner (R512). -/
  | txnRelease (c : Core) (v : Word)
  /-- CLAIM takes ownership of a halted core's tag (R522). -/
  | txnClaim (c : Core) (v : Word)
  /-- ANSWER sends an answer for a PENDING entry and makes it COMPLETE (R516). -/
  | txnAnswer (c : Core) (v : Word)
  /-- BCAST sends a broadcast with the next sequence number (R521). -/
  | txnBcast (c : Core) (v : Word)
  /-- Wellhead TAKE takes the tunnel request held in its slot (R523). -/
  | txnWTake (v : Word)
  /-- Wellhead ANSWER answers the held tunnel request (R523). -/
  | txnWAnswer (v : Word)
  /-- RESEND elapses and a SENT tag is sent again with RESENT set (R510). -/
  | resendTimer (t : Tag)
  /-- A SENT or WAIT tag's timeout ends it DONE with TIMEOUT (R512). -/
  | requestTimeout (t : Tag)
  /-- A cache entry PENDING for 10 s is freed (R517). -/
  | pendingExpiry (e : Entry)
  /-- A COMPLETE cache entry reaches 2 s and becomes reusable (R515). -/
  | completeEntryAged (e : Entry)
  /-- 2 s into the epoch, missed resends are executed rather than refused (R514). -/
  | epochWindowEnd
  /-- A commit to RT_NODE changes the node ID and retrains Flow ports (R496). -/
  | rtNodeWrite (m : Master) (v : Word)
  /-- A commit to RT_ROUTEi sets routing entries and triggers resends (R498). -/
  | rtRouteWrite (m : Master) (i : Fin 512) (v : Word)
  /-- A UART receives one byte into its FIFO with error flags (R689). -/
  | uartRxByte (u : Uart) (b : RxByte)
  /-- Reading CONu_RXD byte +0 pops one received byte (R691). -/
  | uartRxdRead (m : Master) (u : Uart)
  /-- Writing CONu_TXD pushes a byte for transmission (R693). -/
  | uartTxdWrite (m : Master) (u : Uart) (v : Word)
  /-- A UART finishes sending a byte (R693). -/
  | uartTxDone (u : Uart)
  /-- CON1_DE's LEAD time ends and the start bit goes out (R693). -/
  | deLeadEnd
  /-- CON1_DE's TAIL time ends and DE goes inactive (R693). -/
  | deTailEnd
  /-- BS or DEL erases the last typed byte (R536). -/
  | nargaErase (b : Byte)
  /-- 15h erases the whole typed line (R536). -/
  | nargaKill
  /-- 03h discards the typed line (R536). -/
  | nargaCancel
  /-- A line over 255 characters is discarded and answered ER 104 (R534). -/
  | nargaLineTooLong (l : NLine)
  /-- A line with an unknown verb is answered ER 100 (R552). -/
  | nargaUnknownVerb (l : NLine)
  /-- help lists the verbs or one synopsis (R552). -/
  | nargaHelp (l : NLine) (verb : Option String)
  /-- id answers part and stepping (R552). -/
  | nargaId (l : NLine)
  /-- id full lists identity, node, epoch and image versions (R552). -/
  | nargaIdFull (l : NLine)
  /-- stat lists each unit's health and legal state (R552). -/
  | nargaStat (l : NLine)
  /-- ch shows channel state and totalizers (R552). -/
  | nargaCh (l : NLine) (n : Option Nat)
  /-- ch n in issues REEVAL (R552). -/
  | nargaChIn (l : NLine) (n : Nat)
  /-- ch n out issues SETOUT (R552). -/
  | nargaChOut (l : NLine) (n : Nat)
  /-- ch n reload issues RELOAD of the recorded copy (R615). -/
  | nargaChReload (l : NLine) (n : Nat)
  /-- ch n close issues FREEZE and an UNPRICED SIGN (R552). -/
  | nargaChClose (l : NLine) (n : Nat)
  /-- cnv u shows converter state (R552). -/
  | nargaCnv (l : NLine) (u : Cnv)
  /-- cnv u cal issues CALFULL (R552). -/
  | nargaCnvCal (l : NLine) (u : Cnv)
  /-- port p shows port state and counters (R552). -/
  | nargaPort (l : NLine) (p : Nat)
  /-- port p peer shows partner, RTT and timers (R552). -/
  | nargaPortPeer (l : NLine) (p : Nat)
  /-- port p retrain sets RETRAIN (R552). -/
  | nargaPortRetrain (l : NLine) (p : Nat)
  /-- port p on sets EN = 1 (R552). -/
  | nargaPortOn (l : NLine) (p : Nat)
  /-- port p off sets EN = 0 (R552). -/
  | nargaPortOff (l : NLine) (p : Nat)
  /-- route node shows node ID, V and epoch (R552). -/
  | nargaRouteNode (l : NLine)
  /-- route node set writes RT_NODE (R552). -/
  | nargaRouteNodeSet (l : NLine) (id : Nat)
  /-- route id shows a routing entry (R552). -/
  | nargaRoute (l : NLine) (id : Nat)
  /-- route id set writes a routing entry (R552). -/
  | nargaRouteSet (l : NLine) (id : Nat) (nbr : Option Nat)
  /-- route tunnel shows or sets tunnel admission (R551). -/
  | nargaRouteTunnel (l : NLine) (set : Option TunnelSetting)
  /-- log health lists the newest health records (R552). -/
  | nargaLogHealth (l : NLine) (k : Option Nat)
  /-- log legal lists the newest legal records (R552). -/
  | nargaLogLegal (l : NLine) (k : Option Nat)
  /-- log health from lists health records from a sequence (R552). -/
  | nargaLogHealthFrom (l : NLine) (s : Nat) (k : Option Nat)
  /-- log legal from lists legal records from a sequence (R552). -/
  | nargaLogLegalFrom (l : NLine) (s : Nat) (k : Option Nat)
  /-- tarn shows seal, tamper, log and key state (R552). -/
  | nargaTarn (l : NLine)
  /-- tarn time shows the RTC or issues TIMESET (R552). -/
  | nargaTarnTime (l : NLine) (set : Option Nat)
  /-- tarn logack issues LOGACK (R552). -/
  | nargaTarnLogack (l : NLine) (s : Nat)
  /-- tarn nonce issues NONCE (R552). -/
  | nargaTarnNonce (l : NLine)
  /-- tarn stage writes bytes into the staging area (R553). -/
  | nargaTarnStage (l : NLine) (off : Nat) (data : List Byte)
  /-- tarn submit issues SIGNED with the staging area and empties it (R553). -/
  | nargaTarnSubmit (l : NLine)
  /-- pwr shows power state, VIN, HOLD and GMAX (R552). -/
  | nargaPwr (l : NLine)
  /-- pwr go requests a power state (R552). -/
  | nargaPwrGo (l : NLine) (ps : Nat)
  /-- clk shows clock sources, PLLs and monitors (R552). -/
  | nargaClk (l : NLine)
  /-- img shows each image slot's version and state (R552). -/
  | nargaImg (l : NLine)
  /-- img verify verifies an image slot (R614). -/
  | nargaImgVerify (l : NLine) (img : ImageRef)
  /-- img activate verifies and activates an image under the update lock (R614). -/
  | nargaImgActivate (l : NLine) (img : ImageRef)
  /-- reconcile shows both views and REEVALs or re-examines the unit (R590). -/
  | nargaReconcile (l : NLine) (unit : Byte)
  /-- app passes text to ledger firmware through the Wellhead mailbox (R555). -/
  | nargaApp (l : NLine) (text : List Byte)
  /-- reset core answers, then asks for a core reset (R556). -/
  | nargaResetCore (l : NLine) (c : Nat)
  /-- reset port puts the port in Dry without resume and restarts it (R672). -/
  | nargaResetPort (l : NLine) (p : Nat)
  /-- reset device answers, then asks for a device reset (R556). -/
  | nargaResetDevice (l : NLine)
  /-- more returns the next lines of the last tunnel response (R549). -/
  | nargaMore (l : NLine)
  /-- expert on raises the session to expert level (R557). -/
  | nargaExpertOn (l : NLine)
  /-- expert off lowers the session to basic level (R557). -/
  | nargaExpertOff (l : NLine)
  /-- xreg addr reads a 32-bit register (R560). -/
  | nargaXregRead (l : NLine) (a : Nat)
  /-- xreg addr value writes a device register with EXP set around it (R559). -/
  | nargaXregWrite (l : NLine) (a : Nat) (v : Nat)
  /-- xch scrub sets CE_XSCRUB.INT (R560). -/
  | nargaXchScrub (l : NLine) (n : Nat) (i : Nat)
  /-- xch inj writes CE_XINJ with ARM set (R560). -/
  | nargaXchInj (l : NLine) (n : Nat) (word : Nat) (bit : Nat)
  /-- xcnv raw on or off writes CNV_XRAW (R560). -/
  | nargaXcnvRaw (l : NLine) (u : Cnv) (on : Bool)
  /-- xcnv surge fires the surge comparator (R560). -/
  | nargaXcnvSurge (l : NLine) (u : Cnv)
  /-- xport loop sets near-end loopback (R560). -/
  | nargaXportLoop (l : NLine) (p : Nat)
  /-- xport prbs sets the PRBS7 test (R560). -/
  | nargaXportPrbs (l : NLine) (p : Nat)
  /-- xport test off clears port tests (R560). -/
  | nargaXportTestOff (l : NLine) (p : Nat)
  /-- xport head writes USD_XHEAD (R560). -/
  | nargaXportHead (l : NLine) (p : Nat) (b : Nat)
  /-- xport gohyst writes USD_XGOHYST (R560). -/
  | nargaXportGohyst (l : NLine) (p : Nat) (b : Nat)
  /-- xclk mon shows clock-monitor counts and limits (R560). -/
  | nargaXclkMon (l : NLine) (clock : Option Nat)
  /-- A command answered BZ 501 finishes and sends its final status (R546). -/
  | backgroundCommandDone
  /-- 10 min without a line returns the session to basic level (R557). -/
  | expertIdleTimeout (sess : Session)
  /-- A tunnel session idle 60 s ends (R550). -/
  | tunnelSessionIdle (sess : Session)
  /-- Wellhead samples a sensor and logs limit crossings and clearings (R572). -/
  | sensorSample (i : Sensor) (reading : Int) (selfTestFails : Bool)
  /-- Wellhead reads the clock monitors every 1 ms and logs changes (R575). -/
  | clockMonitorPoll
  /-- Wellhead copies a seal, mesh or case change into WMB_TAMP (R575). -/
  | tamperStatusCopy
  /-- Every 1 ms Wellhead compares legal and health views, logging mismatches (R589). -/
  | viewCompare
  /-- Wellhead applies a health change and drives the FAILED latches (R580). -/
  | healthTransition
  /-- Wellhead writes the older state-area copy after a change (R588). -/
  | stateAreaWrite
  /-- At the end of a second, one LOG-SUPPRESSED record carries the dropped count (R586). -/
  | logSuppressSecond
  /-- Ledger firmware's WMB_APUT hands one reply line to Wellhead (R592). -/
  | appPut (m : Master) (v : Word)
  /-- Wellhead takes the reply line and sets READY again (R592). -/
  | appLineTake
  /-- No final app line within 1 s closes the exchange with ER 401 (R593). -/
  | appTimeout
  /-- WMB_XPIN.TESTREPL asserts or drops a REPLACE_N cause (R594). -/
  | wmbXpinWrite (m : Master) (v : Word)
  /-- Wellhead's 50 ms watchdog or an SRAM error restarts Wellhead firmware (R600). -/
  | wellheadWatchdog
  /-- Wellhead runs again, restores its state and logs WELLHEAD-RESTART (R600). -/
  | wellheadRestartDone
  /-- Wellhead restores state, scans the log, steps the epoch and starts sensors (R602). -/
  | wellheadStart
  /-- After release Tarn raises rollback floors from confirmed running images (R608). -/
  | rollbackFloorCheck
  /-- After release Tarn starts copying a new active TFW slot into its other bank (R616). -/
  | tfwInstall
  /-- The TFW copy is checked and marked to run at next start (R616). -/
  | tfwInstallDone (ok : Bool)
  /-- 10 min of clean running confirms a TRIAL image (R613). -/
  | trialConfirm (t : Fin 3)
  /-- A commit of PWR_REQ.TARGET 1–5 requests a power state (R625). -/
  | pwrRequest (m : Master) (v : Word)
  /-- A commit of TARGET 0 cancels a pending request or wakes (R625). -/
  | pwrCancel (m : Master) (v : Word)
  /-- Once the cores are quiet the ladder runs the entry steps to the target (R628). -/
  | ladderEntry
  /-- WAKE_N held low 10 µs is a wake source (R630). -/
  | wakeNLow
  /-- All clocks run again and PWR_EVT.WOKE is set (R631). -/
  | wakeComplete
  /-- A PLL locks after its reference runs in tolerance (R640). -/
  | pllLock (pll : Pll) (refinMilli : Nat)
  /-- XIN loss faults the converters, moves SPLL to RCO and drops the ports (R656). -/
  | xinLoss
  /-- XIN valid 100 ms moves SPLL back and clears FOVR (R657). -/
  | xinRestore
  /-- XRTC loss moves the RTC onto RCO (R641). -/
  | xrtcLoss
  /-- XRTC valid 1 s returns the RTC to XRTC (R641). -/
  | xrtcRestore
  /-- SPLL out of lock with XIN valid causes a device reset (R658). -/
  | spllUnlock
  /-- CPLL out of lock faults both converters CLOCK (R658). -/
  | cpllUnlock
  /-- TPLL out of lock restarts Tarn (R658). -/
  | tpllUnlock
  /-- RCO outside ±3 % is logged (R660). -/
  | rcoRange (stopped : Bool)
  /-- ECLK stopped 1 µs releases every DEN and closes sessions INTERRUPTED (R659). -/
  | eclkStop
  /-- CLK_XFORCE forces SPLL or the RTC onto RCO (R646). -/
  | clkXforceWrite (m : Master) (v : Word)
  /-- VIN valid begins a start (VIN or BROWNOUT) (R662). -/
  | vinValid (boot : BitVec 2)
  /-- VCORE not valid after 5 ms stops the buck and retries every 10 ms (R686). -/
  | buckRetry (valid : Bool)
  /-- 100 ms after VIN valid without XIN, Tarn logs XIN-ABSENT (R685). -/
  | xinAbsent
  /-- Spring discovers the flash, selects and verifies images and writes release sets (R665). -/
  | springStart (flash : FlashAnswer)
  /-- When firmware, Wellhead, Tarn and engines are ready, the cores are released (R663). -/
  | coreRelease
  /-- RESET_N low 1 µs begins a device reset (R668). -/
  | resetNLow
  /-- RESET_N going high resumes the timeline (R668). -/
  | resetNHigh (boot : BitVec 2)
  /-- A device reset rebuilds all but Tarn, always-on and the NVLA (R669). -/
  | deviceReset (cause : ResetCause) (boot : BitVec 2)
  /-- A core reset stops, resets and re-releases one core (R671). -/
  | coreReset (c : Core)
  /-- PFAIL moves the buck to HOLD and starts the hold-up sequence (R675). -/
  | pfail
  /-- HOLD below 4.0 V stops the always-on domain (R677). -/
  | holdRundown
  /-- A commit of IICi_XFER starts an I²C transfer (R696). -/
  | iicXfer (m : Master) (i : Iic) (v : Word)
  /-- An I²C transfer ends with its result and DONE (R696). -/
  | iicXferDone (i : Iic) (r : IicResult)
  /-- CMD.ABORT resets the controller and releases the bus (R698). -/
  | iicAbort (m : Master) (i : Iic)
  /-- CMD.CLEAR starts a bus clear (R699). -/
  | iicClear (m : Master) (i : Iic)
  /-- Setting CFG.EN runs a bus clear before accepting transfers (R699). -/
  | iicEnable (m : Master) (i : Iic) (v : Word)
  /-- Clearing CFG.EN resets the controller (R698). -/
  | iicDisable (m : Master) (i : Iic) (v : Word)
  /-- A bus clear ends, clearing or setting STUCK (R699). -/
  | iicBusClearDone (i : Iic) (foundLow : Bool) (pulses : Nat) (endsHigh : Bool)
  /-- SCL held low over 35 ms ends the transfer SCLTO (R700). -/
  | smbusTimeout (i : Iic)
  /-- Writing IICi_WDATA pushes a byte into the transmit FIFO (R696). -/
  | iicWdataWrite (m : Master) (i : Iic) (v : Word)
  /-- Reading IICi_RDATA byte +0 pops a received byte (R696). -/
  | iicRdataRead (m : Master) (i : Iic)
  /-- QSPI_OP PROGRAM writes up to a page and reads it back (R704). -/
  | qspiProgram (m : Master) (v : Word)
  /-- QSPI_OP ERASE4K erases a 4 KiB sector (R704). -/
  | qspiErase4k (m : Master) (v : Word)
  /-- QSPI_OP ERASE64K erases a 64 KiB block (R704). -/
  | qspiErase64k (m : Master) (v : Word)
  /-- QSPI_OP READSTAT reads the flash status byte (R704). -/
  | qspiReadstat (m : Master) (v : Word)
  /-- The flash busy bit clears and the operation ends with its result (R704). -/
  | qspiOpDone (status : Byte) (readBackOk : Bool)
  /-- An operation whose busy bit outlasts its limit ends TIMEOUT (R706). -/
  | qspiTimeout
  /-- GP_SET sets the written output bits (R711). -/
  | gpSet (m : Master) (v : Word)
  /-- GP_CLR clears the written output bits (R711). -/
  | gpClr (m : Master) (v : Word)
  /-- A matching edge on a GP pin sets GP_EVT (R712). -/
  | gpEdge (i : Fin 16) (rising : Bool)
  /-- TRST_N, five TMS-high cycles or a start reset the TAP (R714). -/
  | tapReset
  /-- EXTEST selects the boundary register driving outputs (R714). -/
  | tapExtest
  /-- SAMPLE/PRELOAD selects the boundary register (R714). -/
  | tapSamplePreload
  /-- IDCODE selects the IDCODE register (R714). -/
  | tapIdcode
  /-- HIGHZ releases every boundary output (R714). -/
  | tapHighz
  /-- CLAMP holds outputs from the boundary register (R714). -/
  | tapClamp
  /-- BYPASS or an unlisted opcode selects the bypass register (R714). -/
  | tapBypass (opcode : Byte)
  /-- DBGACC poll returns the status of the last access (R719). -/
  | dbgaccPoll
  /-- DBGACC read performs a test-access read (R719). -/
  | dbgaccRead (a : Word) (half : Bool) (low : BitVec 15)
  /-- DBGACC write performs a test-access staged write (R719). -/
  | dbgaccWrite (a : Word) (data : Half) (half : Bool) (low : BitVec 15)
  /-- A reserved DBGACC op returns refused (R719). -/
  | dbgaccReserved
  /-- DBGHALT halts a ledger core with HCAUSE 01h while debug is allowed (R718). -/
  | dbghalt (c : Core) (halt : Bool)
  /-- The debug window's seconds run out and DEBUG-ENDED is logged (R717). -/
  | debugExpiry
  /-- A DEN in current limit for 1 ms is released for 100 ms (R754). -/
  | denOvercurrent (n : Chan)
  /-- After 100 ms a released DEN sinks again if the interlock calls (R754). -/
  | denRetry (n : Chan)
  /-- A bank supply leaving or re-entering range stops or resumes its pins (R733). -/
  | vioBankChange (bank : Fin 3) (milli : Nat)
  /-- Setting TMRt_CFG.EN loads COUNT from LOAD (R762). -/
  | tmrEnable (m : Master) (t : Fin 2) (v : Word)
  /-- A timer count reaches 0, setting its event and reloading or stopping (R762). -/
  | tmrExpiry (t : Fin 2)
  /-- The RTC second equals RTC_ALARM, setting ALARM and waking the ladder (R761). -/
  | rtcAlarm
  /-- In PS4 and PS5 the low-power comparator latches a tamper-mesh break and acts as the TAMP wake source (R92). -/
  | lowPowerComparatorBreak (src : LowPowerBreak)
  /-- A ledger core's state-machine check halts it with HCAUSE 82h, logs 0182h and sets it FAILED with REPLACE_N (R408). -/
  | stateMachineCheck (f : FailedCheck)
  deriving DecidableEq, Repr

end Sys2Proof
end

