-- ==== Sys2Proof/Machine/Flags.lean ====
section
/-! DEFINITION. The carry digit CD and the conditions of a compare-and-branch (R241, R245): every flag computation of a ledger core. -/

namespace Sys2Proof.Machine

/-- ADDC: the result byte and the new CD, t div 256 (R245). -/
def addDigit (a m : Byte) (cd : Nat) : Byte × Nat :=
  let t := a.toNat + m.toNat + cd
  (BitVec.ofNat 8 t, t / 256)

/-- SUBB: the result byte and the new CD: 0 for no borrow, 1 down to −256, 2 below (R245). -/
def subDigit (a m : Byte) (cd : Nat) : Byte × Nat :=
  let b := m.toNat + cd
  (BitVec.ofNat 8 (a.toNat + 768 - b), if b ≤ a.toNat then 0 else if b ≤ a.toNat + 256 then 1 else 2)

/-- The binary carry that CD stands for in a rotate (R245). -/
def carryIn (cd : Nat) : Byte := if cd = 0 then 0 else 1

/-- The shifts and rotates of Table 7.4: the result and the new CD. -/
def shlByte (a : Byte) : Byte × Nat := (a <<< 1, field a 7 1)
def shrByte (a : Byte) : Byte × Nat := (a >>> 1, field a 0 1)
def asrByte (a : Byte) : Byte × Nat := (a.sshiftRight 1, field a 0 1)
def rolByte (a : Byte) (cd : Nat) : Byte × Nat := (a <<< 1 ||| carryIn cd, field a 7 1)
def rorByte (a : Byte) (cd : Nat) : Byte × Nat := (a >>> 1 ||| carryIn cd <<< 7, field a 0 1)

/-- Whether a condition code holds for a and b (Table 7.2); Ch to Fh are reserved and never reach here. -/
def condHolds {w : Nat} (cc : Nat) (a b : BitVec w) : Bool :=
  match cc with
  | 0 => decide (a = b)
  | 1 => decide (a ≠ b)
  | 2 => a.ult b
  | 3 => b.ule a
  | 4 => b.ult a
  | 5 => a.ule b
  | 6 => a.slt b
  | 7 => b.sle a
  | 8 => b.slt a
  | 9 => a.sle b
  | 10 => decide (a &&& b ≠ 0)
  | 11 => decide (a &&& b = 0)
  | _ => false

/-- The condition of a branch word, and its displacement sign-extended (R241). -/
def branchCond (bw : Half) : Nat := field bw 12 4
def branchDisp (bw : Half) : Half := ((bw.setWidth 12 : BitVec 12).signExtend 16)

end Sys2Proof.Machine
end

