-- ==== Sys2Proof/Config.lean ====
section
/-! DEFINITION. What the part fixes at manufacture and what the spec leaves open: constants without a body. A claim holds
whatever they are. -/

namespace Sys2Proof.Config

/-- Whether the part is an HLB8-X; it is an HLB8-I otherwise (Table 0.1, SYSID). -/
opaque gradeX : Bool
/-- SYS_UID_HI and SYS_UID_LO, written at manufacture (spec/02). -/
opaque uid : BitVec 64
/-- The 32 bytes of the device Ed25519 public key (R81). -/
opaque publicKey : Nat → BitVec 8
/-- Keskaken's Ed25519 signing at manufacture: the message's bytes to the 64 signature bytes (R81). -/
opaque keskakenSign : List (BitVec 8) → Nat → BitVec 8
/-- The 64 bytes of Keskaken's factory signature: over the public key followed by SYS_UID_HI and SYS_UID_LO, big-endian (R81). -/
def factorySig : Nat → BitVec 8 := keskakenSign ((List.range 32).map publicKey ++ beBytes 8 uid.toNat)
/-- The Keskaken public keys K0 and K1 in the boot ROM and in Tarn (spec/17, Table 17.4). -/
opaque keskakenKey : Bool → BitVec 256
/-- The contents of the Spring boot ROM, which the spec does not give (Table 2.1). -/
opaque romByte : Nat → BitVec 8
/-- Ed25519 signing with the device key, which never leaves Tarn (R23, R71, R81): the message's bytes to the 64 signature bytes. -/
opaque sign : List (BitVec 8) → Nat → BitVec 8
/-- Whether an Ed25519 signature verifies: public key, message, signature (R88, R604). -/
opaque verify : BitVec 256 → List (BitVec 8) → List (BitVec 8) → Bool
/-- The fresh 8-byte nonce Tarn draws (R84), by the counter of free values. -/
opaque nonce : Nat → BitVec 64
/-- The seal word that was being written as HOLD fell below 4.0 V, where one was, as its journal slot then holds it (R431, R687), by the counter
of free values. -/
opaque tornSeal : Nat → Option (BitVec 32)
/-- The L2-LAB entry that a random replacement takes (R356), by the counter of free values. -/
opaque victim : Nat → Nat
/-- The 32 bytes of the SHA-256 of the Tarn firmware that Tarn runs from manufacture (R616). -/
opaque tarnDigest : Nat → BitVec 8
/-- The 8-byte packed quantity of a session whose SES has more than 15 digits, which the spec does not state (R73). -/
opaque wideQuantity : Nat → BitVec 64
/-- The digits USUB stores when t + 10^(2n1) is still negative, which R286 does not state: of X, Y and CD (log 12). -/
opaque deepBorrow : Nat → Nat → Nat → Nat
/-- What a byte of a ledger-SRAM bank reads as that lost its power in Deep (Table 18.1), by the counter of free values and the address. -/
opaque lostByte : Nat → Nat → BitVec 8
/-- Whether S-form ROT brings the third byte to the top (else the top byte goes third), which Table 7.8 does not say (log 26). -/
opaque rotUp : Bool
/-- The 8 check bits that the Basbel generates for a control-store word; R129 names the code but not the places of its bits. -/
opaque checkBits : BitVec 96 → BitVec 8
/-- Values that the spec leaves unstated, by the counter of free values. -/
opaque freeWord : Nat → BitVec 32

end Sys2Proof.Config
end

