-- ==== Sys2Proof/Machine/Addr.lean ====
section
/-! DEFINITION. The physical map (spec/02 Table 2.1), the addresses of the device registers (spec/22 Table 22.1, R756 to R758)
and their reset values. -/

namespace Sys2Proof.Machine

/-- A region of the physical map (R21). -/
inductive Region where
  | sram | nvla | image | hlog | tarnWin | rom | dev | qspi | ctlStore | unmapped
  deriving DecidableEq, Repr

/-- The region that holds a physical address (R21, Table 2.1). Device-register block Fh is unmapped (Table 2.3). -/
def region (a : Nat) : Region :=
  if a < 0x00200000 then .sram
  else if a < 0x01000000 then .unmapped
  else if a < 0x01740000 then .nvla
  else if a < 0x017C0000 then .image
  else if a < 0x01800000 then .hlog
  else if a < 0x02000000 then .unmapped
  else if a < 0x02040000 then .tarnWin
  else if a < 0x03000000 then .unmapped
  else if a < 0x03010000 then .rom
  else if a < 0x04000000 then .unmapped
  else if a < 0x040F0000 then .dev
  else if a < 0x05000000 then .unmapped
  else if a < 0x06000000 then .qspi
  else if a < 0x06034000 then .ctlStore
  else .unmapped

namespace Reg

/-! Register addresses; `+ k * s` registers take their index. -/
def sysCtrl := 0x04000000
def sysStat := 0x04000004
def sysId := 0x04000008
def sysReswSum := 0x0400000C
def berrAddr := 0x04000010
def berrInfo := 0x04000014
def uidLo := 0x04000018
def uidHi := 0x0400001C
def sysWho := 0x04000020

def cpCtrl := 0x04010000
def cpStat := 0x04010004
def pwrReq := 0x04010010
def pwrWakeen := 0x04010014
def pwrWcause := 0x04010018
def pwrRet := 0x0401001C
def pwrEvt := 0x04010020
def pwrIen := 0x04010024
def clkStat := 0x04010100
def clkLoss := 0x04010104
def clkMeas (k : Nat) := 0x04010110 + k * 4
def clkXforce := 0x04010200

def nvlCtrl := 0x04018000
def nvlStat := 0x04018004
def nvlEvt := 0x04018008
def nvlIen := 0x0401800C
def nvlHold := 0x04018010
def cgCmd (c : Nat) := 0x04018100 + c * 0x20
def cgStat (c : Nat) := 0x04018104 + c * 0x20
def cgLast (c : Nat) := 0x04018108 + c * 0x20

def lcc (c : Nat) := 0x04020000 + c * 0x1000
def lccCtrl (c : Nat) := lcc c
def lccStat (c : Nat) := lcc c + 4
def lccMode (c : Nat) := lcc c + 8
def lccCache (c : Nat) := lcc c + 0xC
def lccFallback (c : Nat) := lcc c + 0x10
def lccVbase (c : Nat) := lcc c + 0x14
def lccEntry (c : Nat) := lcc c + 0x18
def lccCtxgo (c : Nat) := lcc c + 0x1C
def kwin (c k : Nat) := lcc c + 0x100 + k * 0x20
def kstate (c k : Nat) := kwin c k
def kpc (c k : Nat) := kwin c k + 4
def krsb (c k : Nat) := kwin c k + 8
def kdsl (c k : Nat) := kwin c k + 0xC
def krsn (c k : Nat) := kwin c k + 0x10
def kax (c k : Nat) := kwin c k + 0x14
def kyl (c k : Nat) := kwin c k + 0x18
def kdp (c k : Nat) := kwin c k + 0x1C
def xrslim (c : Nat) := lcc c + 0x200

def xltCtrl := 0x04030000
def xltStat := 0x04030004
def xltXdiag := 0x04030010
def xltWin (c k : Nat) := 0x04030100 + (c * 8 + k) * 0x40
def bdtb (c k : Nat) := xltWin c k
def bdtn (c k : Nat) := xltWin c k + 4
def pbrL (c k i : Nat) := xltWin c k + 0x10 + i * 8
def pbrP (c k i : Nat) := xltWin c k + 0x14 + i * 8
def xltKey (j : Nat) := 0x04031000 + j * 4

def ce (n : Nat) := 0x04040000 + n * 0x1000
def ceCtrl (n : Nat) := ce n
def ceStat (n : Nat) := ce n + 4
def ceEvt (n : Nat) := ce n + 8
def ceHparam (n : Nat) := ce n + 0xC
def ceUpc (n : Nat) := ce n + 0x10
def ceEcc (n : Nat) := ce n + 0x14
def ceFinfo (n : Nat) := ce n + 0x18
def ceMb (n k : Nat) := ce n + 0x100 + k * 4
def ceMbseq (n : Nat) := ce n + 0x140
def ceXscrub (n : Nat) := ce n + 0x200
def ceXinj (n : Nat) := ce n + 0x204

def cnv (u : Nat) := 0x04050000 + u * 0x1000
def cnvCtrl (u : Nat) := cnv u
def cnvStat (u : Nat) := cnv u + 4
def cnvCmd (u : Nat) := cnv u + 8
def cnvEvt (u : Nat) := cnv u + 0xC
def cnvIen (u : Nat) := cnv u + 0x10
def cnvTrig (u : Nat) := cnv u + 0x14
def cnvTdac (u : Nat) := cnv u + 0x18
def cnvSurge (u : Nat) := cnv u + 0x1C
def cnvDiagr (u : Nat) := cnv u + 0x20
def cnvDiagseq (u : Nat) := cnv u + 0x24
def cnvDeclare (u : Nat) := cnv u + 0x28
def cnvCalst (u : Nat) := cnv u + 0x2C
def cnvSlow (u : Nat) := cnv u + 0x30
def cnvSeq (u e : Nat) := cnv u + 0x40 + e * 4
def cnvCaloff (u g : Nat) := cnv u + 0x80 + g * 8
def cnvCalgain (u g : Nat) := cnv u + 0x84 + g * 8
def cnvLoff (u g : Nat) := cnv u + 0xC0 + g * 8
def cnvLgain (u g : Nat) := cnv u + 0xC4 + g * 8
def cnvXraw (u : Nat) := cnv u + 0x200
def cnvXsurge (u : Nat) := cnv u + 0x204

def usd (p : Nat) := 0x04060000 + p * 0x1000
def usdCtrl (p : Nat) := usd p
def usdStat (p : Nat) := usd p + 4
def usdEvt (p : Nat) := usd p + 8
def usdIen (p : Nat) := usd p + 0xC
def usdTimer (p : Nat) := usd p + 0x10
def usdPool (p : Nat) := usd p + 0x14
def usdRtt (p : Nat) := usd p + 0x18
def usdEff (p : Nat) := usd p + 0x1C
def usdPeer (p : Nat) := usd p + 0x20
def usdVcnt (p k : Nat) := usd p + 0x40 + (k - 1) * 4
def usdCntCrc (p : Nat) := usd p + 0x60
def usdCntNaktx (p : Nat) := usd p + 0x64
def usdCntNakrx (p : Nat) := usd p + 0x68
def usdCntReplay (p : Nat) := usd p + 0x6C
def usdCntDup (p : Nat) := usd p + 0x70
def usdCntHolddrop (p : Nat) := usd p + 0x74
def usdCntViolrx (p : Nat) := usd p + 0x78
def usdXhead (p : Nat) := usd p + 0x200
def usdXgohyst (p : Nat) := usd p + 0x204
def usdXtest (p : Nat) := usd p + 0x208

def rtCtrl := 0x04064000
def rtStat := 0x04064004
def rtNode := 0x04064008
def rtEpoch := 0x0406400C
def rtBseq := 0x04064010
def rtEvt := 0x04064014
def rtIen := 0x04064018
def rtCntDrop := 0x04064020
def rtCntNoroute := 0x04064024
def rtCntBack := 0x04064028
def rtCntMalf := 0x0406402C
def rtCntBdup := 0x04064030
def rtRoute (i : Nat) := 0x04064800 + i * 4

def txnCtrl := 0x04065000
def txnStat := 0x04065004
def txnTimeout := 0x04065008
def txnEvt := 0x0406500C
def txnIen := 0x04065010
def txnCntLate := 0x04065014
def txnDone (i : Nat) := 0x04065018 + i * 4
def txnDien (i : Nat) := 0x04065020 + i * 4
def txnRing := 0x04065030
def txnRhead := 0x04065034
def txnRtail := 0x04065038
def txnSlot (c : Nat) := 0x04065100 + c * 0x20
def txnAddr (c : Nat) := txnSlot c
def txnAbuf (c : Nat) := txnSlot c + 4
def txnArg (c : Nat) := txnSlot c + 8
def txnCmd (c : Nat) := txnSlot c + 0xC
def txnRsp (c : Nat) := txnSlot c + 0x10
def txnWRq := 0x04065180
def txnWSrc := 0x04065184
def txnWArg := 0x04065188
def txnWCmd := 0x0406518C
def txnWRsp := 0x04065190
def txnWAbuf (j : Nat) := 0x04065200 + j * 4
def txnWReq (j : Nat) := 0x04065300 + j * 4
def txnTag (t : Nat) := 0x04065400 + t * 8
def txnCache (e : Nat) := 0x04065800 + e * 4

def conCtrl := 0x04070000
def conStat := 0x04070004
def conWin (u : Nat) := 0x04070100 + u * 0x100
def conCfg (u : Nat) := conWin u
def conEvt (u : Nat) := conWin u + 4
def conIen (u : Nat) := conWin u + 8
def conFifo (u : Nat) := conWin u + 0xC
def conTxd (u : Nat) := conWin u + 0x10
def conRxd (u : Nat) := conWin u + 0x14
def con1De := 0x04070218

def iicCtrl := 0x04080000
def iicStat := 0x04080004
def iicWin (i : Nat) := 0x04080100 + i * 0x100
def iicCfg (i : Nat) := iicWin i
def iicCmd (i : Nat) := iicWin i + 4
def iicXfer (i : Nat) := iicWin i + 8
def iicResult (i : Nat) := iicWin i + 0xC
def iicEvt (i : Nat) := iicWin i + 0x10
def iicIen (i : Nat) := iicWin i + 0x14
def iicWdata (i : Nat) := iicWin i + 0x18
def iicRdata (i : Nat) := iicWin i + 0x1C

def pioCtrl := 0x04090000
def pioStat := 0x04090004
def pioQcfg (n : Nat) := 0x04090100 + n * 4
def pioQcnt (n : Nat) := 0x04090140 + n * 4
def gpIn := 0x04090200
def gpOut := 0x04090204
def gpSet := 0x04090208
def gpClr := 0x0409020C
def gpDir := 0x04090210
def gpOd := 0x04090214
def gpCfg (i : Nat) := 0x04090220 + i * 4
def gpEvt := 0x04090260
def gpIen := 0x04090264

def tmbCtrl := 0x040A0000
def tmbStat := 0x040A0004
def tmbEvt := 0x040A0008
def tmbIen := 0x040A000C
def tmbXdiag := 0x040A0010
def tmbSlot (s : Nat) := 0x040A0100 + s * 0x40
def tmbCmd (s : Nat) := tmbSlot s
def tmbArg (s i : Nat) := tmbSlot s + 4 + i * 4
def tmbRsp (s : Nat) := tmbSlot s + 0x20
def tmbRdata (s i : Nat) := tmbSlot s + 0x24 + i * 4
def tmbAck (s : Nat) := tmbSlot s + 0x3C

def wmbCtrl := 0x040B0000
def wmbStat := 0x040B0004
def wmbEvt := 0x040B0008
def wmbIen := 0x040B000C
def wmbLogseq := 0x040B0010
def wmbRepl := 0x040B0014
def wmbSensor (i : Nat) := 0x040B0020 + i * 4
def wmbTamp := 0x040B0050
def wmbAreq (j : Nat) := 0x040B0100 + j * 4
def wmbActl := 0x040B0200
def wmbAput := 0x040B0204
def wmbArstat := 0x040B0208
def wmbAline (j : Nat) := 0x040B0300 + j * 4
def wmbUnit (u : Nat) := 0x040B0400 + u * 4
def wmbXpin := 0x040B0600

def irqCtrl := 0x040C0000
def irqStat := 0x040C0004
def irqRaw (i : Nat) := 0x040C0008 + i * 4
def irqDbset := 0x040C0010
def irqDb := 0x040C0014
def irqRsdrop := 0x040C0018
def irqWdt (c : Nat) := 0x040C0020 + c * 4
def irqLine (n : Nat) := 0x040C0100 + n * 4
def irqXforce := 0x040C0200
def irqFi (c k i : Nat) := 0x040C0400 + (c * 8 + k) * 0x20 + i * 4

def tmrCtrl := 0x040D0000
def tmrStat := 0x040D0004
def tmrEvt := 0x040D0008
def tmrIen := 0x040D000C
def rtcSec := 0x040D0010
def rtcFrac := 0x040D0014
def rtcAlarm := 0x040D0018
def rtcActl := 0x040D001C
def tmrCfg (t : Nat) := 0x040D0100 + t * 0x10
def tmrLoad (t : Nat) := 0x040D0104 + t * 0x10
def tmrCount (t : Nat) := 0x040D0108 + t * 0x10

def qspiCtrl := 0x040E0000
def qspiStat := 0x040E0004
def qspiInfo := 0x040E0008
def qspiAddr := 0x040E0010
def qspiOp := 0x040E0014
def qspiRes := 0x040E0018
def qspiEvt := 0x040E001C
def qspiIen := 0x040E0020
def qspiBuf (j : Nat) := 0x040E0400 + j * 4

/-- The reset value of the stored bits of a register (R756, Table 22.1). Fields that are read live from elsewhere in the state
(LCC_STAT.CORE, CONu_EVT, TXN_STAT, WMB_ARSTAT and the like) take their reset value there. -/
def resetVal (a : Nat) : Word :=
  let blk := a / 0x10000
  let off := a % 0x10000
  let u := off % 0x1000
  if blk = 0x0400 then 0
  else if blk = 0x0401 then
    if off = 0x14 then 0x83 else if off = 0x1C then 0xFFFF else if off = 0x8000 then 4 else 0
  else if blk = 0x0402 then
    if u = 8 then 1 else if u = 0x200 then 0x1C
    else if 0x100 ≤ u ∧ u < 0x200 ∧ u % 0x20 = 0xC then 0xFFFF0000 else 0
  else if blk = 0x0404 then if u = 0x200 then 0x400 else 0
  else if blk = 0x0405 then
    if u = 0x18 then 0x200
    else if 0x40 ≤ u ∧ u < 0x80 then 0x400
    else if 0x80 ≤ u ∧ u < 0xB0 ∧ u % 8 = 4 then 0x40000000
    else if 0xC0 ≤ u ∧ u < 0xF0 ∧ u % 8 = 4 then 0x40000000 else 0
  else if blk = 0x0406 then
    if off < 0x4000 then
      if u = 0 then 0xF else if u = 0x10 then 0x1808 else if u = 0x14 then 0x40404040
      else if u = 0x204 then 0x1000 else 0
    else if 0x4800 ≤ off ∧ off < 0x5000 then 0xFFFFFFFF
    else if off = 0x5008 then 0x00050032 else 0
  else if blk = 0x0407 then
    if off = 0x100 then 0x0601C200 else if off = 0x200 then 0x0001C200
    else if off = 0x10C ∨ off = 0x20C then 0x00010000
    else if off = 0x218 then 0x101 else 0
  else if blk = 0x040B then if off = 0 then 3 else 0
  else 0

end Reg
end Sys2Proof.Machine
end

