-- ==== Sys2Proof/Machine/Hash.lean ====
section
/-! DEFINITION. The checks and the digest the spec names: CRC-16/CCITT-FALSE (R539), the IEEE 802.3 CRC-32 (R431, R464, R609) and
SHA-256 (R75, R603). SHA-256 and CRC-32 are written from their published standards: PRESUMED (log 10). -/

namespace Sys2Proof.Machine

/-- One bit of CRC-16/CCITT-FALSE (R539). -/
def crc16Bit (crc : Half) : Half :=
  if bit crc 15 then (crc <<< 1) ^^^ 0x1021 else crc <<< 1

/-- One byte of CRC-16/CCITT-FALSE (R539). -/
def crc16Byte (crc : Half) (b : Byte) : Half :=
  let x := crc ^^^ (b.setWidth 16 <<< 8)
  crc16Bit (crc16Bit (crc16Bit (crc16Bit (crc16Bit (crc16Bit (crc16Bit (crc16Bit x)))))))

/-- CRC-16/CCITT-FALSE over the bytes (R539). -/
def crc16 (l : List Byte) : Half := l.foldl crc16Byte 0xFFFF

/-- One bit of the reflected IEEE 802.3 CRC-32. PRESUMED (log 10). -/
def crc32Bit (c : Word) : Word :=
  if bit c 0 then (c >>> 1) ^^^ 0xEDB88320 else c >>> 1

/-- One byte of the IEEE 802.3 CRC-32. -/
def crc32Byte (c : Word) (b : Byte) : Word :=
  let x := c ^^^ b.setWidth 32
  crc32Bit (crc32Bit (crc32Bit (crc32Bit (crc32Bit (crc32Bit (crc32Bit (crc32Bit x)))))))

/-- The IEEE 802.3 CRC-32 over the bytes. -/
def crc32 (l : List Byte) : Word := ~~~ (l.foldl crc32Byte 0xFFFFFFFF)

/-! SHA-256 is defined in FIPS 180-4 over eight words that move along by one place in each round. Two of them are new in a round and the
others are those of earlier rounds, so it runs here on two histories, newest word first: `x` of the first of the eight words, `y` of the
fifth. PRESUMED (log 10). -/

/-- The largest root `r + d` with `(r + d) ^ k ≤ n`, where `d` has `b` bits. -/
def rootFrom (k n : Nat) : Nat → Nat → Nat
  | 0, r => r
  | b + 1, r => rootFrom k n b (if (r + 2 ^ b) ^ k ≤ n then r + 2 ^ b else r)

/-- The first 32 bits of the fractional part of the `k`-th root of `p`. -/
def rootFraction (k p : Nat) : Word := BitVec.ofNat 32 (rootFrom k (p * 2 ^ (32 * k)) 37 0)

/-- The 64 primes below 312. -/
def shaPrimes : List Nat := (List.range 312).filter fun p => decide (2 ≤ p) && (List.range p).all fun d => decide (d < 2 ∨ p % d ≠ 0)

/-- A hash under way: the two histories, and the sixteen words of the message schedule that come next. -/
structure Sha where
  x : List Word
  y : List Word
  next : List Word

/-- The exclusive or of a word turned right by each of some counts. -/
def turns (v : Word) (counts : List Nat) : Word := counts.foldl (fun s n => s ^^^ v.rotateRight n) 0

/-- One round for a prime: the round's constant is the cube root's fraction. -/
def Sha.round (h : Sha) (p : Nat) : Sha :=
  let x (i : Nat) : Word := h.x.getD i 0
  let y (i : Nat) : Word := h.y.getD i 0
  let w (i : Nat) : Word := h.next.getD i 0
  let choice := y 2 ^^^ (y 0 &&& (y 1 ^^^ y 2))
  let most := (x 0 &&& (x 1 ||| x 2)) ||| (x 1 &&& x 2)
  let t := w 0 + rootFraction 3 p + y 3 + turns (y 0) [6, 11, 25] + choice
  { x := (t + turns (x 0) [2, 13, 22] + most) :: h.x.take 3
    y := (x 3 + t) :: h.y.take 3
    next := h.next.drop 1 ++ [w 0 + w 9 + (turns (w 1) [7, 18] ^^^ (w 1 >>> 3)) + (turns (w 14) [17, 19] ^^^ (w 14 >>> 10))] }

/-- The digest so far, in the two histories, after a further block of sixteen words. -/
def shaBlock (d : List Word × List Word) (block : List Word) : List Word × List Word :=
  let h := shaPrimes.foldl Sha.round { x := d.1, y := d.2, next := block }
  (d.1.zipWith (· + ·) h.x, d.2.zipWith (· + ·) h.y)

/-- Big-endian words in groups of sixteen. -/
def shaWords : Nat → List Byte → List (List Word)
  | 0, _ => []
  | n + 1, l => ((List.range 16).map fun i => BitVec.ofNat 32 (beNat ((l.drop (4 * i)).take 4))) :: shaWords n (l.drop 64)

/-- A message with its padding: 80h, zeros up to a whole number of blocks, and its length in bits. -/
def shaPadded (m : List Byte) : List Byte :=
  m ++ 0x80 :: (List.replicate ((119 - m.length % 64) % 64) 0 ++ beBytes 8 (8 * m.length))

/-- The 32 bytes of SHA-256 of a message. Before the first block the histories hold the square roots' fractions of the first eight
primes. -/
def sha256 (m : List Byte) : List Byte :=
  let p := shaPadded m
  let first (l : List Nat) : List Word := l.map (rootFraction 2)
  let d := (shaWords (p.length / 64) p).foldl shaBlock (first [2, 3, 5, 7], first [11, 13, 17, 19])
  (d.1 ++ d.2).flatMap fun v => beBytes 4 v.toNat

end Sys2Proof.Machine
end

