-- ==== Sys2Proof/Machine/LedgerState.lean ====
section
/-! DEFINITION. The state of a ledger core (spec/06 to spec/11) and of the nonvolatile ledger array (spec/12), as plain data. -/

namespace Sys2Proof.Machine

/-- The registers of Table 6.1 that a context holds (R192). CTX is laid out as Table 6.2. -/
structure CtxRegs where
  a : Byte := 0
  x : Half := 0
  y : Half := 0
  l : Half := 0
  dp : Half := 0
  pc : Half := 0
  ctx : Half := 0
  deriving DecidableEq, Repr

/-- A return-stack entry: return PC, saved CTX, kind bit T (R209), and whether RSWR has rewritten it (R264). -/
structure RsEntry where
  pc : Half
  ctx : Half
  t : Bool
  rewritten : Bool := false
  deriving DecidableEq, Repr

/-- LCC_KSTATE.STATE (R199). -/
inductive CtxState where
  | stopped | ready | run | idle
  deriving DecidableEq, Repr

/-- The code of LCC_KSTATE.STATE (Table 6.3). -/
def CtxState.code : CtxState → Nat
  | .stopped => 0 | .ready => 1 | .run => 2 | .idle => 3

/-- The load shadow: the register a load wrote and the value it held before (R215). -/
inductive Shadow where
  | a (old : Byte) | x (old : Half) | y (old : Half)
  deriving DecidableEq, Repr

/-- One hardware context (R192, R199, R209, R215, R406). `image` is the registers at the last switch (LCC_KPC to LCC_KDP).
The return stack stands newest entry first. `wdtLeft` is the watchdog count in microseconds, `wdtOnce` an expiry with no WDR since,
`wdtPend` an EC 17h still to be taken. -/
structure CtxSt where
  regs : CtxRegs := {}
  image : CtxRegs := {}
  state : CtxState := .stopped
  shadow : Option Shadow := none
  stack : List RsEntry := []
  stopReq : Bool := false
  wdtLeft : Nat := 0
  wdtOnce : Bool := false
  wdtPend : Bool := false
  deriving DecidableEq, Repr

/-- A LAB entry: a copy of a BDT descriptor's first eight bytes with its context and index (R356). `bad` marks an entry
whose parity is in error (R386). -/
structure LabEntry where
  ctx : Ctx
  idx : Nat
  lo : Word
  hi : Word
  bad : Bool
  deriving DecidableEq, Repr

/-- A store-buffer entry (R316, R317): an aligned 8-byte physical word, its byte mask, an SE mark and the context that made
the store. `sup` is the privilege of the store, which selects its holder pair; `key` is a KSET entry instead (R371); `merged` is the stores
of other contexts that have merged into it, oldest first, each with its mask (log 27). -/
structure StoreEntry where
  word : Nat
  mask : Byte
  data : BitVec 64
  se : Bool
  ctx : Ctx
  sup : Bool
  key : Option (Nat × Byte)
  merged : List (Ctx × Byte) := []
  deriving DecidableEq, Repr

/-- A line fill in progress: what it fills and the line number (physical address div 32) (R321 to R323). -/
inductive Fill where
  | icache (line : Nat) | lineBuf (line : Nat) | dcache (line : Nat)
  deriving DecidableEq, Repr

/-- A data-cache line (R323), with a mark for a parity error (R346). -/
structure DLine where
  line : Nat
  bytes : List Byte
  bad : Bool
  deriving DecidableEq, Repr

/-- LCC_STAT.CORE (Table 6.3). -/
inductive CoreRun where
  | run | halted | stopped
  deriving DecidableEq, Repr

/-- An instruction that waits at an abandon point (R313): its form, its bytes, and the source byte of EDT or EDTL of which one digit is
still to be taken (R306). -/
structure Held where
  form : Form
  bytes : List Byte
  half : Option Byte := none
  deriving DecidableEq, Repr

/-- An instruction that has issued in fast mode with LCC_CACHE.PAIR set and may be the first of a pair (R327): the registers it writes and
those of them that it loads ([0] A, [1] X, [2] Y, [3] L, [4] DP, [5] CD), whether it accesses data, and its first and last physical byte. -/
structure PairHead where
  writes : BitVec 6
  loads : BitVec 6
  data : Bool
  first : Nat
  last : Nat
  deriving DecidableEq, Repr

/-- A return-stack exhaustion waiting for context 0 (R211, R398). -/
structure Ec11 where
  failedEc : Nat
  ctx : Ctx
  pc : Half
  deriving DecidableEq, Repr

/-- One ledger core. `oldRegs` and `oldKeys` keep the values that the core goes on using until SYNC or an event of R222
(R372); `lateRegs` and `lateInv` keep what a commit of another master changes at the core's next boundary or checkpoint (R338, R361, R379,
R404); `modeCounts` are the counts of R219 that run, oldest first; `held` is an instruction waiting at an abandon point (R313);
`pendInv` is the invalidations of LCC_CACHE that wait for SYNC (R338): instruction cache, data cache, predictor; `head` is what may be the
first of a pair (R327); `taking` is the line whose entry is the last thing that the core did, with its context and the depth of its stack
before, and `kept` the lines re-routed then, which wait for that handler's RTI (R418). -/
structure CoreSt where
  ctxs : Vector CtxSt 8 := Vector.replicate 8 {}
  cur : Ctx := 0
  core : CoreRun := .stopped
  hcause : Byte := 0
  kbw : Bool := false
  ec11 : Option Ec11 := none
  ec11Back : List (Int × CtxState) := []
  held : Option Held := none
  head : Option PairHead := none
  taking : Option (Nat × Ctx × Int) := none
  kept : List (Nat × Ctx × Int) := []
  det : Bool := true
  modeCounts : List (Nat × Bool) := []
  oldRegs : List (Nat × Word) := []
  oldKeys : List (Nat × Byte) := []
  lateRegs : List (Nat × Word) := []
  lateInv : BitVec 3 := 0
  pendInv : BitVec 3 := 0
  buf : List StoreEntry := []
  ilab : List LabEntry := []
  dlab : List LabEntry := []
  l2 : List LabEntry := []
  icache : List (Nat × Bool) := []
  lineBuf : List Nat := []
  fills : List Fill := []
  dcache : List DLine := []
  predictor : Vector (BitVec 2) 64 := Vector.replicate 64 1
  fallbackOn : Bool := false
  haltTimes80 : List Nat := []
  haltTimes11 : List Nat := []
  resetUsed : Option Nat := none
  parityTimes : List Nat := []
  deriving DecidableEq, Repr

/-- NVL_CGc_STAT.STATE (Table 12.2). -/
inductive GroupState where
  | idle | open | overflow | closing
  deriving DecidableEq, Repr

/-- The code of NVL_CGc_STAT.STATE. -/
def GroupState.code : GroupState → Nat
  | .idle => 0 | .open => 1 | .overflow => 2 | .closing => 3

/-- A word a group holds: word index (physical address div 8), byte mask, data (R428). -/
structure GroupWord where
  word : Nat
  mask : Byte
  data : BitVec 64
  deriving DecidableEq, Repr

/-- A sealed journal record (R430, R431): the core of its slot, its words, the value of NVL_CGc_LAST that it makes, and its seal word. -/
structure Record where
  core : Core
  words : List GroupWord
  last : Word
  stamp : Word
  deriving DecidableEq, Repr

/-- One commit-group slot (R426). `words` stand in its journal slot, without a seal, from their drains on (R432). -/
structure GroupSt where
  state : GroupState := .idle
  owner : Ctx := 0
  words : List GroupWord := []
  result : Nibble := 0
  deriving DecidableEq, Repr

/-- The NVLA beside its bytes (R423 to R449). `closing` is the cores whose CLOSE has arrived, in order (R433); `durable` is the
sealed journal records still to be applied, oldest first; `wear` is, for a block that has any, its correction times and write count; `measured` says that NVL_STAT and NVL_HOLD hold a test's figures, `tested` that this start has run its test; `remapping` is the blocks being copied to a spare with the reason; `soft` and `hard` mark 8-byte words with a correctable or an uncorrectable error. -/
structure NvlaSt where
  groups : Vector GroupSt 4 := Vector.replicate 4 {}
  closing : List Core := []
  durable : List Record := []
  last : Vector Word 4 := Vector.replicate 4 0
  gmax : Nat := 0
  holdOk : Bool := false
  tested : Bool := false
  measured : Bool := false
  centiUF : Nat := 0
  microJ : Nat := 0
  grace : Bool := false
  refuseOpen : Bool := false
  spares : Nat := 64
  remapping : List (Nat × Nat) := []
  remapped : List Nat := []
  wear : List (Nat × List Nat × Nat) := []
  soft : List Nat := []
  hard : List Nat := []
  logFails : Bool := false
  deriving DecidableEq, Repr

end Sys2Proof.Machine
end

