-- ==== Sys2Proof/Machine/LinkState.lean ====
section
/-! DEFINITION. The state of a Usdar port (spec/13) and of the mesh and transaction layer (spec/14), as plain data. -/

namespace Sys2Proof.Machine

/-- USD_STAT.STATE (Table 13.9). -/
inductive PortState where
  | dry | seep | fill | level | flow | quarantine | failed
  deriving DecidableEq, Repr

/-- The code of USD_STAT.STATE. -/
def PortState.code : PortState → Nat
  | .dry => 0 | .seep => 1 | .fill => 2 | .level => 3 | .flow => 4 | .quarantine => 5 | .failed => 6

/-- What a partner's PARAM frame gives (Table 13.3). -/
structure Partner where
  node : BitVec 12 := 0
  epoch : Half := 0
  flow : Bool := false
  ackt : Byte := 0
  window : Byte := 128
  area : Half := 0
  res : Vector Half 4 := Vector.replicate 4 0
  poolu : Half := 0
  expv : Half := 0
  deriving DecidableEq, Repr

/-- A received frame held in the receive area until all that it waits on have taken it (R500, R503): onward ports, and none for local
delivery. -/
structure HeldFrame where
  frame : Frame
  waits : List (Option Port)
  deriving DecidableEq, Repr

/-- A Usdar port (spec/13). `replay` holds the unacknowledged frames, oldest first, and `replayAt` how many of them the
running replay has sent; `queues` holds the frames waiting by class with the port whose
receive area holds them, `ctl` the control and TRAIN frames waiting, and `lane` the frame last put on the lane. `wire` is the codes that the
transmitter has last put on the lane (none in electrical idle), `txPlus` its running disparity and `sinceSkp` the symbols since its last SKP
(R453); `rxPlus` is the receiver's running disparity, `rxCount` the symbols received and `rxBad` where the code violations of the last 1024
were (R456). `setFlow`, `setTimer` and `setPool` are CTRL.FLOW, USD_TIMER and USD_POOL as Level took them (R484), `sentFlow` the FLOW of the own
PARAM (R462). -/
structure PortSt where
  state : PortState := .dry
  rate : Nat := 0
  hgMode : Bool := false
  fails : Nat := 0
  stuck : Bool := false
  stuckAt : Option Nat := none
  noBackoff : Bool := false
  ts1 : Nat := 0
  ts2 : Nat := 0
  tsSent : Nat := 0
  levelIdle : Bool := false
  gotOffer : Bool := false
  sentSeen : Bool := false
  rates : Byte := 0
  stamps : List Half := []
  echoes : Nat := 0
  rttMax : Nat := 0
  gotParam : Bool := false
  sentParam : Bool := false
  gotReady : Bool := false
  sentReady : Bool := false
  partner : Partner := {}
  last : Option (BitVec 12 × Half) := none
  rtt : Nat := 0
  headroom : Nat := 0
  timerEff : Nat := 0
  exp : BitVec 12 := 0
  expValid : Bool := false
  acked : BitVec 12 := 0xFFF
  replay : List Frame := []
  replayAt : Option Nat := none
  replayFrom : Option (BitVec 12) := none
  nakOut : Bool := false
  held : Bool := false
  holding : Bool := false
  sinceAck : Nat := 0
  limit : Vector (BitVec 12) 4 := Vector.replicate 4 0
  sent : Vector (BitVec 12) 4 := Vector.replicate 4 0
  granted : Vector (BitVec 12) 4 := Vector.replicate 4 0
  taken : Vector (BitVec 12) 4 := Vector.replicate 4 0
  res : Vector Nat 4 := Vector.replicate 4 64
  sinceCredit : Vector Nat 4 := Vector.replicate 4 0
  area : List HeldFrame := []
  queues : Vector (List (Option Port × Frame)) 4 := Vector.replicate 4 []
  ages : Vector Nat 4 := Vector.replicate 4 0
  ctl : List Frame := []
  lane : Option Frame := none
  wire : List (BitVec 10) := []
  txPlus : Bool := false
  sinceSkp : Nat := 0
  rxPlus : Bool := false
  rxCount : Nat := 0
  rxBad : List Nat := []
  gotSeen : Bool := false
  sentFlow : Bool := false
  setFlow : Bool := false
  setTimer : Word := 0x00001808
  setPool : Word := 0x40404040
  violSec : Vector Nat 8 := Vector.replicate 8 0
  violAns : Option Nat := none
  eccTimes : List Nat := []
  clockFails : Nat := 0
  deriving DecidableEq, Repr

/-- TXN_TAGt.STATE (Table 14.5). -/
inductive TagState where
  | free | wait | sent | done
  deriving DecidableEq, Repr

/-- The code of TXN_TAGt.STATE. -/
def TagState.code : TagState → Nat
  | .free => 0 | .wait => 1 | .sent => 2 | .done => 3

/-- A transaction tag with its own copy of the request payload (R509). -/
structure TagSt where
  state : TagState := .free
  owner : Core := 0
  outcome : Nibble := 0
  replayed : Bool := false
  dst : BitVec 12 := 0
  epoch : Half := 0
  sends : Byte := 0
  status : Byte := 0
  req : List Byte := []
  abuf : Nat := 0
  firstAt : Nat := 0
  deriving DecidableEq, Repr

/-- TXN_CACHEe (Table 14.5). -/
inductive EntState where
  | free | pending | complete
  deriving DecidableEq, Repr

/-- The code of TXN_CACHEe[1:0]. -/
def EntState.code : EntState → Nat
  | .free => 0 | .pending => 1 | .complete => 2

/-- An answer-cache entry (R514 to R517): source, commit-ID value, class, the stored answer; `doneSeq` orders completions and
`aged` says it has been COMPLETE for 2 s. -/
structure EntSt where
  state : EntState := .free
  src : BitVec 12 := 0
  key : BitVec 64 := 0
  tc : BitVec 2 := 0
  answer : List Byte := []
  doneSeq : Nat := 0
  aged : Bool := false
  deriving DecidableEq, Repr

/-- The mesh layer (spec/14) beside its registers. `arrivals` is the local deliveries still to be classed, oldest first;
`young` is the 2 s after an epoch begins or the cache is lost; `wPend` says that the Wellhead slot holds a request: its entry, source and bytes (R523). -/
structure MeshSt where
  node : Word := 0
  epoch : Half := 0
  bseq : BitVec 12 := 0
  unreach : Nibble := 0
  tags : Vector TagSt 64 := Vector.replicate 64 {}
  cache : Vector EntSt 256 := Vector.replicate 256 {}
  doneCount : Nat := 0
  arrivals : List (Option Port × Frame) := []
  bcasts : List (Nat × Half × BitVec 12) := []
  young : Bool := false
  rhead : Byte := 0
  wPend : Bool := false
  wEntry : Entry := 0
  wSrc : BitVec 12 := 0
  wReq : List Byte := []
  dropped : Nat := 0
  deriving DecidableEq, Repr

end Sys2Proof.Machine
end

