-- ==== Sys2Proof/Machine/PeriphState.lean ====
section
/-! DEFINITION. The state of Wellhead and Narga (spec/15, spec/16, spec/17), of the power ladder and the clocks (spec/18, spec/19)
and of the side ports (spec/20), as plain data. -/

namespace Sys2Proof.Machine

/-- A unit's health (R578). -/
inductive Health where
  | good | worn | failed
  deriving DecidableEq, Repr

/-- WMB_UNIT[1:0]. -/
def Health.code : Health → Nat
  | .good => 0 | .worn => 1 | .failed => 2

/-- The health Wellhead keeps of a unit (R577, R578): state, permanence, whether it is a cause of REPLACE_N, the last cause. -/
structure UnitSt where
  health : Health := .good
  perm : Bool := false
  cause : Half := 0
  mismatch : Bool := false
  disagree : Nat := 0
  deriving DecidableEq, Repr

/-- A notice under way to Wellhead (R580): a unit, the health it is to take, permanence and the event that causes it;
`recover` marks a return from FAILED to WORN (Table 16.3). -/
structure HealthNotice where
  unit : Byte
  health : Health
  perm : Bool
  event : Half
  recover : Bool
  deriving DecidableEq, Repr

/-- One limit of a sensor (R572): samples in a row beyond it, samples in a row inside it by the hysteresis, and whether it is crossed. -/
structure LimitSt where
  beyond : Nat := 0
  inside : Nat := 0
  crossed : Bool := false
  deriving DecidableEq, Repr

/-- A sensor's tracking (R572, R576): last reading, validity, and its limits in the order warning low, warning high, critical low, critical
high. -/
structure SensorSt where
  reading : Int := 0
  valid : Bool := false
  same : Nat := 0
  limits : Vector LimitSt 4 := Vector.replicate 4 {}
  nominal : Nat := 0
  charged : Bool := false
  bad : Bool := false
  deriving DecidableEq, Repr

/-- A kept cause of REPLACE_N (R582, R583) with its event. -/
inductive ReplCause where
  | unit (u : Byte) | halts11 | spareLow | journal | testPin
  deriving DecidableEq, Repr

/-- A record that waits for Wellhead to run (R765): event code, severity, unit, data. -/
structure LogReq where
  code : Nat
  sev : Nat
  unit : Nat
  data : List Byte
  deriving DecidableEq, Repr

/-- What a copy of the state area keeps (R588): unit health, the 24-hour histories by unit code, the kept causes, RT_NODE, the epoch,
the tunnel setting and the restarts of the last hour. -/
structure WellSave where
  units : List (Nat × UnitSt) := []
  chanParity : Vector (List Nat) 8 := Vector.replicate 8 []
  causes : List (ReplCause × Half) := []
  node : BitVec 32 := 0
  epoch : Half := 0
  tunnel : TunnelSetting := .any
  restarts : List Nat := []
  deriving DecidableEq, Repr

/-- A valid copy of the state area with its generation count (R588). -/
structure AreaCopy where
  gen : Nat
  data : WellSave
  deriving DecidableEq, Repr

/-- Wellhead (spec/16). `copies` is the two copies of the state area, none where a copy is not valid. `release` is a release of REPLACE_N that is
under way: the event of the cause that ended last, and when it did (R582). `units` lists the units that are not GOOD or have a history; `lim` counts the events held back by a
rate limit: code, unit, the last time one was logged, and how many since. -/
structure WellSt where
  running : Bool := false
  restarting : Bool := false
  units : List (Nat × UnitSt) := []
  chanParity : Vector (List Nat) 8 := Vector.replicate 8 []
  failedIn : Vector Bool 8 := Vector.replicate 8 false
  replN : Bool := false
  release : Option (Half × Nat) := none
  causes : List (ReplCause × Half) := []
  notices : List HealthNotice := []
  sensors : Vector SensorSt 12 := Vector.replicate 12 {}
  logSeq : Option Word := none
  secCount : Nat := 0
  dropCount : Nat := 0
  latched : List LogReq := []
  lim : List (Nat × Nat × Nat × Nat) := []
  restarts : List Nat := []
  copies : Vector (Option AreaCopy) 2 := Vector.replicate 2 none
  appPend : Bool := false
  appSerial : Byte := 0
  appLen : Byte := 0
  appReady : Bool := true
  appClosed : Bool := false
  appLines : Nat := 0
  appPut : Option Word := none
  aperr : Bool := false
  tamp : Nibble := 0
  clkEvents : List Nat := []
  deriving DecidableEq, Repr

/-- One Narga session (R531): level, last machine line and its stored response, lines of it still to be shown (R549), the node
of a tunnel session, and when it last sent a line. -/
structure SessSt where
  active : Bool := false
  expert : Bool := false
  node : BitVec 12 := 0
  lastTag : Option (String × Half) := none
  stored : List String := []
  remaining : List String := []
  lastAt : Nat := 0
  busy : Bool := false
  garbage : Nat := 0
  garbageAt : Nat := 0
  deriving DecidableEq, Repr

/-- What Narga does when Tarn has answered in slot 4 (R85, R547, Table 15.2): it maps the result, submits the SIGN of `close`, shows the nonce,
empties the staging area, ends a RELOAD or compares a channel's views. -/
inductive SlotNext where
  | text | sign (chan : Chan) | nonce | submit | reload (chan : Chan) (activate : Bool) | views (chan : Chan)
  deriving DecidableEq, Repr

/-- A command that goes on (R545, R546): with its session and tag, one that waits for Tarn's answer, or an `app` exchange in the background. -/
inductive BgJob where
  | slot (sess : Session) (tag : Option String) (next : SlotNext)
  | app (sess : Session) (tag : Option String)
  deriving DecidableEq, Repr

/-- Whether a command that goes on keeps Narga from the next line: all but one that took BZ 501 (R545, R546). -/
def BgJob.holds (j : BgJob) : Bool := match j with | .slot _ _ _ => true | .app _ _ => false

/-- Narga (spec/15): its sessions, the line so far on CON0, whether a byte of it came with a UART error and whether a CR came last, the lines that
ended and are to be taken next, the lines that wait behind a command (R545), the lines sent, commands that go on, the update lock, the tunnel setting and
a reset that waits for its final status line (R556). -/
structure NargaSt where
  sess : Vector SessSt 9 := Vector.replicate 9 {}
  typed : List Byte := []
  typedBad : Bool := false
  cr : Bool := false
  ended : List (NLine × NVerb) := []
  waiting : List (NLine × NVerb) := []
  sent : List (Session × String) := []
  jobs : List BgJob := []
  updateLock : Bool := false
  tunnel : TunnelSetting := .any
  resetDevice : Bool := false
  resetCore : Option Core := none
  deriving DecidableEq, Repr

/-- A wake source (Table 18.4), as PWR_WCAUSE shows it. -/
inductive Wake where
  | waken | rtc | trig | ts1 | con | gp | tamp | line | pfail | req | openCmd
  deriving DecidableEq, Repr

/-- The bit of a wake source in PWR_WCAUSE (Table 18.9). -/
def Wake.bit : Wake → Nat
  | .waken => 0 | .rtc => 1 | .trig => 2 | .ts1 => 3 | .con => 4 | .gp => 5 | .tamp => 7
  | .line => 8 | .pfail => 9 | .req => 10 | .openCmd => 11

/-- How far the part has come after VIN valid (Table 19.1). -/
inductive Stage where
  | off | vin | vcore | tarn | spring | wellhead | released
  deriving DecidableEq, Repr

/-- The power ladder, the clocks and the start-up (spec/18, spec/19). `entry` is the step of Table 18.3 last done; `waking` is
the cause of a wake under way with the state left. -/
structure PowerSt where
  ps : Nat := 0
  pend : Nat := 0
  refuse : Byte := 0
  entry : Nat := 0
  waking : Option (Wake × Nat) := none
  xin : Bool := false
  xrtc : Bool := true
  rco : Bool := false
  spll : Bool := false
  cpll : Bool := false
  tpll : Bool := false
  fovr : Bool := false
  rtcRco : Bool := false
  spllOnce : Bool := false
  refInt : Bool := true
  refFault : Bool := false
  eclkStopped : Bool := false
  stage : Stage := .off
  boot : BitVec 2 := 0
  pfail : Bool := false
  pfailLine : Bool := false
  holdRun : Bool := false
  resetLow : Bool := false
  xinAbsent : Bool := false
  startCause : Byte := 1
  starts : Nat := 0
  enginesOut : Bool := false
  releaseEntry : Half := 0
  releasePbr : Word := 0
  imageOk : Bool := false
  slotsRun : Vector (Option Bool) 3 := Vector.replicate 3 none
  vioMilli : Vector Nat 3 := Vector.replicate 3 3300
  releasedAt : Nat := 0
  trialBroken : Bool := false
  springLog : List (Nat × List Byte) := []
  deriving DecidableEq, Repr

/-- A byte in a UART receive FIFO with its flags (Table 20.1). -/
structure RxEnt where
  b : Byte
  fe : Bool
  pe : Bool
  brk : Bool
  deriving DecidableEq, Repr

/-- A console UART (R689 to R694) beside its registers: FIFOs oldest first, the byte being sent, the sticky events and the
error counts of event 0901h. -/
structure UartSt where
  rx : List RxEnt := []
  tx : List Byte := []
  sending : Option Byte := none
  evt : Byte := 0
  de : Bool := false
  lead : Bool := false
  tail : Bool := false
  rxErr : Nat := 0
  rxOvf : Nat := 0
  txOvf : Nat := 0
  deriving DecidableEq, Repr

/-- An I2C controller (R695 to R700): FIFOs oldest first, a transfer under way, stuck, a bus clear under way. -/
structure IicSt where
  wfifo : List Byte := []
  rfifo : List Byte := []
  busy : Bool := false
  done : Bool := false
  code : Nibble := 0
  nack : Byte := 0
  stuck : Bool := false
  clearing : Bool := false
  deriving DecidableEq, Repr

/-- The QSPI controller (R701 to R706): what discovery found, and the operation under way with its address. -/
structure QspiSt where
  ready : Bool := false
  sfdp : Bool := false
  log2 : Nat := 24
  mode : Nat := 0
  erase64 : Bool := false
  silent : Bool := false
  op : Option (Nat × Nat × Nat) := none
  res : Byte := 0
  statusByte : Byte := 0
  deriving DecidableEq, Repr

/-- The side ports (spec/20): UARTs, I2C, QSPI, pin levels, the TAP instruction, debug access and its status, and the latched
fraction of the RTC. -/
structure SideSt where
  uarts : Vector UartSt 2 := Vector.replicate 2 {}
  iics : Vector IicSt 2 := Vector.replicate 2 {}
  qspi : QspiSt := {}
  gpIn : Half := 0
  trig : Vector Bool 2 := Vector.replicate 2 false
  tap : Byte := 0x02
  scanLogged : Bool := false
  dbgStatus : BitVec 2 := 0
  dbgData : Half := 0
  fracLatch : Half := 0
  deriving DecidableEq, Repr

end Sys2Proof.Machine
end

