-- ==== Sys2Proof/Machine/Sparse.lean ====
section
/-! DEFINITION. A sparse table: a list of key and value pairs in one canonical form, read through a default. Memory and the
register file are such tables. -/

namespace Sys2Proof.Machine

/-- The value at key `a`: the listed one, or the default. -/
def Sparse.get {α : Type} (dflt : Nat → α) : List (Nat × α) → Nat → α
  | [], a => dflt a
  | (k, v) :: t, a => if k = a then v else Sparse.get dflt t a

/-- The table without key `a`. -/
def Sparse.erase {α : Type} : List (Nat × α) → Nat → List (Nat × α)
  | [], _ => []
  | (k, v) :: t, a => if k = a then Sparse.erase t a else (k, v) :: Sparse.erase t a

/-- The table with value `v` listed at key `a`, in rising order of keys. -/
def Sparse.insert {α : Type} : List (Nat × α) → Nat → α → List (Nat × α)
  | [], a, v => [(a, v)]
  | (k, w) :: t, a, v =>
    if a < k then (a, v) :: (k, w) :: t
    else if a = k then (a, v) :: t
    else (k, w) :: Sparse.insert t a v

/-- The table after writing `v` at key `a`; writing the default removes the entry. -/
def Sparse.set {α : Type} [DecidableEq α] (dflt : Nat → α) (l : List (Nat × α)) (a : Nat) (v : α) : List (Nat × α) :=
  if v = dflt a then Sparse.erase l a else Sparse.insert l a v

/-- The canonical form: keys strictly rising, no entry equal to its default. -/
def Sparse.wf {α : Type} [DecidableEq α] (dflt : Nat → α) : List (Nat × α) → Bool
  | [] => true
  | [(k, v)] => decide (v ≠ dflt k)
  | (k, v) :: (k', v') :: t => decide (k < k') && decide (v ≠ dflt k) && Sparse.wf dflt ((k', v') :: t)

end Sys2Proof.Machine
end

