-- ==== Sys2Proof/Machine/TarnState.lean ====
section
/-! DEFINITION. The state of Tarn (spec/03), of a channel engine (spec/04) and of a converter (spec/05), as plain data. -/

namespace Sys2Proof.Machine

/-- A 6-byte time: seconds since 2000 in the upper 32 bits, 1/65536 s in the lower 16 (R78). -/
abbrev Time := BitVec 48

/-- The legal state of a channel (Table 3.2). -/
inductive Legal where
  | isIn | out | sealedOut
  deriving DecidableEq, Repr

/-- CH_STATE[1:0]. -/
def Legal.code : Legal → Nat
  | .isIn => 0 | .out => 1 | .sealedOut => 2

/-- The session state of a channel (Table 3.2). -/
inductive Sess where
  | none | open | stopped | frozen | signing
  deriving DecidableEq, Repr

/-- CH_STATE[6:4]. -/
def Sess.code : Sess → Nat
  | .none => 0 | .open => 1 | .stopped => 2 | .frozen => 3 | .signing => 4

/-- What MPOn does: waits, pulses, or makes the gap after a pulse (R63). -/
inductive MpoPhase where
  | rest | pulse | gap
  deriving DecidableEq, Repr

/-- One channel as Tarn holds it (Table 3.2), with what a session keeps for its record (R73), the quanta owed toward the next
pulse (R63), the quanta outside a session still to be logged (R59), the totalizers as last saved (R61), its history (R102) and
whether a RELOAD has succeeded since its engine last failed (R146). -/
structure TarnChan where
  legal : Legal := .sealedOut
  perm : Bool := false
  src : Bool := false
  dir : Bool := false
  sess : Sess := .none
  fault : Byte := 0
  ucnt : Word := 0
  session : Word := 0
  start : Time := 0
  fwd : Nat := 0
  rev : Nat := 0
  ses : Nat := 0
  uprice : BitVec 48 := 0
  mc : Vector Word 8 := Vector.replicate 8 0
  mpoCfg : Word := 0
  backlog : Half := 0
  preset : BitVec 64 := 0
  valid : Bool := false
  quanta : Nat := 0
  mpo : MpoPhase := .rest
  testPulse : Bool := false
  presetHit : Bool := false
  caseSeen : Bool := false
  endTime : Time := 0
  before : Nat := 0
  qty : Nat := 0
  after : Nat := 0
  body : List Byte := []
  closeLogged : Bool := false
  record : List Byte := []
  outCount : Nat := 0
  outFirst : Time := 0
  outLast : Time := 0
  outLoggedAt : Option Nat := none
  overrun : Nat := 0
  overrunAt : Option Nat := none
  faultTimes : List Nat := []
  reloadUsed : Bool := false
  savedFwd : Nat := 0
  savedRev : Nat := 0
  savedSes : Nat := 0
  reloaded : Bool := false
  deriving DecidableEq, Repr

/-- The state word of an enrolled-key slot (Table 3.1). -/
inductive KeyState where
  | empty | valid | revoked
  deriving DecidableEq, Repr

/-- The code of an enrolled key's state word. -/
def KeyState.code : KeyState → Nat
  | .empty => 0 | .valid => 1 | .revoked => 2

/-- An enrolled key slot (Table 3.1). -/
structure KeySlot where
  state : KeyState := .empty
  pub : BitVec 256 := 0
  deriving DecidableEq, Repr

/-- A fault notice under way to Tarn (R144, R187): a channel's engine, or a converter, with whether it is permanent. -/
inductive Notice where
  | engine (n : Chan) (code : Byte)
  | converter (u : Cnv) (perm : Bool)
  deriving DecidableEq, Repr

/-- A RELOAD in progress (Table 12 of spec/04): its slot, TAG, channel and image address, and whether the image verified. -/
structure Reload where
  slot : Slot
  tag : Byte
  chan : Chan
  addr : Nat
  verified : Bool
  deriving DecidableEq, Repr

/-- A pin event on its way to Tarn (R52): SEAL_N, CASE_N, or one comparison of both meshes. -/
inductive PinEvent where
  | sealPin (isOpen : Bool)
  | casePin (isOpen : Bool)
  | mesh (bad0 bad1 : Bool)
  deriving DecidableEq, Repr

/-- Tarn beside its channels (spec/03). `log` is the legal log ring, newest record first, each of 64 bytes; `queue` is the sign
queue, head first; `signing` says the head is being signed and `retry` that its second signature runs (R104); `waiting` and `pins` are the CMD of each
slot and the pin events, oldest first, that Tarn has still to serve (R52), `losses` what it finds lost when it next starts (R106). `tfwRuns` is the
digest of the firmware in the running bank `bank` (none: that of manufacture), `tfwInstall` of an image under copy, `tfwMarked` of
the other bank when it is marked (R616). -/
structure TarnSt where
  chans : Vector TarnChan 8 := Vector.replicate 8 {}
  running : Bool := false
  sucnt : Word := 0
  sesCtr : Word := 0
  queue : List Chan := []
  signing : Bool := false
  retry : Bool := false
  signStop : Bool := false
  keyLost : Bool := false
  log : List (List Byte) := []
  logHead : Word := 0
  logExp : Word := 0
  sealOpen : Bool := false
  caseOpen : Bool := false
  meshLatched : Bool := false
  meshBroken : Bool := false
  meshBad0 : Nat := 0
  meshBad1 : Nat := 0
  lateMesh : Bool := false
  lateCase : Bool := false
  wwCnt : Vector Half 16 := Vector.replicate 16 0
  wwAt : Vector (Option Nat) 16 := Vector.replicate 16 none
  nonce : Option (BitVec 64) := none
  signedCtr : Word := 0
  keys : Vector KeySlot 4 := Vector.replicate 4 {}
  factors : Vector (Vector (Word × Word) 6) 2 := Vector.replicate 2 (Vector.replicate 6 (0, 0x40000000))
  floors : Vector Half 4 := Vector.replicate 4 0
  startRec : List Byte := []
  debugLeft : Nat := 0
  lastSlot : Slot := 4
  waiting : Vector (Option Word) 5 := Vector.replicate 5 none
  pins : List PinEvent := []
  losses : List CopyLoss := []
  reload : Option Reload := none
  notices : List Notice := []
  tclkStopped : Bool := false
  denTrip : Vector Bool 8 := Vector.replicate 8 false
  denTrips : Vector Nat 8 := Vector.replicate 8 0
  cleanSave : Bool := true
  savedRtc : Time := 0
  bank : Bool := false
  tfwRuns : Option (List Byte) := none
  tfwInstall : Option (List Byte) := none
  tfwMarked : Option (List Byte) := none
  deriving DecidableEq, Repr

/-- CE_STAT.RUNST (Table 4.13). -/
inductive RunSt where
  | held | run | trap | wait | load | fault
  deriving DecidableEq, Repr

/-- The code of CE_STAT.RUNST. -/
def RunSt.code : RunSt → Nat
  | .held => 0 | .run => 1 | .trap => 2 | .wait => 3 | .load => 4 | .fault => 5

/-- A control-store word: its 96 data bits as stored good, and the bits of the 104 stored ones that have flipped (R129). -/
structure CsWord where
  data : BitVec 96
  flips : BitVec 104
  deriving DecidableEq, Repr

/-- The condition latch (R111). -/
structure Latch where
  z : Bool := false
  n : Bool := false
  c : Bool := false
  v : Bool := false
  deriving DecidableEq, Repr

/-- An increment on the path to Tarn (R57): direction reverse, count 1 to 15. -/
structure Incr where
  rev : Bool
  count : Nibble
  deriving DecidableEq, Repr

/-- The shadow of a micro-trap (R121). -/
structure MShadow where
  upc : BitVec 11 := 0
  w : Vector Word 4 := Vector.replicate 4 0
  latch : Latch := {}
  deriving DecidableEq, Repr

/-- A channel engine (spec/04). `g` holds microregisters 0 to 47; `store` lists the control-store words that differ from the
fill word (R133); `heldWord` is the word held for room or for COND, fetched once (R119); `loaded` says that the store holds an image that has passed its check (R134),
`checking` that a start-up load is being checked. -/
structure EngineSt where
  runst : RunSt := .held
  event : Bool := false
  qmode : BitVec 2 := 0
  fcode : Byte := 0
  finfo : Word := 0
  store : List (Nat × CsWord) := []
  g : Vector Word 48 := Vector.replicate 48 0
  loop : Half := 0
  acc : BitVec 64 := 0
  latch : Latch := {}
  uf : Byte := 0
  upc : BitVec 11 := 0
  shadow : MShadow := {}
  inHandler : Bool := false
  masked : Bool := false
  postMortem : Bool := false
  pmLeft : Nat := 0
  pending : Byte := 0
  stack : List (BitVec 11) := []
  wq : List (Word × Word) := []
  incs : List Incr := []
  tick : Word := 0
  cmp : Word := 0
  tcmph : Bool := false
  armed : Bool := false
  qcnt : Word := 0
  qtim : Word := 0
  count : Word := 0
  edgeTick : Word := 0
  qedge : Bool := false
  qa : Bool := false
  qb : Bool := false
  hostp : Bool := false
  seqdone : Bool := false
  trige : Bool := false
  heldWord : Option (BitVec 96) := none
  loaded : Bool := false
  checking : Bool := false
  front : Vector Word 16 := Vector.replicate 16 0
  back : Vector Word 16 := Vector.replicate 16 0
  mc : Vector Word 8 := Vector.replicate 8 0
  scrub : BitVec 11 := 0
  digest : Option (List Byte) := none
  copy1 : Bool := false
  faultTimes : List Nat := []
  corrTimes : List (Nat × Nat) := []
  deriving DecidableEq, Repr

/-- CNV_STAT.STATE (Table 5.7). -/
inductive CnvState where
  | off | ready | run | cal | fault | permFault
  deriving DecidableEq, Repr

/-- The code of CNV_STAT.STATE. -/
def CnvState.code : CnvState → Nat
  | .off => 0 | .ready => 1 | .run => 2 | .cal => 3 | .fault => 4 | .permFault => 5

/-- A start of a sequence: from software, from a TRIG edge, from the slow timer, or from engines (R116, R156, R191). -/
inductive StartKind where
  | soft | trig | slow | engines (who : List Chan)
  deriving DecidableEq, Repr

/-- What is being sampled or converted: a sequence entry, an urgent entry, a calibration or a background conversion. -/
inductive CnvWork where
  | seqEntry (word : Word) (entry : Nat) (aborts : Nat)
  | urgent (word : Word) (entry : Nat)
  | calStep
  | background
  deriving DecidableEq, Repr

/-- A running sequence: the entries copied at its start and the next to run (R155). -/
structure Seq where
  kind : StartKind
  entries : List Word
  pos : Nat
  aborts : Nat
  deriving DecidableEq, Repr

/-- What an entry takes as it begins sampling (R155, R169): CNV_TDAC, and the factors of its gain index. -/
structure EntryCap where
  tdac : Word := 0x200
  caloff : Word := 0
  calgain : Word := 0x40000000
  loff : Word := 0
  lgain : Word := 0x40000000
  deriving DecidableEq, Repr

/-- A converter (spec/05). `work` is the conversion in progress with whether its sampling has ended, `cap` what its entry took. -/
structure CnvSt where
  state : CnvState := .off
  fcause : Nat := 0
  faultTimes : List Nat := []
  recalUsed : Bool := false
  work : Option (CnvWork × Bool) := none
  cap : EntryCap := {}
  seq : Option Seq := none
  pendingStart : Option StartKind := none
  urgents : List Nat := []
  trigDelay : Bool := false
  surgeHold : Bool := false
  calHeld : Bool := false
  calStep : Nat := 0
  calConv : Nat := 0
  calRestarts : Nat := 0
  calDone : Nat := 0
  bgConv : Nat := 0
  seqn : Byte := 0
  queues : Vector (List Word) 4 := Vector.replicate 4 []
  deriving DecidableEq, Repr

end Sys2Proof.Machine
end

