-- ==== Sys2Proof/Machine/State.lean ====
section
/-! DEFINITION. The state of the Basbel as plain data, the queue of waiting commands, and the state after reset: the part as it
comes from manufacture, before VIN is valid. -/

namespace Sys2Proof.Machine

/-- The reasons the machine may stop with a fault: none. No input to the Basbel has undefined behaviour (R7); every error of
the spec is a next state. -/
inductive Fault where
  deriving DecidableEq, Repr

/-- The reasons a command may be refused. -/
inductive Refusal where
  /-- Raised by the dispatch for a command that has no meaning yet; safe, since nothing follows from it. -/
  | notModelled (mnemonic : String)
  deriving DecidableEq, Repr

/-- A snapshot holder and a staging holder with their tags (R31, R32, R34). `mask` marks the bytes staged. -/
structure Holder where
  snapAddr : Option Nat := none
  snap : Word := 0
  stageAddr : Option Nat := none
  stage : Word := 0
  mask : Nibble := 0
  deriving DecidableEq, Repr

/-- The state of the Basbel. `regs` is the register file by physical address and `mem` the bytes of ledger SRAM, the NVLA and the
QSPI flash, both sparse in canonical form; `holders` are those of context k of core c in privilege s at c * 16 + k * 2 + s, and
of test access at 64; `sramHard` is the 4-byte words of ledger SRAM with an uncorrectable error, `keyBad` the frames whose key entry has
one, `sramLost` the banks that lost power in Deep with the counter of their free values; `rtc` is RTC_SEC and RTC_FRAC; `us` (elapsed microseconds) and `free` (free values used) are the model's
own (log 6); `pending` is the queue of commands, first in, first out. -/
structure State where
  regs : List (Nat × Word)
  mem : List Host.Cell
  holders : Vector Holder 65
  berrCnt : Byte
  cores : Vector CoreSt 4
  nvla : NvlaSt
  sramHard : List Nat
  sramLost : Vector (Option Nat) 16
  keyBad : List Nat
  tarn : TarnSt
  engines : Vector EngineSt 8
  cnvs : Vector CnvSt 2
  ports : Vector PortSt 4
  mesh : MeshSt
  well : WellSt
  narga : NargaSt
  power : PowerSt
  side : SideSt
  rtc : Time
  us : Nat
  free : Nat
  pending : List Instr
  deriving DecidableEq, Repr

/-- What a byte of memory that nothing has written reads as: 00h in ledger SRAM (R665) and the NVLA, FFh in the erased flash.
The NVLA and flash values are a DESIGN CHOICE (log 3). -/
def defaultByte (a : Nat) : Byte := if 0x05000000 ≤ a then 0xFF else 0

/-- The canonical form of memory. -/
def Memory.wf (m : List Host.Cell) : Bool := Sparse.wf defaultByte m

/-- The canonical form of the register file. -/
def RegFile.wf (r : List (Nat × Word)) : Bool := Sparse.wf Reg.resetVal r

/-- Legal log record 0, event 0400h KEY-GENERATED, whose chain is taken from the device public key (R75). Its time and its
data field are 0: DESIGN CHOICE (log 2). -/
def firstLegalRecord : List Byte :=
  [0, 0, 0, 0] ++ List.replicate 6 0 ++ [0x04, 0x00, 0xFF, 0x00] ++ List.replicate 34 0 ++
    (sha256 ((List.range 32).map Config.publicKey)).take 16

/-- The part as manufactured, before VIN is valid (R106, R147, R661, R755): every register at its reset value, memory with nothing
listed, every block off, every channel SEALED-OUT for want of valid constants. -/
def State.reset : State where
  regs := []
  mem := []
  holders := Vector.replicate 65 {}
  berrCnt := 0
  cores := Vector.replicate 4 {}
  nvla := {}
  sramHard := []
  sramLost := Vector.replicate 16 none
  keyBad := []
  tarn := { log := [firstLegalRecord], logHead := 0, logExp := 0 }
  engines := Vector.replicate 8 {}
  cnvs := Vector.replicate 2 {}
  ports := Vector.replicate 4 {}
  mesh := {}
  well := {}
  narga := {}
  power := {}
  side := {}
  rtc := 0
  us := 0
  free := 0
  pending := []

end Sys2Proof.Machine
end

