-- ==== Sys2Proof/Machine/Ops.lean ====
section
/-! DEFINITION. The shared operations over the state: memory and registers, updates of one part, the two logs, notices, bus-error
capture, the delivery-enable interlock and the 24-hour histories. -/

namespace Sys2Proof.Machine

/-! ### Registers and memory -/

/-- The stored bits of the register at address `a`. -/
def State.reg (s : State) (a : Nat) : Word := Sparse.get Reg.resetVal s.regs a

/-- The state with `v` stored in the register at address `a`. -/
def State.setReg (s : State) (a : Nat) (v : Word) : State := { s with regs := Sparse.set Reg.resetVal s.regs a v }

/-- The state with the bits of `v` set in the register at `a`: how hardware sets sticky bits. -/
def State.setBits (s : State) (a : Nat) (v : Word) : State := s.setReg a (s.reg a ||| v)

/-- The state with the bits of `v` cleared in the register at `a`. -/
def State.clearBits (s : State) (a : Nat) (v : Word) : State := s.setReg a (s.reg a &&& ~~~ v)

/-- What a byte of a ledger-SRAM bank that lost its power in Deep differs by from what `mem` lists: a free value (Table 18.1, R628);
0 in every other bank and region. -/
def State.veil (s : State) (a : Nat) : Byte :=
  if a < 0x00200000 then
    match s.sramLost[Fin.ofNat 16 (a / 0x20000)] with
    | none => 0
    | some k => Config.lostByte k a
  else 0

/-- The byte of memory at physical address `a`. -/
def State.byte (s : State) (a : Nat) : Byte := Sparse.get defaultByte s.mem a ^^^ s.veil a

/-- The state with byte `v` at physical address `a`. -/
def State.setByte (s : State) (a : Nat) (v : Byte) : State :=
  { s with mem := Sparse.set defaultByte s.mem a (v ^^^ s.veil a) }

/-- The `n` bytes of memory from `a`. -/
def State.bytes (s : State) (a : Nat) : Nat → List Byte
  | 0 => []
  | n + 1 => s.byte a :: s.bytes (a + 1) n

/-- The state with the bytes of `l` written from `a`. -/
def State.setBytes (s : State) (a : Nat) : List Byte → State
  | [] => s
  | b :: t => (s.setByte a b).setBytes (a + 1) t

/-- A count that stops at FFFF_FFFFh, raised by one. -/
def State.countReg (s : State) (a : Nat) : State :=
  if s.reg a = 0xFFFFFFFF then s else s.setReg a (s.reg a + 1)

/-! ### Updates of one part -/

def State.core (s : State) (c : Core) : CoreSt := s.cores[c]
def State.modCore (s : State) (c : Core) (f : CoreSt → CoreSt) : State := { s with cores := s.cores.set c (f s.cores[c]) }
def CoreSt.ctx (x : CoreSt) (k : Ctx) : CtxSt := x.ctxs[k]
def CoreSt.modCtx (x : CoreSt) (k : Ctx) (f : CtxSt → CtxSt) : CoreSt := { x with ctxs := x.ctxs.set k (f x.ctxs[k]) }
def State.ctx (s : State) (c : Core) (k : Ctx) : CtxSt := (s.core c).ctx k
def State.modCtx (s : State) (c : Core) (k : Ctx) (f : CtxSt → CtxSt) : State := s.modCore c fun x => x.modCtx k f
def State.modNvla (s : State) (f : NvlaSt → NvlaSt) : State := { s with nvla := f s.nvla }
def State.modTarn (s : State) (f : TarnSt → TarnSt) : State := { s with tarn := f s.tarn }
def State.chan (s : State) (n : Chan) : TarnChan := s.tarn.chans[n]
/-- A change of a channel entry, which raises UCNT by two: once before and once after (R54). -/
def State.modChan (s : State) (n : Chan) (f : TarnChan → TarnChan) : State :=
  s.modTarn fun t => { t with chans := t.chans.set n (let x := f t.chans[n]; { x with ucnt := x.ucnt + 2 }) }
/-- A change of the status area, which raises SUCNT by two (R56). -/
def State.modArea (s : State) (f : TarnSt → TarnSt) : State := s.modTarn fun t => let x := f t; { x with sucnt := x.sucnt + 2 }
def State.eng (s : State) (n : Chan) : EngineSt := s.engines[n]
def State.modEng (s : State) (n : Chan) (f : EngineSt → EngineSt) : State := { s with engines := s.engines.set n (f s.engines[n]) }
def State.cnv (s : State) (u : Cnv) : CnvSt := s.cnvs[u]
def State.modCnv (s : State) (u : Cnv) (f : CnvSt → CnvSt) : State := { s with cnvs := s.cnvs.set u (f s.cnvs[u]) }
def State.port (s : State) (p : Port) : PortSt := s.ports[p]
def State.modPort (s : State) (p : Port) (f : PortSt → PortSt) : State := { s with ports := s.ports.set p (f s.ports[p]) }
def State.modMesh (s : State) (f : MeshSt → MeshSt) : State := { s with mesh := f s.mesh }
def State.modTag (s : State) (t : Tag) (f : TagSt → TagSt) : State :=
  s.modMesh fun m => { m with tags := m.tags.set t (f m.tags[t]) }
def State.modEnt (s : State) (e : Entry) (f : EntSt → EntSt) : State :=
  s.modMesh fun m => { m with cache := m.cache.set e (f m.cache[e]) }
def State.modWell (s : State) (f : WellSt → WellSt) : State := { s with well := f s.well }
def State.modNarga (s : State) (f : NargaSt → NargaSt) : State := { s with narga := f s.narga }
def State.modPower (s : State) (f : PowerSt → PowerSt) : State := { s with power := f s.power }
def State.modSide (s : State) (f : SideSt → SideSt) : State := { s with side := f s.side }
def State.modUart (s : State) (u : Uart) (f : UartSt → UartSt) : State :=
  s.modSide fun x => { x with uarts := x.uarts.set u (f x.uarts[u]) }
def State.modIic (s : State) (i : Iic) (f : IicSt → IicSt) : State :=
  s.modSide fun x => { x with iics := x.iics.set i (f x.iics[i]) }
def State.modQspi (s : State) (f : QspiSt → QspiSt) : State := s.modSide fun x => { x with qspi := f x.qspi }
def State.modHolder (s : State) (h : Fin 65) (f : Holder → Holder) : State := { s with holders := s.holders.set h (f s.holders[h]) }

/-- Applies `f` to the state for each element, in order. -/
def State.each {α : Type} (s : State) (l : List α) (f : State → α → State) : State := l.foldl f s

/-- All channels, cores, contexts and ports in ascending order. -/
def allChans : List Chan := [0, 1, 2, 3, 4, 5, 6, 7]
def allCores : List Core := [0, 1, 2, 3]
def allCtxs : List Ctx := [0, 1, 2, 3, 4, 5, 6, 7]
def allPorts : List Port := [0, 1, 2, 3]
def allCnvs : List Cnv := [0, 1]
/-- The four channels of a converter (R150). -/
def groupOf (u : Cnv) : List Chan := if u = 0 then [0, 1, 2, 3] else [4, 5, 6, 7]
/-- The converter that serves a channel (R150). -/
def cnvOf (n : Chan) : Cnv := if n.val < 4 then 0 else 1

/-! ### Identities -/

/-- SYS_BERR_INFO.MASTER of a master. -/
def masterCode : Master → Nat
  | .lc c _ _ => c.val | .wellhead => 4 | .tarn => 5 | .test => 6 | .ce n => 8 + n.val

/-- SYS_BERR_INFO.CTX of a master. -/
def masterCtx : Master → Nat
  | .lc _ k _ => k.val | _ => 0

/-- SYS_BERR_INFO.SIZE of a width. -/
def widthCode : Width → Nat
  | .byte => 0 | .half => 1 | .word => 2

/-- The bytes of a width. -/
def widthBytes : Width → Nat
  | .byte => 1 | .half => 2 | .word => 4

/-- Seconds and microseconds of the elapsed time that the histories count (log 6). -/
def hours (n : Nat) : Nat := n * 3600 * 1000000
def seconds (n : Nat) : Nat := n * 1000000
def minutes (n : Nat) : Nat := n * 60 * 1000000

/-- The times of a history that lie within the last `w` microseconds. -/
def within (now w : Nat) (l : List Nat) : List Nat := l.filter fun t => now < t + w

/-! ### The health log (R584 to R587, R764, R765) -/

/-- Severities (Table 16.4). -/
def sevNotice : Nat := 1
def sevWarning : Nat := 2
def sevError : Nat := 3
def sevCritical : Nat := 4

/-- The 32 bytes of a health record (Table 16.4). -/
def healthRecord (seq : Word) (t : Time) (code sev unit : Nat) (data : List Byte) : List Byte :=
  let d := (data ++ List.replicate 16 0).take 16
  let r := beBytes 4 seq.toNat ++ beBytes 6 t.toNat ++ beBytes 2 code ++
    [BitVec.ofNat 8 sev, BitVec.ofNat 8 unit] ++ d
  r ++ beBytes 2 (crc16 r).toNat

/-- The address of the slot of sequence number `q` (R584). -/
def healthSlot (q : Word) : Nat := 0x017C0000 + (q.toNat % 8192) * 0x20

/-- Writes one record and advances WMB_LOGSEQ; a severity of LSEV or above sets WMB_EVT.LOG (R585, R587, R591). -/
def State.healthPut (s : State) (code sev unit : Nat) (data : List Byte) : State :=
  let q : Word := match s.well.logSeq with | none => 0 | some x => x + 1
  let s := s.setBytes (healthSlot q) (healthRecord q s.rtc code sev unit data)
  let s := s.modWell fun w => { w with logSeq := some q, secCount := w.secCount + 1 }
  if field (s.reg Reg.wmbCtrl) 0 3 ≤ sev then s.setBits Reg.wmbEvt 0x40 else s

/-- A notice to Wellhead that a unit takes a health state, applied by HEALTH_TRANSITION (R580). -/
def State.healthNotice (s : State) (unit : Nat) (h : Health) (perm : Bool) (event : Nat) : State :=
  s.modWell fun w => { w with notices := w.notices ++
    [{ unit := BitVec.ofNat 8 unit, health := h, perm, event := BitVec.ofNat 16 event, recover := false }] }

/-- The wear of a block: correction times and write count (R441). -/
def State.wearOf (s : State) (block : Nat) : List Nat × Nat :=
  match s.nvla.wear.find? fun e => e.1 = block with
  | some e => e.2
  | none => ([], 0)

/-- The state with the wear of a block set. -/
def State.setWear (s : State) (block : Nat) (w : List Nat × Nat) : State :=
  s.modNvla fun n => { n with wear := (block, w) :: n.wear.filter fun e => decide (e.1 ≠ block) }

/-- The block of an NVLA address. -/
def nvBlock (a : Nat) : Nat := (a - 0x01000000) / 4096

/-- A block meets R441 for a reason (1 verification, 2 corrections, 3 writes): its copy to a spare starts, or without a spare it stays
in place, the NVLA has failed and `log` enters 0512h (R442, Table 16.3). -/
def State.remapStart (s : State) (log : State → State) (block reason : Nat) : State :=
  if s.nvla.remapping.any (fun e => decide (e.1 = block)) then s
  else if s.nvla.spares ≤ s.nvla.remapping.length then (log s).healthNotice 0x40 .failed true 0x0512
  else s.modNvla fun n => { n with remapping := n.remapping ++ [(block, reason)] }

/-- The write-count limit of a block (R441). -/
def writeLimit : Nat := 8 * 10 ^ 9

/-- `n` word writes of block `b` count; passing the limit starts a remap (R441). -/
def State.wearBy (s : State) (log : State → State) (b n : Nat) : State :=
  let w := s.wearOf b
  let s := s.setWear b (w.1, w.2 + n)
  if w.2 ≤ writeLimit ∧ writeLimit < w.2 + n then s.remapStart log b 3 else s

/-- The words from byte `a` to byte `a + n - 1` of the NVLA have been written whole and are free of errors. -/
def State.nvClean (s : State) (a n : Nat) : State :=
  let keep (w : Nat) : Bool := decide (w < a / 8 ∨ (a + n + 7) / 8 ≤ w)
  s.modNvla fun x => { x with soft := x.soft.filter keep, hard := x.hard.filter keep }

/-- A health record is written whose last word, that of the sequence number, fails its verification: its slot is left to fail R585 and its
sequence number is used up (R585, R601). -/
def State.healthSlotLost (s : State) (code sev unit : Nat) (data : List Byte) : State :=
  let q : Word := match s.well.logSeq with | none => 0 | some x => x + 1
  let s := s.setBytes (healthSlot q + 8) ((healthRecord q s.rtc code sev unit data).drop 8)
  (s.modWell fun w => { w with logSeq := some q }).modNvla fun n => { n with logFails := false }

/-- A health record is written: four word writes of its block (R441, R584); one that fails its verification is written again in the next slot
(R601). -/
def State.healthWrite (s : State) (code sev unit : Nat) (data : List Byte) : State :=
  let s := if s.nvla.logFails then s.healthSlotLost code sev unit data else s
  let a := healthSlot (match s.well.logSeq with | none => 0 | some x => x + 1)
  ((s.healthPut code sev unit data).nvClean a 32).wearBy (fun s => s.healthPut 0x0512 sevError 0x40 (beBytes 2 (nvBlock a))) (nvBlock a) 4

/-- Whether Wellhead runs: started, not restarting, and the part in PS0 to PS3 (R570). -/
def State.wellheadRuns (s : State) : Bool := s.well.running && !s.well.restarting && decide (s.power.ps ≤ 3)

/-- Wellhead logs an event. While it is off or restarting the event is latched once (R765); beyond 256 records in a second a
record of severity up to WARNING is dropped and counted (R586). -/
def State.hlog (s : State) (code sev unit : Nat) (data : List Byte) : State :=
  if s.wellheadRuns then
    if 256 ≤ s.well.secCount ∧ sev ≤ sevWarning then s.modWell fun w => { w with dropCount := w.dropCount + 1 }
    else s.healthWrite code sev unit data
  else if s.well.latched.any fun r => r.code = code ∧ r.unit = unit then s
  else s.modWell fun w => { w with latched := w.latched ++ [{ code, sev, unit, data }] }

/-- An event logged at most once per `period` microseconds for each key, with the count in the first two data bytes; the events in
between are counted and show in the next record (log 11). -/
def State.hlogKey (s : State) (key code sev unit period : Nat) (data : List Byte) : State :=
  match s.well.lim.find? fun e => e.1 = code ∧ e.2.1 = key with
  | none =>
    let s := s.modWell fun w => { w with lim := (code, key, s.us, 0) :: w.lim }
    s.hlog code sev unit (beBytes 2 1 ++ data)
  | some (_, _, t, n) =>
    let rest := s.well.lim.filter fun e => ¬ (e.1 = code ∧ e.2.1 = key)
    if s.us < t + period then s.modWell fun w => { w with lim := (code, key, t, n + 1) :: rest }
    else
      let s' := s.modWell fun w => { w with lim := (code, key, s.us, 0) :: rest }
      s'.hlog code sev unit (beBytes 2 (n + 1) ++ data)

/-- An event logged at most once per `period` microseconds for its unit (log 11). -/
def State.hlogLim (s : State) (code sev unit period : Nat) (data : List Byte) : State := s.hlogKey unit code sev unit period data

/-- A notice to Wellhead that a FAILED unit has recovered to WORN (Table 16.3). -/
def State.healthRecover (s : State) (unit event : Nat) : State :=
  s.modWell fun w => { w with notices := w.notices ++
    [{ unit := BitVec.ofNat 8 unit, health := .worn, perm := false, event := BitVec.ofNat 16 event, recover := true }] }

/-! ### The legal log (R75 to R80) -/

/-- The 64 bytes of a legal record (R75). -/
def legalRecord (seq : Word) (t : Time) (code chan flags : Nat) (data prev : List Byte) : List Byte :=
  let d := (data ++ List.replicate 34 0).take 34
  beBytes 4 seq.toNat ++ beBytes 6 t.toNat ++ beBytes 2 code ++ [BitVec.ofNat 8 chan, BitVec.ofNat 8 flags] ++
    d ++ (sha256 prev).take 16

/-- The records not yet exported (R56, UNEXP). -/
def TarnSt.unexported (t : TarnSt) : Nat := (t.logHead + 1 - t.logExp).toNat

/-- Appends one legal record to the ring of 3072; a full ring loses its oldest unexported record (R79). Reaching 2560
unexported records sets TMB_EVT.LOGWARN. -/
def State.legalWrite (s : State) (code chan flags : Nat) (data : List Byte) : State :=
  let q := s.tarn.logHead + 1
  let r := legalRecord q s.rtc code chan flags data (s.tarn.log.headD [])
  let full := 3072 ≤ s.tarn.unexported
  let s := s.modArea fun t => { t with
    log := (r :: t.log).take 3072, logHead := q, logExp := if full then t.logExp + 1 else t.logExp }
  if 2560 ≤ s.tarn.unexported then s.setBits Reg.tmbEvt 0x10000 else s

/-- Tarn enters an event in the legal log. When the ring is full, the entry and the LOG-OVERWRITE record (0433h) that names the
overwritten sequence numbers each overwrite one record (R79). Entries of every kind may use the last 64 records: DESIGN CHOICE (log 79). -/
def State.tlog (s : State) (code chan flags : Nat) (data : List Byte) : State :=
  if ¬ s.tarn.running then s
  else
    let e := s.tarn.logExp
    let full := 3072 ≤ s.tarn.unexported
    let s := s.legalWrite code chan flags data
    if full then s.legalWrite 0x0433 0xFF 0 (beBytes 4 e.toNat ++ beBytes 4 (e + 1).toNat) else s

/-! ### Bus errors (R42 to R45) -/

/-- SYS_BERR_INFO.KIND of an access through a port that reaches ledger SRAM only: 0 unmapped, 3 outside its rights (log 23). -/
def sramPortKind (a : Nat) : Nat := if region a = .unmapped then 0 else 3

/-- SYS_BERR_INFO of a bus error. -/
def berrInfo (m : Master) (wr : Bool) (w : Width) (kind : Nat) (fetch : Bool) : Word :=
  BitVec.ofNat 32 (masterCode m * 2 ^ 28 + masterCtx m * 2 ^ 25 + b2n wr * 2 ^ 24 + widthCode w * 2 ^ 22 + kind * 2 ^ 19 + b2n fetch * 2 ^ 18)

/-- Whether an event logged at most once per `period` microseconds may be logged again. -/
def rateDue (now period : Nat) : Option Nat → Bool
  | none => true
  | some t => decide (t + period ≤ now)

/-- Tarn counts a window write and enters 0402h at most once per second per master, with the count (R45). -/
def State.windowWrite (s : State) (m : Master) : State :=
  if ¬ s.tarn.running then s
  else
    let i : Fin 16 := Fin.ofNat 16 (masterCode m)
    let n : Half := if s.tarn.wwCnt[i] = 0xFFFF then 0xFFFF else s.tarn.wwCnt[i] + 1
    let s := s.modArea fun t => { t with wwCnt := t.wwCnt.set i n }
    if rateDue s.us (seconds 1) s.tarn.wwAt[i] then
      (s.modTarn fun t => { t with wwAt := t.wwAt.set i (some s.us) }).tlog 0x0402 0xFF 0
        (BitVec.ofNat 8 (masterCode m) :: beBytes 2 n.toNat)
    else s

/-- A bus error: the first is captured and sets BERRV, later ones count up to FFh (R44); a window write is counted by Tarn
(R45); one of Wellhead is logged as 0702h with the address (R601). -/
def State.busError (s : State) (m : Master) (a : Nat) (wr : Bool) (w : Width) (kind : Nat) (fetch : Bool) : State :=
  let s :=
    if bit (s.reg Reg.sysStat) 8 then { s with berrCnt := if s.berrCnt = 0xFF then 0xFF else s.berrCnt + 1 }
    else ((s.setReg Reg.berrAddr (BitVec.ofNat 32 a)).setReg Reg.berrInfo (berrInfo m wr w kind fetch)).setBits Reg.sysStat 0x100
  let s := if kind = 1 then s.windowWrite m else s
  if m = .wellhead then s.hlog 0x0702 sevNotice 0xFF (beBytes 4 a) else s

/-! ### The delivery-enable interlock (R62) and sessions -/

/-- Whether engine `n` runs without a fault. -/
def EngineSt.runs (e : EngineSt) : Bool :=
  match e.runst with | .run => !e.postMortem | .trap => !e.postMortem | .wait => !e.postMortem | _ => false

/-- Whether a converter has a fault (R187, R189). -/
def CnvSt.faulty (c : CnvSt) : Bool := match c.state with | .fault => true | .permFault => true | _ => false

/-- Whether the interlock calls for DENn to sink (R62, R105, R659), and no overcurrent release runs (R754). -/
def State.den (s : State) (n : Chan) : Bool :=
  let c := s.chan n
  s.tarn.running && decide (c.legal = .isIn) && decide (c.sess = .open) && (s.eng n).runs &&
    (c.src || !(s.cnv (cnvOf n)).faulty) && !s.well.failedIn[n] && !s.tarn.meshLatched && !s.tarn.tclkStopped &&
    !s.power.eclkStopped && !s.tarn.denTrip[n]

/-- Whether a channel has a session. -/
def State.inSession (s : State) (n : Chan) : Bool := decide ((s.chan n).sess ≠ .none)
/-- Whether any channel of a converter's group has a session. -/
def State.groupInSession (s : State) (u : Cnv) : Bool := (groupOf u).any s.inSession
/-- Whether any channel has a session. -/
def State.anySession (s : State) : Bool := allChans.any s.inSession

/-- A free value is used: the counter that selects it moves on (log 6). -/
def State.nextFree (s : State) : State := { s with free := s.free + 1 }

end Sys2Proof.Machine
end

