-- ==== Sys2Proof/Machine/Pins.lean ====
section
/-! DEFINITION. What the part drives on its pins, as a function of the state (R62, R63, R94, R105, R571, R693, R711, R713, R731 to R733,
R755). No command reads these but GP_IN. -/

namespace Sys2Proof.Machine

/-- What an output pin does: nothing (high impedance, or an open drain released), a weak pull, a level, the bits of a byte, the mesh
pattern. -/
inductive PinDrive where
  | none | pullUp | pullDown | low | high | byte (b : Byte) | mesh
  deriving DecidableEq, Repr

/-- A level. -/
def PinDrive.level (h : Bool) : PinDrive := if h then .high else .low

/-- The nominal class of a bank (R573): 1 for 1.8 V, 2 for 3.3 V, 3 unknown. -/
def bankClass (milli : Nat) : Nat :=
  if 1620 ≤ milli ∧ milli ≤ 1980 then 1 else if 2970 ≤ milli ∧ milli ≤ 3630 then 2 else 3

/-- Whether the pins of a bank drive: VIN is valid and the bank's supply lies in one of its ranges (R733, R755). -/
def State.bankDrives (s : State) (b : Fin 3) : Bool := decide (s.power.stage ≠ .off) && decide (bankClass s.power.vioMilli[b] ≠ 3)

/-- DENn sinks while the interlock calls for it (R62, R754). -/
def State.denPin (s : State) (n : Chan) : PinDrive := if s.power.stage ≠ .off ∧ s.den n then .low else .none

/-- The test pattern of TMB_XDIAG: 1 Hz, pulses of 50 ms, while the channel is OUT with no session (R94). Its phase is that of the
model's microseconds (log 77). -/
def State.diagPulse (s : State) (n : Chan) : Bool :=
  bit (s.reg Reg.tmbXdiag) n.val && decide ((s.chan n).legal = .out) && !s.inSession n && decide (s.us % 1000000 < 50000)

/-- Whether Tarn has loaded the channel entries since the start (R106). -/
def Stage.loaded : Stage → Bool
  | .off => false | .vin => false | .vcore => false | .tarn => true | .spring => true | .wellhead => true | .released => true

/-- MPOn: high impedance until Tarn has loaded the channel entries and throughout Ice, else at its level by MPO_CFG.POL (R63, R732), held
inactive while TCLK is stopped (R105). -/
def State.mpoPin (s : State) (n : Chan) : PinDrive :=
  if ¬ s.bankDrives 2 ∨ ¬ s.power.stage.loaded ∨ s.power.ps = 5 then .none
  else
    let active := !s.tarn.tclkStopped && (decide ((s.chan n).mpo = .pulse) || s.diagPulse n)
    .level (active == bit (s.chan n).mpoCfg 24)

/-- GPi: an input, or GP_OUT bit i, push-pull or open drain (R711); in Ice every GP pin is an input (R713). -/
def State.gpPin (s : State) (i : Fin 16) : PinDrive :=
  if ¬ s.bankDrives 0 ∨ s.power.ps = 5 ∨ ¬ bit (s.reg Reg.gpDir) i.val then .none
  else if ¬ bit (s.reg Reg.gpOut) i.val then .low
  else if bit (s.reg Reg.gpOd) i.val then .none else .high

/-- The level at GPi: what the part drives, else what stands there from outside (R711). -/
def State.gpLevel (s : State) (i : Fin 16) : Bool :=
  match s.gpPin i with
  | .low => false | .high => true | _ => s.side.gpIn.getLsbD i.val

/-- GP_IN: the level of every pin (R711). -/
def State.gpLevels (s : State) : Half :=
  BitVec.ofNat 16 ((List.finRange 16).foldl (fun a i => a + b2n (s.gpLevel i) * 2 ^ i.val) 0)

/-- REPLACE_N is asserted while its latch is (R571, R582). -/
def State.replacePin (s : State) : PinDrive := if s.power.stage ≠ .off ∧ s.well.replN then .low else .none

/-- CONu_TX: high impedance with a pull-up until the UART is enabled, then the byte that is sent or idle high (Table 21.3, R689). -/
def State.conTxPin (s : State) (u : Uart) : PinDrive :=
  if ¬ s.bankDrives 1 then .none
  else if ¬ bit (s.reg (Reg.conCfg u.val)) 26 then .pullUp
  else match (s.side.uarts[u]).sending with
  | some b => .byte b
  | none => .high

/-- CON1_DE: high impedance with a pull-down until CON1 is enabled, then active as R693 says, low while DEPOL is set. -/
def State.conDePin (s : State) : PinDrive :=
  if ¬ s.bankDrives 1 then .none
  else if ¬ bit (s.reg (Reg.conCfg 1)) 26 then .pullDown
  else .level ((s.side.uarts[(1 : Uart)]).de != bit (s.reg (Reg.conCfg 1)) 27)

/-- TMO0 and TMO1: low until Tarn reads the meshes, then the mesh pattern (Table 21.3, R92, R106). -/
def State.tmoPins (s : State) : PinDrive :=
  if s.power.stage = .off then .none else if s.power.stage.loaded then .mesh else .low

/-! ### The test DAC (R155, R170, R171) -/

/-- The entry that a converter is sampling, if any. -/
def CnvSt.sampling (c : CnvSt) : Option Word :=
  match c.work with
  | some (.seqEntry w _ _, false) => some w
  | some (.urgent w _, false) => some w
  | _ => none

/-- The TDAC as source Ch: (CODE - 512) / 512 x VREF / 2^ATT, in units of VREF / 16384 (R170). -/
def tdacSource (r : Word) : Int := ((field r 0 10 : Int) - 512) * 2 ^ (5 - field r 10 3)

/-- The TDAC as an injection: CODE / 1024 x VREF, in units of VREF / 16384; ATT does not apply (R170). -/
def tdacInject (r : Word) : Nat := field r 0 10 * 16

/-- The differential voltage that an internal source puts before the PGA, in units of VREF / 16384 (Table 5.1): the TDAC, VREF / 2 and
ground; none for an input from outside, which its pins give, and for the die temperature. -/
def State.internalSource (s : State) (u : Cnv) : Option Int :=
  match (s.cnv u).sampling with
  | none => none
  | some w =>
    match field w 0 4 with
    | 12 => some (tdacSource (s.cnv u).cap.tdac)
    | 13 => some 8192
    | 15 => some 0
    | _ => none

/-- What an injection switch drives into a differential input pin through 100 kOhm, in units of VREF / 16384: closed only while an entry
whose INJ names the pin is sampling, open at every other time (R170, R171). `neg` is the N input. -/
def State.injected (s : State) (u : Cnv) (input : Fin 8) (neg : Bool) : Option Nat :=
  match (s.cnv u).sampling with
  | none => none
  | some w =>
    if field w 0 4 = input.val ∧ field w 20 2 = (if neg then 2 else 1) then some (tdacInject (s.cnv u).cap.tdac) else none

/-- Whether the QSPI pins are driven: from the discovery by Spring on, and never in HOLD-ALL (Table 21.3, R665, R667). -/
def State.qspiDriven (s : State) : Bool :=
  s.bankDrives 1 && decide (s.power.boot.toNat < 2) && match s.power.stage with
    | .off => false | .vin => false | .vcore => false | .tarn => false | .spring => true | .wellhead => true | .released => true

end Sys2Proof.Machine
end

