-- ==== Sys2Proof/Machine/Views.lean ====
section
/-! DEFINITION. What the state looks like from outside: the value of every register with its live fields, the Tarn window, the
interrupt lines, and a byte of the physical map as a master reads it. -/

namespace Sys2Proof.Machine

/-! ### Packed digits -/

/-- The number whose hexadecimal digits are the `n` low decimal digits of `v`. -/
def bcd : Nat → Nat → Nat
  | 0, _ => 0
  | n + 1, v => v % 10 + 16 * bcd n (v / 10)

/-- A totalizer's 10 bytes: 20 unsigned digits, most significant first (R54). -/
def totalBytes (v : Nat) : List Byte := beBytes 10 (bcd 20 v)

/-- The session quantity: 15 digits and sign Ch (R73). The spec states no quantity for more than 15 digits: a free value (log 12). -/
def quantityWord (v : Nat) : BitVec 64 :=
  if v < 10 ^ 15 then BitVec.ofNat 64 (bcd 15 v * 16 + 0xC) else Config.wideQuantity v

/-! ### The Tarn window (R53 to R56) -/

/-- CH_STATE (Table 3.2). -/
def chState (c : TarnChan) : Nat :=
  c.legal.code + b2n c.perm * 4 + b2n c.src * 8 + c.sess.code * 16 + b2n c.dir * 128 + c.fault.toNat * 256

/-- The 256 bytes of a channel entry (Table 3.2). -/
def chanEntry (c : TarnChan) : List Byte :=
  beBytes 4 (chState c) ++ beBytes 4 c.ucnt.toNat ++ beBytes 4 c.session.toNat ++ beBytes 6 c.start.toNat ++ [0, 0] ++
    totalBytes c.fwd ++ [0, 0] ++ totalBytes c.rev ++ [0, 0] ++ totalBytes c.ses ++ [0, 0] ++
    beBytes 6 c.uprice.toNat ++ [0, 0] ++ (c.mc.toList.flatMap fun w => beBytes 4 w.toNat) ++
    beBytes 4 c.mpoCfg.toNat ++ beBytes 4 c.backlog.toNat ++ beBytes 8 c.preset.toNat ++ List.replicate 144 0

/-- TSTAT (Table 3.10). -/
def tstat (t : TarnSt) : Nat :=
  b2n t.sealOpen + b2n t.meshLatched * 2 + b2n t.caseOpen * 4 + b2n (decide (2560 ≤ t.unexported)) * 8 +
    b2n (decide (3008 ≤ t.unexported)) * 16 + b2n t.signStop * 32 + b2n t.keyLost * 64 + b2n (decide (0 < t.debugLeft)) * 128

/-- The 256 bytes of the status area (Table 3.10). -/
def statusArea (t : TarnSt) : List Byte :=
  beBytes 4 (tstat t) ++ beBytes 4 t.sucnt.toNat ++ beBytes 4 t.sesCtr.toNat ++ beBytes 4 t.logHead.toNat ++
    beBytes 4 t.logExp.toNat ++ beBytes 4 t.unexported ++
    beBytes 4 (t.queue.length + 256 * (match t.queue with | [] => 0xFF | n :: _ => n.val)) ++ [0, 0, 0, 0] ++
    (t.wwCnt.toList.flatMap fun w => beBytes 2 w.toNat) ++ List.replicate 64 0 ++
    (t.floors.toList.flatMap fun w => beBytes 4 w.toNat) ++ List.replicate 48 0 ++
    (t.startRec ++ List.replicate 32 0).take 32 ++ beBytes 4 t.debugLeft ++ List.replicate 28 0

/-- The 64 bytes of an enrolled key slot (Table 3.1). -/
def keyEntry (k : KeySlot) : List Byte := beBytes 32 k.pub.toNat ++ beBytes 4 k.state.code ++ List.replicate 28 0

/-- The byte of the Tarn window at an offset (Table 3.1). -/
def windowByte (t : TarnSt) (o : Nat) : Byte :=
  if o < 0x100 then (statusArea t).getD o 0
  else if o < 0x900 then (chanEntry t.chans[Fin.ofNat 8 (o / 0x100 - 1)]).getD (o % 0x100) 0
  else if o < 0x1000 then 0
  else if o < 0x1400 then t.chans[Fin.ofNat 8 ((o - 0x1000) / 0x80)].record.getD (o % 0x80) 0
  else if o < 0x2000 then 0
  else if o < 0x2020 then Config.publicKey (o - 0x2000)
  else if o < 0x2060 then Config.factorySig (o - 0x2020)
  else if o < 0x2100 then 0
  else if o < 0x2200 then (keyEntry t.keys[Fin.ofNat 4 ((o - 0x2100) / 0x40)]).getD (o % 0x40) 0
  else if o < 0x3000 then 0
  else if o < 0x3060 then
    (t.factors.toList.flatMap fun v => v.toList.flatMap fun g => beBytes 4 g.1.toNat ++ beBytes 4 g.2.toNat).getD (o - 0x3000) 0
  else if o < 0x4000 then 0
  else if o < 0x4010 then
    (beBytes 8 ((t.nonce.getD 0).toNat) ++ beBytes 4 t.signedCtr.toNat).getD (o - 0x4000) 0
  else if o < 0x10000 then 0
  else
    let slot := (o - 0x10000) / 0x40
    let age := (t.logHead.toNat % 3072 + 3072 - slot) % 3072
    (t.log.getD age []).getD (o % 0x40) 0

/-! ### Interrupt lines (R401 to R405, R767) -/

/-- The raw condition of line 14 (R520). -/
def line14 (s : State) : Bool :=
  decide (s.reg Reg.txnEvt &&& s.reg Reg.txnIen ≠ 0) || decide (s.reg Reg.rtEvt &&& s.reg Reg.rtIen ≠ 0) ||
    decide (s.reg (Reg.txnDone 0) &&& s.reg (Reg.txnDien 0) ≠ 0) || decide (s.reg (Reg.txnDone 1) &&& s.reg (Reg.txnDien 1) ≠ 0)

/-- CONu_EVT with its live bits (Table 20.1). -/
def conEvtView (s : State) (u : Uart) : Word :=
  let x := s.side.uarts[u]
  let f := s.reg (Reg.conFifo u.val)
  (x.evt.setWidth 32 &&& 0x7C) |||
    BitVec.ofNat 32 (b2n (decide (field f 16 7 ≤ x.rx.length)) + 2 * b2n (decide (x.tx.length ≤ field f 24 7)))

/-- Whether line `n` is asserted by its source (Table 22.4) or held by IRQ_XFORCE (R414). -/
def lineAsserted (s : State) (n : Nat) : Bool :=
  let x := s.reg Reg.irqXforce
  (bit x 8 && decide (field x 0 6 = n)) ||
  (if n < 8 then decide (s.reg (Reg.ceEvt n) &&& s.reg (Reg.ceCtrl n) &&& 0xF ≠ 0)
   else if n < 10 then decide (s.reg (Reg.cnvEvt (n - 8)) &&& s.reg (Reg.cnvIen (n - 8)) ≠ 0)
   else if n < 14 then decide (s.reg (Reg.usdEvt (n - 10)) &&& s.reg (Reg.usdIen (n - 10)) ≠ 0)
   else if n = 14 then line14 s
   else if n = 15 then decide (s.reg Reg.tmbEvt &&& s.reg Reg.tmbIen ≠ 0)
   else if n = 16 then decide (s.reg Reg.wmbEvt &&& s.reg Reg.wmbIen ≠ 0)
   else if n < 19 then decide (conEvtView s (Fin.ofNat 2 (n - 17)) &&& s.reg (Reg.conIen (n - 17)) ≠ 0)
   else if n < 21 then decide (s.reg (Reg.iicEvt (n - 19)) &&& s.reg (Reg.iicIen (n - 19)) ≠ 0)
   else if n = 21 then decide (s.reg Reg.qspiEvt &&& s.reg Reg.qspiIen ≠ 0)
   else if n < 25 then bit (s.reg Reg.tmrEvt) (n - 22) && bit (s.reg Reg.tmrIen) (n - 22)
   else if n = 25 then decide (s.reg Reg.nvlEvt &&& s.reg Reg.nvlIen ≠ 0)
   else if n = 26 then decide (s.reg Reg.pwrEvt &&& s.reg Reg.pwrIen ≠ 0)
   else if n = 27 then s.power.pfailLine
   else if n < 32 then bit (s.reg Reg.irqDb) (n - 28)
   else if n < 48 then
     let i := n - 32
     let mode := field (s.reg (Reg.gpCfg i)) 0 3
     if mode = 4 then s.gpLevel (Fin.ofNat 16 i) && bit (s.reg Reg.gpIen) i
     else if mode = 5 then !s.gpLevel (Fin.ofNat 16 i) && bit (s.reg Reg.gpIen) i
     else if mode = 0 then false
     else bit (s.reg Reg.gpEvt) i && bit (s.reg Reg.gpIen) i
   else false)

/-- The value of a register that core `c` uses: the one that the instruction in progress began with (R338, R361), the old one while the
core has not completed SYNC (R222), else the register's. -/
def effReg (s : State) (c : Core) (a : Nat) : Word :=
  match ((s.core c).lateRegs ++ (s.core c).oldRegs).find? fun e => e.1 = a with
  | some (_, v) => v
  | none => s.reg a

/-- The fallback core of core `c`, when its lines are delivered to one (R410). -/
def fallbackOf (s : State) (c : Core) : Option Core :=
  let f := s.reg (Reg.lccFallback c.val)
  let t : Core := Fin.ofNat 4 (field f 0 2)
  if (s.core c).core = .halted ∧ bit f 3 ∧ t ≠ c ∧ (s.core t).core ≠ .halted then some t else none

/-- Whether a line is one that was re-routed while a context took its entry, and still waits for that handler's RTI (R418). -/
def lineKept (s : State) (n : Nat) : Bool := s.cores.toList.any fun x => x.kept.any fun e => decide (e.1 = n)

/-- Whether line `n` is routed to context `k` of core `c`, under the routing that core uses; a halted core's lines go to its
fallback once delivery has begun (R403, R404, R410, R418). -/
def routedTo (s : State) (n : Nat) (c : Core) (k : Ctx) : Bool :=
  let r := effReg s c (Reg.irqLine n)
  let tgt : Core := Fin.ofNat 4 (field r 0 2)
  bit r 8 && !lineKept s n && decide (field r 2 3 = k.val) &&
    (if (s.core tgt).core = .halted ∧ (s.core tgt).fallbackOn then decide (fallbackOf s tgt = some c)
     else decide (tgt = c))

/-- The LEVEL of line `n`. -/
def lineLevel (s : State) (c : Core) (n : Nat) : Nat := field (effReg s c (Reg.irqLine n)) 5 3

/-- The pending line of highest LEVEL, and among equal levels the lowest number, routed to a context (R393, R402). -/
def bestLine (s : State) (c : Core) (k : Ctx) : Option Nat :=
  (List.range 48).foldl (fun b n =>
    if lineAsserted s n && routedTo s n c k then
      match b with
      | none => some n
      | some m => if lineLevel s c m < lineLevel s c n then some n else b
    else b) none

/-- The state of a context with an IDLE one made READY by a pending line while its IM is 0 (R200, R403) or by its watchdog. -/
def effState (s : State) (c : Core) (k : Ctx) : CtxState :=
  let x := s.ctx c k
  match x.state with
  | .idle => if x.wdtPend || (!x.regs.ctx.getLsbD 9 && (bestLine s c k).isSome) then .ready else .idle
  | st => st

/-- The contexts in IDLE that a line has made READY stay READY though the line goes away (R200, R403). -/
def State.latched (s : State) : State :=
  s.each allCores fun s c => s.each allCtxs fun s k =>
    if (s.ctx c k).state = .idle ∧ effState s c k = .ready then s.modCtx c k fun x => { x with state := .ready } else s

/-- A line that is no longer asserted has done with its re-routing: its next assertion follows the new one (R418). -/
def State.unkept (s : State) : State :=
  s.each allCores fun s c =>
    if (s.core c).kept.any fun e => !lineAsserted s e.1 then
      s.modCore c fun x => { x with kept := x.kept.filter fun e => lineAsserted s e.1 }
    else s

/-- An event that may take lines away. -/
def State.lineEvent (s : State) (f : State → State) : State := (f s.latched).unkept

/-- The effective level of a context (R403); an EC 17h stands above every line (R407). -/
def effLevel (s : State) (c : Core) (k : Ctx) : Nat :=
  let own := field (s.reg (Reg.kstate c.val k.val)) 8 3
  if (s.ctx c k).wdtPend then 8
  else if (s.ctx c k).regs.ctx.getLsbD 9 then own
  else match bestLine s c k with | none => own | some n => max own (lineLevel s c n)

/-! ### Registers with their live fields -/

/-- The count of a 24-hour history, as HF24 shows it in two bits. -/
def hf24 (now : Nat) (l : List Nat) : Nat := min 3 (within now (hours 24) l).length

/-- LCC_STAT.CORE: a gated core reads STOPPED (R624). -/
def coreCode (s : State) (c : Core) : Nat :=
  match (s.core c).core with
  | .run => if s.power.ps = 0 then 0 else 2
  | .halted => 1
  | .stopped => 2

/-- The registers of a context that LCC_KPC to LCC_KDP show: live while STOPPED, else those of the last switch (R224). -/
def shownRegs (x : CtxSt) : CtxRegs := if x.state = .stopped then x.regs else x.image

/-- The first words of the register blocks whose STAT.RESW make SYS_RESW_SUM (Table 2.5). -/
def statAddrs (b : Nat) : List Nat :=
  if b = 2 then [0, 1, 2, 3].map Reg.lccStat
  else if b = 4 then [0, 1, 2, 3, 4, 5, 6, 7].map Reg.ceStat
  else if b = 5 then [0, 1].map Reg.cnvStat
  else if b = 6 then [0, 1, 2, 3].map Reg.usdStat ++ [Reg.rtStat, Reg.txnStat]
  else [0x04000004 + b * 0x10000]

/-- SYS_RESW_SUM (Table 2.5). -/
def reswSum (s : State) : Word :=
  BitVec.ofNat 32 ((List.range 15).foldl
    (fun n b => n + b2n ((statAddrs b).any fun a => bit (s.reg a) 31) * 2 ^ b) 0)

/-- The word of bytes 4 to 1 of a list from position `i`, byte +k at bits 8k+7 to 8k. -/
def wordAt (l : List Byte) (i : Nat) : Word :=
  BitVec.ofNat 32 (leNat [l.getD i 0, l.getD (i + 1) 0, l.getD (i + 2) 0, l.getD (i + 3) 0])

/-- CLK_STAT (Table 18.9). -/
def clkStatView (s : State) : Word :=
  let p := s.power
  BitVec.ofNat 32 (b2n p.xin + b2n p.xrtc * 2 + b2n p.rco * 4 + b2n p.spll * 8 + b2n p.cpll * 16 + b2n p.tpll * 32 +
    (allPorts.foldl (fun n q => n + b2n (decide (2 ≤ (s.port q).state.code ∧ (s.port q).state.code ≤ 4)) * 2 ^ (8 + q.val)) 0))

/-- The live bits of LCC registers (Table 6.3). -/
def lccView (s : State) (c : Core) (u : Nat) (v : Word) : Word :=
  let x := s.core c
  if u = 4 then v ||| BitVec.ofNat 32 (b2n x.kbw * 2 ^ 29 + coreCode s c * 2 ^ 24 + x.cur.val * 2 ^ 16 + x.hcause.toNat * 256)
  else if 0x100 ≤ u ∧ u < 0x200 then
    let k : Ctx := Fin.ofNat 8 ((u - 0x100) / 0x20)
    let y := x.ctx k
    let r := shownRegs y
    let o := u % 0x20
    if o = 0 then v ||| BitVec.ofNat 32 ((effState s c k).code + y.stack.length * 2 ^ 16)
    else if o = 4 then BitVec.ofNat 32 (r.pc.toNat + r.ctx.toNat * 65536)
    else if o = 0x14 then BitVec.ofNat 32 (r.a.toNat + r.x.toNat * 65536)
    else if o = 0x18 then BitVec.ofNat 32 (r.y.toNat + r.l.toNat * 65536)
    else if o = 0x1C then BitVec.ofNat 32 r.dp.toNat
    else v
  else v

/-- The live bits of CE registers (Table 4.13). -/
def ceView (s : State) (n : Chan) (u : Nat) (v : Word) : Word :=
  let e := s.eng n
  if u = 4 then v ||| BitVec.ofNat 32 (b2n e.event * 2 ^ 29 + e.qmode.toNat * 2 ^ 27 + e.runst.code * 2 ^ 24 +
    e.fcode.toNat * 256 + hf24 s.us e.faultTimes * 64)
  else if u = 0x10 then BitVec.ofNat 32 (e.upc.toNat + e.shadow.upc.toNat * 65536 + b2n e.inHandler * 2 ^ 31)
  else if u = 0x18 then e.finfo
  else if 0x100 ≤ u ∧ u < 0x140 then e.front[Fin.ofNat 16 ((u - 0x100) / 4)]
  else v

/-- The live bits of CNV registers (Table 5.7). -/
def cnvView (s : State) (n : Cnv) (u : Nat) (v : Word) : Word :=
  let c := s.cnv n
  if u = 4 then v ||| BitVec.ofNat 32 (c.state.code * 2 ^ 27 + c.fcause * 2 ^ 24 + hf24 s.us c.faultTimes * 2 ^ 22)
  else if u = 0x2C then BitVec.ofNat 32 (c.calStep + c.calRestarts % 16 * 16 + b2n (decide (c.state = .cal)) * 256 +
    c.calDone % 65536 * 65536)
  else v

/-- The headroom H of a port, never below USD_XHEAD (R474). -/
def State.usdHeadroom (s : State) (p : Port) : Nat := max (field (s.reg (Reg.usdXhead p.val)) 0 16) (s.port p).headroom

/-- The live bits of port registers (Table 13.9). -/
def usdView (s : State) (p : Port) (u : Nat) (v : Word) : Word :=
  let x := s.port p
  if u = 4 then v ||| BitVec.ofNat 32 (x.state.code * 2 ^ 27 + x.rate * 2 ^ 25 + b2n x.hgMode * 2 ^ 24 + b2n x.held * 2 ^ 23 +
    b2n x.holding * 2 ^ 22 + b2n x.stuck * 2 ^ 21 + min 16 x.fails * 2 ^ 16 + x.partner.node.toNat)
  else if u = 0x18 then BitVec.ofNat 32 (x.rtt % 65536 + s.usdHeadroom p % 65536 * 65536)
  else if u = 0x1C then BitVec.ofNat 32 (x.timerEff % 4096 + x.partner.ackt.toNat * 4096)
  else if u = 0x20 then BitVec.ofNat 32 x.partner.epoch.toNat
  else v

/-- The live bits of the routing and transaction windows (Tables 14.4 and 14.5). -/
def meshView (s : State) (o : Nat) (v : Word) : Word :=
  let m := s.mesh
  if o = 0x4004 then v ||| m.unreach.setWidth 32
  else if o = 0x4008 then m.node
  else if o = 0x400C then m.epoch.setWidth 32
  else if o = 0x4010 then m.bseq.setWidth 32
  else if o = 0x5004 then v ||| BitVec.ofNat 32 ((m.tags.toList.filter fun t => t.state = .free).length * 65536 +
    (m.cache.toList.filter fun e => e.state ≠ .free).length)
  else if o = 0x5034 then m.rhead.setWidth 32
  else if o = 0x5180 then BitVec.ofNat 32 (m.wEntry.val + m.wReq.length * 256 + b2n m.wPend * 2 ^ 31)
  else if o = 0x5184 then m.wSrc.setWidth 32
  else if 0x5300 ≤ o ∧ o < 0x5400 then wordAt m.wReq (o - 0x5300)
  else if 0x5400 ≤ o ∧ o < 0x5600 then
    let t := m.tags[Fin.ofNat 64 ((o - 0x5400) / 8)]
    if o % 8 = 0 then BitVec.ofNat 32 (t.state.code + t.owner.val * 16 + t.outcome.toNat * 256 + b2n t.replayed * 4096 +
      t.dst.toNat * 65536)
    else BitVec.ofNat 32 (t.epoch.toNat + t.sends.toNat * 65536 + t.status.toNat * 2 ^ 24)
  else if 0x5800 ≤ o ∧ o < 0x5C00 then
    let e := m.cache[Fin.ofNat 256 ((o - 0x5800) / 4)]
    BitVec.ofNat 32 (e.state.code + e.src.toNat * 16)
  else v

/-- The live bits of the CON and IIC blocks (Tables 20.1 and 20.3); a receive register shows its oldest byte. -/
def sideView (s : State) (a : Nat) (v : Word) : Word :=
  let o := a % 0x10000
  if a / 0x10000 = 0x0407 then
    if o < 0x100 then v
    else
      let u : Uart := Fin.ofNat 2 (o / 0x100 - 1)
      let x := s.side.uarts[u]
      let r := o % 0x100
      if r = 4 then conEvtView s u
      else if r = 0xC then v ||| BitVec.ofNat 32 (x.rx.length + x.tx.length * 256)
      else if r = 0x14 then
        match x.rx with
        | [] => 0
        | e :: _ => BitVec.ofNat 32 (e.b.toNat + b2n e.fe * 256 + b2n e.pe * 512 + b2n e.brk * 1024 + 0x8000)
      else v
  else if o = 4 then v ||| BitVec.ofNat 32 (b2n s.side.iics[0].stuck + 2 * b2n s.side.iics[1].stuck)
  else if o < 0x100 then v
  else
    let x := s.side.iics[Fin.ofNat 2 (o / 0x100 - 1)]
    let r := o % 0x100
    if r = 0xC then BitVec.ofNat 32 (b2n x.busy * 2 ^ 31 + b2n x.done * 2 ^ 30 + x.nack.toNat * 256 + x.code.toNat)
    else if r = 0x1C then match x.rfifo with | [] => 0 | b :: _ => b.setWidth 32 ||| 0x8000
    else v

/-- The entry of a unit in Wellhead's table (R577). -/
def unitOf (s : State) (u : Nat) : UnitSt := Sparse.get (fun _ => {}) s.well.units u

/-- Whether a unit is FAILED for the time being, or a notice under way makes it so. -/
def State.failedNow (s : State) (unit : Nat) : Bool :=
  let u := unitOf s unit
  let due := s.well.notices.filter fun x => decide (x.unit.toNat = unit)
  !u.perm && !(due.any fun x => x.perm) &&
    (match due.getLast? with
      | some x => decide (x.health = .failed) && !x.recover
      | none => decide (u.health = .failed))

/-- The parts that make a channel's health: its own, its engine and, with SRC 0, its converter (R579). -/
def chanParts (s : State) (n : Chan) : List UnitSt :=
  [unitOf s (0x70 + n.val), unitOf s (0x10 + n.val)] ++ (if (s.chan n).src then [] else [unitOf s (0x20 + (cnvOf n).val)])

/-- The worse of two health states (R579). -/
def Health.worse : Health → Health → Health
  | .failed, _ => .failed | _, .failed => .failed | .worn, _ => .worn | _, .worn => .worn | .good, .good => .good

/-- A channel's health: the worst of its parts (R579). -/
def chanHealth (s : State) (n : Chan) : Health := (chanParts s n).foldl (fun h u => h.worse u.health) .good

/-- Whether a channel is permanent FAILED: a part that makes it FAILED is permanent (R579). -/
def chanPerm (s : State) (n : Chan) : Bool := (chanParts s n).any fun u => decide (u.health = .failed) && u.perm

/-- The live bits of a WMB register (Table 16.6). -/
def wmbView (s : State) (o : Nat) (v : Word) : Word :=
  let w := s.well
  let sens (i : Nat) : Word :=
    let x := w.sensors[Fin.ofNat 12 i]
    BitVec.ofInt 16 x.reading |>.setWidth 32 |>.or (BitVec.ofNat 32 (b2n x.valid * 65536 + x.nominal * 2 ^ 17))
  if o = 4 then v ||| BitVec.ofNat 32 (b2n w.aperr * 2048 + b2n (w.units.any fun e => e.2.mismatch) * 1024 +
    b2n w.restarting * 512 + b2n w.replN * 256)
  else if o = 0x10 then w.logSeq.getD 0
  else if o = 0x14 then BitVec.ofNat 32 (min 255 w.causes.length + (match w.causes with | [] => 0 | c :: _ => c.2.toNat * 65536))
  else if 0x20 ≤ o ∧ o < 0x4C then sens ((o - 0x20) / 4)
  else if o = 0x4C then sens 11
  else if o = 0x50 then w.tamp.setWidth 32
  else if o = 0x200 then BitVec.ofNat 32 (w.appLen.toNat + w.appSerial.toNat * 256 + b2n w.appPend * 65536)
  else if o = 0x208 then BitVec.ofNat 32 (b2n w.appReady + 2 * b2n w.appClosed)
  else if 0x400 ≤ o ∧ o < 0x600 then
    let u := (o - 0x400) / 4
    let x := unitOf s u
    let n : Chan := Fin.ofNat 8 u
    let ch := decide (0x70 ≤ u ∧ u < 0x78)
    BitVec.ofNat 32 ((if ch then (chanHealth s n).code else x.health.code) +
      b2n (if ch then chanPerm s n else decide (x.health = .failed) && x.perm) * 4 + b2n x.mismatch * 8 +
      b2n (w.causes.any fun c => c.1 = .unit (BitVec.ofNat 8 u)) * 16 + x.cause.toNat * 65536)
  else v

/-- Whether the lines of a halted core are orphaned (R411). -/
def orphaned (s : State) (c : Core) : Bool := decide ((s.core c).core = .halted) && (fallbackOf s c).isNone

/-- The live bits of an IRQ register (Table 11.6). -/
def irqView (s : State) (o : Nat) (v : Word) : Word :=
  let raw (lo n : Nat) : Word := BitVec.ofNat 32 ((List.range n).foldl (fun x i => x + b2n (lineAsserted s (lo + i)) * 2 ^ i) 0)
  if o = 4 then v ||| BitVec.ofNat 32 (allCores.foldl (fun x c => x + b2n (orphaned s c) * 2 ^ c.val) 0)
  else if o = 8 then raw 0 32
  else if o = 0xC then raw 32 16
  else if 0x100 ≤ o ∧ o < 0x1C0 then
    let n := (o - 0x100) / 4
    let tgt : Core := Fin.ofNat 4 (field v 0 2)
    let e : Core := if (s.core tgt).core = .halted ∧ (s.core tgt).fallbackOn then (fallbackOf s tgt).getD tgt else tgt
    v ||| BitVec.ofNat 32 (b2n (lineAsserted s n && bit v 8) * 512 + e.val * 1024)
  else v

/-- The value a read of the register at aligned address `a` gives master `m`, read side effects apart. -/
def regView (s : State) (m : Master) (a : Nat) : Word :=
  let v := s.reg a
  let b := a / 0x10000
  let o := a % 0x10000
  if b = 0x0400 then
    if o = 4 then v ||| BitVec.ofNat 32 (s.berrCnt.toNat * 65536)
    else if o = 8 then (if Config.gradeX then 0x42020108 else 0x42010108)
    else if o = 0xC then reswSum s
    else if o = 0x18 then Config.uid.setWidth 32
    else if o = 0x1C then (Config.uid >>> 32).setWidth 32
    else if o = 0x20 then BitVec.ofNat 32 (masterCode m * 2 ^ 28 + masterCtx m * 2 ^ 25)
    else v
  else if b = 0x0401 then
    if o = 4 then v ||| BitVec.ofNat 32 (s.power.ps + s.power.pend * 16 + s.power.refuse.toNat * 256 +
      b2n s.power.fovr * 65536 + b2n s.power.rtcRco * 2 ^ 17)
    else if o = 0x100 then clkStatView s
    else if o = 0x8004 then BitVec.ofNat 32 (s.nvla.gmax + b2n s.nvla.holdOk * 8 +
      (allCores.foldl (fun x c => x + b2n (decide (s.nvla.groups[c].state ≠ .idle)) * 2 ^ (4 + c.val)) 0) +
      (if s.nvla.measured then s.nvla.spares else 0) * 256)
    else if o = 0x8010 then BitVec.ofNat 32 (min 65535 s.nvla.centiUF + min 65535 s.nvla.microJ * 65536)
    else if 0x8100 ≤ o ∧ o < 0x8180 then
      let c : Core := Fin.ofNat 4 ((o - 0x8100) / 0x20)
      let g := s.nvla.groups[c]
      if o % 0x20 = 4 then BitVec.ofNat 32 (g.state.code + g.owner.val * 16 + g.words.length * 256 + g.result.toNat * 4096)
      else if o % 0x20 = 8 then s.nvla.last[c] else 0
    else v
  else if b = 0x0402 then lccView s (Fin.ofNat 4 (o / 0x1000)) (o % 0x1000) v
  else if b = 0x0404 then ceView s (Fin.ofNat 8 (o / 0x1000)) (o % 0x1000) v
  else if b = 0x0405 then cnvView s (Fin.ofNat 2 (o / 0x1000)) (o % 0x1000) v
  else if b = 0x0406 then if o < 0x4000 then usdView s (Fin.ofNat 4 (o / 0x1000)) (o % 0x1000) v else meshView s o v
  else if b = 0x0407 ∨ b = 0x0408 then sideView s a v
  else if b = 0x0409 then
    if 0x140 ≤ o ∧ o < 0x160 then (s.eng (Fin.ofNat 8 ((o - 0x140) / 4))).count
    else if o = 0x200 then s.gpLevels.setWidth 32 else v
  else if b = 0x040A then
    if o = 4 then v ||| BitVec.ofNat 32 (b2n s.tarn.sealOpen * 1024 + b2n s.tarn.meshLatched * 512 + b2n s.tarn.caseOpen * 256)
    else v
  else if b = 0x040B then wmbView s o v
  else if b = 0x040C then irqView s o v
  else if b = 0x040D then
    if o = 0x10 then (s.rtc >>> 16).setWidth 32 else if o = 0x14 then s.side.fracLatch.setWidth 32 else v
  else if b = 0x040E then
    let q := s.side.qspi
    if o = 4 then v ||| BitVec.ofNat 32 (b2n q.ready + 2 * b2n q.op.isSome + 4 * b2n (decide (24 < q.log2)))
    else if o = 8 then BitVec.ofNat 32 (q.log2 + q.mode * 256 + b2n q.sfdp * 65536 + b2n q.erase64 * 2 ^ 17)
    else if o = 0x18 then BitVec.ofNat 32 (b2n q.op.isSome * 2 ^ 31 + q.statusByte.toNat * 256 + q.res.toNat)
    else v
  else v

/-! ### Memory as a master reads it -/

/-- The bytes of an 8-byte word. -/
def wordByte (d : BitVec 64) (i : Nat) : Byte := BitVec.ofNat 8 (d.toNat >>> (8 * i))

/-- A group word's byte at address `a`, when the word holds it. -/
def groupByte (ws : List GroupWord) (a : Nat) : Option Byte :=
  match ws.find? fun w => w.word = a / 8 ∧ w.mask.getLsbD (a % 8) with
  | some w => some (wordByte w.data (a % 8))
  | none => none

/-- A byte of the NVLA: the array, under the durable groups still to be applied (R429). -/
def nvlByte (s : State) (a : Nat) : Byte :=
  s.nvla.durable.foldl (fun b g => (groupByte g.words a).getD b) (s.byte a)

/-- The byte that a context of a core has staged in its group (R429). -/
def stagedByte (s : State) (c : Core) (k : Ctx) (a : Nat) : Option Byte :=
  let g := s.nvla.groups[c]
  if g.owner = k ∧ g.state ≠ .idle ∧ region a = .nvla then groupByte g.words a else none

/-- A byte of the NVLA as a context of a core reads it: the owner of a group sees its staged bytes (R429). -/
def nvlByteFor (s : State) (c : Core) (k : Ctx) (a : Nat) : Byte := (stagedByte s c k a).getD (nvlByte s a)

/-- A byte of the physical map outside the device registers, as master `m` reads it. -/
def physByte (s : State) (m : Master) (a : Nat) : Byte :=
  match region a with
  | .nvla => match m with | .lc c k _ => nvlByteFor s c k a | _ => nvlByte s a
  | .image => nvlByte s a
  | .hlog => nvlByte s a
  | .tarnWin => windowByte s.tarn (a - 0x02000000)
  | .rom => Config.romByte (a - 0x03000000)
  | .sram => s.byte a
  | .qspi => s.byte a
  | _ => 0

/-- Whether a read of the QSPI window gives a bus error: beyond the density, or a flash that has stopped answering (R703, R727). -/
def qspiBad (s : State) (a : Nat) : Bool :=
  s.side.qspi.silent || !s.side.qspi.ready || decide (2 ^ s.side.qspi.log2 ≤ a - 0x05000000)

end Sys2Proof.Machine
end

