-- ==== Sys2Proof/Machine/Decimal.lean ====
section
/-! DEFINITION. Packed, zoned and unsigned packed fields as bytes and as numbers (R268 to R272). -/

namespace Sys2Proof.Machine

/-- The nibbles of a field, most significant first. -/
def nibbles (l : List Byte) : List Nat := l.flatMap fun b => [b.toNat / 16, b.toNat % 16]

/-- The number of a list of decimal digits; none when one lies outside 0 to 9. -/
def digitsNat (l : List Nat) : Option Nat :=
  l.foldl (fun a d => match a with | some v => if d < 10 then some (v * 10 + d) else none | none => none) (some 0)

/-- A packed field: whether it is minus, and its magnitude (R268); none when a nibble is invalid (R272). -/
def parsePacked (l : List Byte) : Option (Bool × Nat) :=
  match (nibbles l).getLast? with
  | none => none
  | some g => if g < 10 then none else (digitsNat (nibbles l).dropLast).map fun v => (decide (g = 0xB ∨ g = 0xD), v)

/-- An unsigned packed field (R271). -/
def parseUnsigned (l : List Byte) : Option Nat := digitsNat (nibbles l)

/-- A zoned field (R270). -/
def parseZoned (l : List Byte) : Option Nat :=
  if l.all fun b => 0x30 ≤ b.toNat ∧ b.toNat ≤ 0x39 then digitsNat (l.map fun b => b.toNat % 16) else none

/-- The `n` bytes of a packed result; a zero carries Ch (R269). -/
def packedBytes (n : Nat) (neg : Bool) (v : Nat) : List Byte :=
  beBytes n (bcd (2 * n - 1) v * 16 + if neg && decide (v ≠ 0) then 0xD else 0xC)

/-- The `n` bytes of an unsigned packed result. -/
def unsignedBytes (n v : Nat) : List Byte := beBytes n (bcd (2 * n) v)

/-- The `n` low decimal digits of a number, most significant first. -/
def decDigits : Nat → Nat → List Nat
  | 0, _ => []
  | n + 1, v => decDigits n (v / 10) ++ [v % 10]

/-- The `n` bytes of a zoned result. -/
def zonedBytes (n v : Nat) : List Byte := (decDigits n v).map fun d => BitVec.ofNat 8 (0x30 + d)

/-- The sign nibble of a packed field. -/
def signNibble (l : List Byte) : Nat := (nibbles l).getLastD 0

end Sys2Proof.Machine
end

