-- ==== Sys2Proof/Machine/Image.lean ====
section
/-! DEFINITION. Signed images and their verification (R603, R604, Tables 17.1 to 17.5), and an engine's load (R133, R147 to R149). -/

namespace Sys2Proof.Machine

/-- The `n` bytes that `f` gives from address `a`. -/
def bytesAt (f : Nat → Byte) (a : Nat) : Nat → List Byte
  | 0 => []
  | n + 1 => f a :: bytesAt f (a + 1) n

/-- The big-endian number of `n` bytes. -/
def beAt (f : Nat → Byte) (a n : Nat) : Nat := beNat (bytesAt f a n)

/-- The fields of an image header that matter after verification (Table 17.1). -/
structure ImageHead where
  flags : Byte
  version : Word
  rollback : Half
  length : Nat
  load : Nat
  entry : Half
  digest : List Byte
  deriving DecidableEq, Repr

/-- The image types of Table 17.1. -/
def typeWfw : Nat := 1
def typeTfw : Nat := 2
def typeLfw : Nat := 3
def typeMcode : Nat := 4

/-- The fields that Table 17.1 gives as zero for the header's own type. -/
def zeroFieldsOk (f : Nat → Byte) (a : Nat) : Bool :=
  let t := beAt f (a + 5) 1
  decide (beAt f (a + 0xE) 2 = 0) && decide (beAt f (a + 0x1C) 4 = 0) && decide (beAt f (a + 0x28) 24 = 0) &&
    decide (beAt f (a + 0x60) 32 = 0) &&
    (if t = typeMcode then decide (beAt f (a + 7) 1 < 8) && decide (beAt f (a + 0x18) 4 = 0)
     else if t = typeLfw then decide (beAt f (a + 7) 1 = 0) && decide (beAt f (a + 0x18) 2 = 0)
     else decide (beAt f (a + 7) 1 = 0) && decide (beAt f (a + 0x14) 8 = 0))

/-- The public key that an image's KEY names, when Table 17.4 allows it for type `t` and an enrolled slot is valid. -/
def imageKey (s : State) (t k : Nat) : Option (BitVec 256) :=
  if t = typeWfw ∨ t = typeTfw then
    if k = 0x80 then some (Config.keskakenKey false) else if k = 0x81 then some (Config.keskakenKey true) else none
  else if k < 4 ∧ s.tarn.keys[Fin.ofNat 4 k].state = .valid then some s.tarn.keys[Fin.ofNat 4 k].pub
  else none

/-- The length check of Table 17.2, reason 4 (Table 17.5). -/
def imageLengthOk (t len load : Nat) : Bool :=
  if t = typeWfw then decide (len ≤ 96 * 1024)
  else if t = typeTfw then decide (len ≤ 192 * 1024)
  else if t = typeLfw then decide (len ≤ 0x200000) && decide (load + len ≤ 0x200000)
  else decide (12 ≤ len) && decide (len ≤ 24576) && decide (len = 12 * load)

/-- The header at address `a`. -/
def imageHead (f : Nat → Byte) (a : Nat) : ImageHead :=
  { flags := f (a + 7), version := BitVec.ofNat 32 (beAt f (a + 8) 4), rollback := BitVec.ofNat 16 (beAt f (a + 0xC) 2),
    length := beAt f (a + 0x10) 4, load := beAt f (a + 0x14) 4, entry := BitVec.ofNat 16 (beAt f (a + 0x1A) 2),
    digest := bytesAt f (a + 0x40) 32 }

/-- Verification of an image for type `t` in the order of Table 17.2: the header, or the reason of the first failure. -/
def verifyImage (s : State) (f : Nat → Byte) (t a : Nat) : Except Nat ImageHead :=
  let h := imageHead f a
  if ¬ (bytesAt f a 5 = [0x48, 0x4C, 0x42, 0x49, 1] ∧ zeroFieldsOk f a) then .error 1
  else if beAt f (a + 5) 1 ≠ t then .error 2
  else match imageKey s t (beAt f (a + 6) 1) with
  | none => .error 3
  | some key =>
    if ¬ imageLengthOk t h.length h.load then .error 4
    else if ¬ (beAt f (a + 0x20) 8 = 0 ∨ beAt f (a + 0x20) 8 = Config.uid.toNat) then .error 5
    else if h.rollback < s.tarn.floors[Fin.ofNat 4 (t - 1)] then .error 6
    else if ¬ Config.verify key (bytesAt f a 128) (bytesAt f (a + 0x80) 64) then .error 7
    else if sha256 (bytesAt f (a + 0xC0) h.length) ≠ h.digest then .error 8
    else .ok h

/-- Whether the signature of the header at `a` verifies (R608). -/
def headerSigned (s : State) (f : Nat → Byte) (t a : Nat) : Bool :=
  match imageKey s t (beAt f (a + 6) 1) with
  | none => false
  | some key => Config.verify key (bytesAt f a 128) (bytesAt f (a + 0x80) 64)

/-- Copy `s` of engine `n`'s microcode in the image store (R606). -/
def mcodeCopy (n : Chan) (copy : Bool) : Nat := 0x01740000 + (2 * n.val + b2n copy) * 0x6200

/-- The fill word: all data bits 1 (R133). -/
def fillWord : CsWord := { data := BitVec.allOnes 96, flips := 0 }

/-- The control-store word at an address; one that is not listed holds the fill word. -/
def EngineSt.word (e : EngineSt) (w : BitVec 11) : CsWord := Sparse.get (fun _ => fillWord) e.store w.toNat

/-- The control store with a word written. -/
def EngineSt.setWord (e : EngineSt) (w : BitVec 11) (v : CsWord) : EngineSt :=
  { e with store := Sparse.set (fun _ => fillWord) e.store w.toNat v }

/-- A control store with the `count` words of 12 bytes at `a` from word 0 on, and the fill word above them (R133). -/
def loadStore (f : Nat → Byte) (a count : Nat) : List (Nat × CsWord) :=
  (List.range count).foldl (fun st i =>
    Sparse.set (fun _ => fillWord) st i { data := BitVec.ofNat 96 (beAt f (a + 12 * i) 12), flips := 0 }) []

/-- An engine that starts at word 0000h in RUN (R148, Table 4.12): microregisters with QCNT and QTIM, ACC, LOOP, latch, flags and both
banks at 0, traps unmasked. -/
def EngineSt.started (e : EngineSt) (mc : Vector Word 8) : EngineSt :=
  { e with
    runst := .run, g := Vector.replicate 48 0, loop := 0, acc := 0, latch := {}, uf := 0, upc := 0, shadow := {},
    inHandler := false, masked := false, postMortem := false, pmLeft := 0, pending := 0, stack := [], heldWord := none,
    armed := false, qcnt := 0, qtim := 0, loaded := true, checking := false, front := Vector.replicate 16 0, back := Vector.replicate 16 0, mc }

/-- Whether an 8-byte NVLA word of the `n` bytes at `a` holds an uncorrectable error (R444). -/
def State.nvBad (s : State) (a n : Nat) : Bool := s.nvla.hard.any fun w => decide (a / 8 ≤ w) && decide (w ≤ (a + n - 1) / 8)

/-- Channel `n` goes OUT with a fault code; a SEALED-OUT channel stays SEALED-OUT (R91, R101; log 13). -/
def State.chanOut (s : State) (n : Chan) (code : Byte) : State :=
  s.modChan n fun c => { c with legal := if c.legal = .sealedOut then .sealedOut else .out, fault := code }

/-- Whether every word of the control store has its check bits (R134). -/
def EngineSt.storeGood (e : EngineSt) : Bool := e.store.all fun w => decide (w.2.flips = 0)

/-- Start-up load of engine `n` (R147 to R149): with the engine HELD, the recorded copy, checked against the recorded digest, is loaded and
its check begins (R134); without one the engine stays HELD and its channel starts OUT with fault 05h. A Tarn restart loads an engine that
ran again (log 32). -/
def State.startEngine (s : State) (n : Chan) : State :=
  let e := s.eng n
  let held (s : State) (c : Bool) : State := s.modEng n fun e => { e with
    runst := .held, postMortem := false, pmLeft := 0, heldWord := none, loaded := false, checking := c }
  let a := mcodeCopy n e.copy1
  let h := imageHead (nvlByte s) a
  if e.digest = some (sha256 (bytesAt (nvlByte s) (a + 0xC0) h.length)) ∧ imageLengthOk typeMcode h.length h.load ∧ ¬ s.nvBad a (0xC0 + h.length) then
    (held s true).modEng n fun e => { e with
      store := loadStore (nvlByte s) (a + 0xC0) h.load, event := h.flags.getLsbD 0, qmode := BitVec.ofNat 2 (h.flags.toNat / 2) }
  else (held s false).chanOut n 5

/-- Every engine is loaded at a start (R147). -/
def State.startEngines (s : State) : State := s.each allChans fun s n => s.startEngine n

end Sys2Proof.Machine
end

