-- ==== Sys2Proof/Machine/EngineCore.lean ====
section
/-! DEFINITION. The channel engine beside its microwords (spec/04): TICK, micro-traps, hard faults, control-store correction and
the scrubber. -/

namespace Sys2Proof.Machine

/-- Whether engine `n` is clocked: ECLK runs and the ladder has not stopped the engine (R143, Table 18.3). -/
def State.engineClocked (s : State) : Bool := !s.power.eclkStopped && decide (s.power.entry < 4) && s.power.spll

/-- Whether an engine issues words: RUN, TRAP or WAIT. -/
def RunSt.active : RunSt → Bool
  | .run => true | .trap => true | .wait => true | _ => false

/-! ### Conditions (Table 4.4, R111, R635) -/

/-- The converter results that wait for channel `n`. -/
def State.resQueue (s : State) (n : Chan) : List Word := (s.cnv (cnvOf n)).queues[Fin.ofNat 4 n.val]

/-- Whether a condition holds. -/
def State.condHolds (s : State) (n : Chan) (c : Nat) : Bool :=
  let e := s.eng n
  let l := e.latch
  let gt := !l.z && decide (l.n = l.v)
  if 0x10 ≤ c ∧ c < 0x18 then bit e.uf (c - 0x10)
  else match c with
  | 0 => true
  | 1 => l.z | 2 => !l.z
  | 3 => l.n | 4 => !l.n
  | 5 => l.c | 6 => !l.c
  | 7 => l.v | 8 => !l.v
  | 9 => gt | 10 => !gt
  | 11 => decide (l.n = l.v) | 12 => decide (l.n ≠ l.v)
  | 13 => !(s.resQueue n).isEmpty | 14 => (s.resQueue n).isEmpty
  | 15 => e.qedge
  | 0x18 => decide (e.loop ≠ 0)
  | 0x19 => e.hostp
  | 0x1A => e.seqdone
  | 0x1B => e.tcmph
  | 0x1C => decide (e.incs.length < 8)
  | 0x1D => decide (e.wq.length < 4)
  | 0x1E => e.trige
  | _ => false

/-- Whether the engine holds a WAIT word whose COND is false: in Still its ECLK is gated then (R635). -/
def State.waitGated (s : State) (n : Chan) : Bool :=
  match (s.eng n).heldWord with
  | some w => bit w 76 && !s.condHolds n (field w 77 5)
  | none => false

/-! ### TICK (R114, R120) -/

/-- Whether TICK passes the compare value in the next `k` ec. -/
def EngineSt.passes (e : EngineSt) (k : Nat) : Bool := decide ((e.cmp - e.tick - 1).toNat < k)

/-- TICK advances by `k` ec; passing the compare value sets TCMPH. -/
def EngineSt.tickBy (e : EngineSt) (k : Nat) : EngineSt :=
  { e with tick := e.tick + BitVec.ofNat 32 k, tcmph := e.tcmph || e.passes k }

/-- The pending bit of a micro-trap vector (R122). -/
def EngineSt.pend (e : EngineSt) (v : Nat) : EngineSt := { e with pending := e.pending ||| BitVec.ofNat 8 (2 ^ v) }

/-- `k` ec pass: TICK advances, an armed timer trap becomes pending when the compare value is reached (R120), and a post-mortem uses
up its 256 ec (R125). -/
def EngineSt.elapse (e : EngineSt) (k : Nat) : EngineSt :=
  let t : EngineSt := { e.tickBy k with pmLeft := e.pmLeft - k }
  if e.passes k && e.armed then ({ t with armed := false } : EngineSt).pend 3 else t

/-! ### Micro-traps (R120 to R125) -/

/-- Trap entry at vector `v`: the shadow takes the resume address, W0 to W3 and the latch (R121). Entry takes 3 ec. -/
def EngineSt.enterTrap (e : EngineSt) (v : Nat) (resume : BitVec 11) : EngineSt :=
  let e := e.elapse 3
  { e with
    shadow := { upc := resume, w := #v[e.g[0], e.g[1], e.g[2], e.g[3]], latch := e.latch }
    inHandler := true, upc := BitVec.ofNat 11 (8 + v), runst := .trap, heldWord := none }

/-- The lowest pending vector (R122). -/
def lowestVector (p : Byte) : Option Nat := (List.range 6).find? fun v => p.getLsbD v

/-- Whether a held word lets a trap in: no word is held, or it is a WAIT word (R121). A word that waits for room or for its read is
held until it completes: DESIGN CHOICE (log 78). -/
def EngineSt.interruptible (e : EngineSt) : Bool :=
  match e.heldWord with | none => true | some w => w.getLsbD 76

/-- A pending micro-trap is taken when traps are not masked and no handler runs (R122); a held WAIT word waits again after it. -/
def EngineSt.takePending (e : EngineSt) : EngineSt :=
  if e.masked || e.inHandler || !e.runst.active || !e.interruptible then e
  else match lowestVector e.pending with
  | none => e
  | some v => ({ e with pending := e.pending &&& ~~~ BitVec.ofNat 8 (2 ^ v) } : EngineSt).enterTrap v e.upc

/-- A maskable micro-trap is raised between words (R122). -/
def State.raiseTrap (s : State) (n : Chan) (v : Nat) : State :=
  if (s.eng n).runst.active then s.modEng n fun e => (e.pend v).takePending else s

/-- RUNST after a word: TRAP in a handler, RUN otherwise. -/
def EngineSt.issuing (e : EngineSt) : EngineSt := { e with runst := if e.inHandler then .trap else .run, heldWord := none }

/-! ### Hard faults (R125, R144) -/

/-- A hard fault of engine `n` with its code (R144): CE_FINFO and FCODE, CE_EVT.FLT, and the notices to Tarn and Wellhead. The
engine stops, or with `post` enters post-mortem at vector 7 (R125). -/
def State.engineFault (s : State) (n : Chan) (code : Nat) (post : Bool) : State :=
  let e := s.eng n
  let recent := within s.us (hours 24) e.faultTimes
  let info : Word := BitVec.ofNat 32 (e.upc.toNat + code * 65536 + b2n e.inHandler * 2 ^ 24)
  let s := s.modEng n fun e =>
    let e := { e with fcode := BitVec.ofNat 8 code, finfo := info, faultTimes := s.us :: recent }
    if post then { e.enterTrap 7 e.upc with postMortem := true, pmLeft := 256 }
    else { e with runst := .fault, heldWord := none }
  let s := (s.setBits (Reg.ceEvt n.val) 4).modTarn fun t => { t with notices := t.notices ++ [.engine n (BitVec.ofNat 8 code)] }
  s.healthNotice (0x10 + n.val) .failed (!recent.isEmpty) 0x0210

/-- The end of post-mortem: the engine halts (R125). -/
def State.postMortemHalt (s : State) (n : Chan) : State :=
  s.modEng n fun e => { e with runst := .fault, postMortem := false, pmLeft := 0, heldWord := none }

/-- Whether a post-mortem has used up its 256 ec (R125). -/
def EngineSt.pmSpent (e : EngineSt) : Bool := e.postMortem && decide (e.pmLeft = 0)

/-- Micro-trap 7 (R112, R124, R125): an engine fault 03h, run in post-mortem; 04h in a handler; the end of a post-mortem. -/
def State.trapIllegal (s : State) (n : Chan) : State :=
  let e := s.eng n
  if e.postMortem then s.postMortemHalt n
  else if e.inHandler then s.engineFault n 4 false
  else s.engineFault n 3 true

/-- Micro-trap 6 (R117, R124): the raising word does not execute. -/
def State.trapStrict (s : State) (n : Chan) : State :=
  let e := s.eng n
  if e.postMortem then s.postMortemHalt n
  else if e.inHandler then s.engineFault n 4 false
  else s.modEng n fun e => e.enterTrap 6 e.upc

/-! ### Control-store correction and scrubbing (R129 to R132) -/

/-- How many stored bits of a control-store word have flipped. -/
def CsWord.errors (w : CsWord) : Nat := (List.range 104).foldl (fun n i => n + b2n (w.flips.getLsbD i)) 0

/-- A single-bit correction of word `a`: written back, counted, CE_EVT.ECC set (R129); logged at most once per minute, and WORN after
64 in 24 h or 4 of one word in 24 h (R132). -/
def State.csCorrect (s : State) (n : Chan) (a : BitVec 11) : State :=
  let w := (s.eng n).word a
  let times := (s.us, a.toNat) :: (s.eng n).corrTimes.filter fun x => s.us < x.1 + hours 24
  let corr := field (s.reg (Reg.ceEcc n.val)) 0 16
  let s := s.modEng n fun e => { e.setWord a { w with flips := 0 } with corrTimes := times }
  let s := s.setReg (Reg.ceEcc n.val) (BitVec.ofNat 32 (min 0xFFFF (corr + 1) + a.toNat * 65536))
  let s := (s.setBits (Reg.ceEvt n.val) 1).hlogLim 0x0201 sevNotice (0x10 + n.val) (minutes 1) []
  if 64 ≤ times.length ∨ 4 ≤ (times.filter fun x => x.2 = a.toNat).length then s.healthNotice (0x10 + n.val) .worn false 0x0201 else s

/-- POST_MORTEM_TIMEOUT (R125). -/
def execPostMortemTimeout (n : Chan) (s : State) : Host.Outcome State Fault Refusal :=
  if (s.eng n).postMortem then .next (s.postMortemHalt n) else .next s

/-- SCRUB_READ: the scrubber checks the next word, corrects a single-bit error and faults the engine on a double one, also in an
engine that is HELD or in post-mortem (R130); one in FAULT has failed already. More than two flipped bits count as a double error (log 78). -/
def execScrubRead (n : Chan) (s : State) : Host.Outcome State Fault Refusal :=
  let e := s.eng n
  if ¬ s.engineClocked ∨ e.runst = .load then .next s
  else
    let k := (e.word e.scrub).errors
    let s' := s.modEng n fun e => { e with scrub := e.scrub + 1 }
    if k = 0 then .next s'
    else if k = 1 then .next (s'.csCorrect n e.scrub)
    else if e.runst = .fault then .next s'
    else .next ((s'.engineFault n 2 false).modEng n fun e => { e with postMortem := false, pmLeft := 0, loaded := false })

end Sys2Proof.Machine
end

