-- ==== Sys2Proof/Machine/Wake.lean ====
section
/-! DEFINITION. The wake sources of the power ladder (R630, Table 18.4, R648). -/

namespace Sys2Proof.Machine

/-- The power state whose column of Table 18.4 applies after `e` entry steps (R648). -/
def entryDepth (e : Nat) : Nat := if e ≤ 2 then e else if e ≤ 5 then 3 else if e = 6 then 4 else 5

/-- Whether Tarn has given its consent of step 3 (R650). -/
def State.consented (s : State) : Bool := decide (3 ≤ s.power.entry)

/-- Whether Table 18.4 marks a source for a power state. -/
def wakeMarked (w : Wake) (d : Nat) : Bool :=
  match w with
  | .line => decide (1 ≤ d ∧ d ≤ 3)
  | .pfail => decide (d = 1 ∨ d = 2)
  | .req => decide (1 ≤ d ∧ d ≤ 3)
  | .openCmd => decide (2 ≤ d)
  | .waken => decide (1 ≤ d)
  | .rtc => decide (1 ≤ d)
  | .tamp => decide (1 ≤ d)
  | .trig => decide (d = 3)
  | .ts1 => decide (d = 3 ∨ d = 4)
  | .con => decide (d = 3)
  | .gp => decide (d = 3 ∨ d = 4)

/-- Whether a source is enabled: by its bit of PWR_WAKEEN, or always. -/
def State.wakeEnabled (s : State) (w : Wake) : Bool :=
  if w.bit < 8 then bit (s.reg Reg.pwrWakeen) w.bit else true

/-- A wake source occurs: the ladder records the source and the state left, and begins to return to Surface (R630, R648). -/
def State.wake (s : State) (w : Wake) : State :=
  if s.power.waking.isNone && wakeMarked w (entryDepth s.power.entry) && s.wakeEnabled w then
    (s.modPower fun p => { p with waking := some (w, p.ps) }).setReg Reg.pwrWcause
      (BitVec.ofNat 32 (2 ^ w.bit + s.power.ps * 65536))
  else s

end Sys2Proof.Machine
end

