-- ==== Sys2Proof/Machine/Converter.lean ====
section
/-! DEFINITION. The converters (spec/05): starts, sequences, urgent entries, calibration, results and faults. -/

namespace Sys2Proof.Machine

/-! ### What a converter may run -/

/-- Whether the ladder has armed the slow sequence (PS2, step 2 of Table 18.3). -/
def State.still (s : State) : Bool := decide (s.power.entry = 2)

/-- Whether the ladder has stopped the converters (R191, step 4). -/
def State.cnvStopped (s : State) : Bool := decide (4 ≤ s.power.entry) || decide (s.power.stage = .off)

/-- Whether a converter takes starts and urgent entries: READY, RUN or CAL, and clocked. -/
def State.cnvLive (s : State) (u : Cnv) : Bool :=
  match (s.cnv u).state with
  | .ready => !s.cnvStopped | .run => !s.cnvStopped | .cal => !s.cnvStopped | _ => false

/-- STATE of a converter that is not calibrating: RUN while a sequence runs. -/
def CnvSt.settle (c : CnvSt) : CnvSt :=
  match c.state with
  | .ready => if c.seq.isSome then { c with state := .run } else c
  | .run => if c.seq.isNone then { c with state := .ready } else c
  | _ => c

/-- The entries that a sequence of `len + 1` entries copies at its start (R155). -/
def State.seqEntries (s : State) (u : Cnv) (len : Nat) : List Word := (List.range (len + 1)).map fun e => s.reg (Reg.cnvSeq u.val e)

/-- A sequence begins: it copies its entries and counts (R155, R174). -/
def State.beginSeq (s : State) (u : Cnv) (kind : StartKind) (len : Nat) : State :=
  let es := s.seqEntries u len
  s.modCnv u fun c => { c with seq := some { kind, entries := es, pos := 0, aborts := 0 }, seqn := c.seqn + 1 }

/-- CNV_CTRL.LEN. -/
def State.cnvLen (s : State) (u : Cnv) : Nat := field (s.reg (Reg.cnvCtrl u.val)) 0 4

/-- CALFULL begins (R164). -/
def State.calBegin (s : State) (u : Cnv) : State :=
  s.modCnv u fun c => { c with state := .cal, calHeld := false, calStep := 0, calConv := 0, calRestarts := 0, bgConv := 0,
                               work := some (.calStep, false) }

/-- A refused CALFULL sets STAT.CMDREF (R164). -/
def State.cmdRef (s : State) (u : Cnv) : State := s.setBits (Reg.cnvStat u.val) 0x20

/-- What an entry takes as it begins sampling: CNV_TDAC and the factors of its gain (R155, R169). -/
def State.entryCap (s : State) (u : Cnv) (e : Word) : EntryCap :=
  let g := field e 4 3
  { tdac := s.reg (Reg.cnvTdac u.val), caloff := s.reg (Reg.cnvCaloff u.val g), calgain := s.reg (Reg.cnvCalgain u.val g)
    loff := s.reg (Reg.cnvLoff u.val g), lgain := s.reg (Reg.cnvLgain u.val g) }

/-- The converter begins to sample an entry. -/
def State.takeEntry (s : State) (u : Cnv) (w : CnvWork) (e : Word) : State :=
  let cap := s.entryCap u e
  s.modCnv u fun c => ({ c with work := some (w, false), cap } : CnvSt).settle

/-- A guarded attempt of a calibration step (R165). -/
def CnvSt.guarded (c : CnvSt) : Bool := decide (c.state = .cal) && decide (3 ≤ c.calRestarts)

/-- An idle converter takes up its next work: a guarded calibration step, the oldest urgent entry, the calibration step, the running
sequence's entry, a waiting CALFULL, the pending start, which in Still waits for the slow sequence or the wake (R160, R164, R165, R181 to
R183, R191). -/
def State.cnvNext (s : State) (u : Cnv) : State :=
  let c := s.cnv u
  if c.work.isSome ∨ ¬ s.cnvLive u then s
  else if c.guarded then s.modCnv u fun c => { c with work := some (.calStep, false) }
  else match c.urgents with
  | e :: rest =>
    let w := s.reg (Reg.cnvSeq u.val e)
    (s.modCnv u fun c => { c with urgents := rest }).takeEntry u (.urgent w e) w
  | [] =>
    if c.state = .cal then s.modCnv u fun c => { c with work := some (.calStep, false) }
    else match c.seq with
    | some q => s.takeEntry u (.seqEntry (q.entries.getD q.pos 0) q.pos q.aborts) (q.entries.getD q.pos 0)
    | none =>
      if c.calHeld then
        if s.groupInSession u then (s.modCnv u fun c => { c with calHeld := false }).cmdRef u
        else s.calBegin u
      else match c.pendingStart with
      | none => s.modCnv u CnvSt.settle
      | some k =>
        if s.still then s.modCnv u CnvSt.settle
        else
          let e := (s.seqEntries u (s.cnvLen u)).getD 0 0
          ((s.beginSeq u k (s.cnvLen u)).modCnv u fun c => { c with pendingStart := none }).takeEntry u (.seqEntry e 0 0) e

/-! ### Starts (R116, R156, R157) -/

/-- A start that finds a pending one already held is dropped and sets SMISS (R157). -/
def State.startMiss (s : State) (u : Cnv) : State := s.setBits (Reg.cnvStat u.val) 0x10

/-- The start becomes the pending start, or is dropped (R157). -/
def State.holdStart (s : State) (u : Cnv) (k : StartKind) : State :=
  if (s.cnv u).pendingStart.isSome then s.startMiss u else s.modCnv u fun c => { c with pendingStart := some k }

/-- The engines of a start. -/
def StartKind.engines? : StartKind → Option (List Chan)
  | .engines l => some l
  | _ => none

/-- Whether CNV_CTRL enables a kind of start (R156). -/
def State.startEnabled (s : State) (u : Cnv) (k : StartKind) : Bool :=
  match k with
  | .soft => bit (s.reg (Reg.cnvCtrl u.val)) 4
  | .engines _ => bit (s.reg (Reg.cnvCtrl u.val)) 7
  | _ => true

/-- Whether an urgent entry runs or waits. -/
def CnvSt.urgentBusy (c : CnvSt) : Bool :=
  !c.urgents.isEmpty || (match c.work with | some (.urgent _ _, _) => true | _ => false)

/-- A start reaches a converter (R116, R156, R157). A start that finds an urgent entry, a calibration or a waiting CALFULL before it
becomes the pending start. In Still, software and TRIG starts are dropped, and a CNVREQ joins the next slow sequence (R635). -/
def State.cnvStart (s : State) (u : Cnv) (k : StartKind) : State :=
  let c := s.cnv u
  if ¬ s.cnvLive u ∨ ¬ s.startEnabled u k then s
  else if s.still then
    match k with
    | .engines l =>
      if c.seq.isSome then
        let old := match c.pendingStart with | some (.engines o) => o | _ => []
        s.modCnv u fun c => { c with pendingStart := some (.engines (old ++ l)) }
      else s
    | _ => s
  else match c.seq with
  | some q =>
    match q.kind, k with
    | .engines a, .engines b => s.modCnv u fun c => { c with seq := some { q with kind := .engines (a ++ b) } }
    | _, _ => s.holdStart u k
  | none =>
    if c.state = .cal ∨ c.calHeld ∨ c.urgentBusy then s.holdStart u k
    else
      let s := s.beginSeq u k (s.cnvLen u)
      (s.modCnv u fun c => ({ c with work := match c.work with | some (.background, _) => none | w => w } : CnvSt).settle).cnvNext u

/-- The commit of CALFULL (R164, R183, R188): refused in session, in PERMFAULT, and in FAULT once it has been used; a running
sequence ends first. -/
def State.calFull (s : State) (u : Cnv) : State :=
  let c := s.cnv u
  if s.groupInSession u ∨ s.cnvStopped ∨ s.power.refFault then s.cmdRef u
  else match c.state with
  | .off => s.cmdRef u
  | .permFault => s.cmdRef u
  | .cal => s.cmdRef u
  | .fault => if c.recalUsed then s.cmdRef u else (s.modCnv u fun c => { c with recalUsed := true }).calBegin u
  | _ =>
    if c.calHeld then s.cmdRef u
    else
      let s := s.modCnv u fun c => { c with calHeld := true, work := match c.work with | some (.background, _) => none | w => w }
      s.cnvNext u

/-! ### Urgent entries (R159 to R165) -/

/-- A calibration step restarts from its first conversion (R165): CALREP, and event 0313h at most once per minute. -/
def State.calRestart (s : State) (u : Cnv) : State :=
  let s := s.modCnv u fun c => { c with work := none, calConv := 0, calRestarts := c.calRestarts + 1 }
  (s.setBits (Reg.cnvEvt u.val) 0x40).hlogLim 0x0313 sevNotice (0x20 + u.val) (minutes 1) []

/-- An urgent entry reaches the converter (R160 to R162, R165): a fifth waiting one is dropped; a sequence entry aborted fewer than
twice, a background conversion or an unguarded calibration step is aborted. -/
def State.urgent (s : State) (u : Cnv) (entry : Nat) : State :=
  let c := s.cnv u
  if ¬ s.cnvLive u then s
  else if 4 ≤ c.urgents.length then
    ((s.setBits (Reg.cnvStat u.val) 8).setBits (Reg.cnvEvt u.val) 0x10).hlogLim 0x0310 sevNotice (0x20 + u.val) (seconds 1) []
  else
    let s := s.modCnv u fun c => { c with urgents := c.urgents ++ [entry] }
    match c.work with
    | some (.seqEntry _ _ k, _) =>
      if k < 2 then
        (s.modCnv u fun c => { c with work := none, seq := c.seq.map fun q => { q with aborts := q.aborts + 1 } }).cnvNext u
      else s
    | some (.background, _) => (s.modCnv u fun c => { c with work := none }).cnvNext u
    | some (.calStep, _) => if c.calRestarts < 3 then (s.calRestart u).cnvNext u else s
    | some (.urgent _ _, _) => s
    | none => s.cnvNext u

/-- Whether a difference at an input, in units of VREF / 65536, reaches the surge threshold: the input is CNV_SURGE.SRC and its amount at
least THR / 256 of VREF (R163). -/
def State.surgeReached (s : State) (u : Cnv) (input : Fin 8) (diff : Int) : Bool :=
  let r := s.reg (Reg.cnvSurge u.val)
  decide (field r 0 3 = input.val) && decide (field r 4 8 * 256 ≤ diff.natAbs)

/-- The threshold is crossed (R163, R184): CNV_EVT.SURGE and CNV_SURGE.ENTRY as an urgent entry, then HOLD; ignored while the comparator is
disabled, during HOLD, and where the ladder has switched the converter off (R191). -/
def State.surgeFire (s : State) (u : Cnv) : State :=
  let r := s.reg (Reg.cnvSurge u.val)
  if ¬ bit r 3 ∨ (s.cnv u).surgeHold ∨ s.cnvStopped then s
  else ((s.setBits (Reg.cnvEvt u.val) 0x20).modCnv u fun c => { c with surgeHold := true }).urgent u (field r 12 4)

/-! ### Faults (R186 to R189) -/

/-- A converter fault with its cause (R187): a second within 24 h is PERMFAULT (R189). A converter that already has a fault keeps it
(log 16). -/
def State.cnvFault (s : State) (u : Cnv) (cause : Nat) : State :=
  let c := s.cnv u
  if c.faulty then s
  else
    let recent := within s.us (hours 24) c.faultTimes
    let perm := !recent.isEmpty
    let s := s.modCnv u fun c => { c with
      state := if perm then .permFault else .fault, fcause := cause, faultTimes := s.us :: recent, recalUsed := false,
      work := none, seq := none, pendingStart := none, urgents := [], calHeld := false, bgConv := 0,
      queues := Vector.replicate 4 [] }
    let s := (s.setBits (Reg.cnvEvt u.val) 8).modTarn fun t => { t with notices := t.notices ++ [.converter u perm] }
    s.healthNotice (0x20 + u.val) .failed perm (0x0300 + cause)

/-! ### Calibration (R164, R166, R167, R188) -/

/-- Whether a calibration's factors lie within the limits of R166: offsets at even places, gains at odd ones. -/
def factorsOk (f : List Word) : Bool :=
  (List.range 6).all fun g =>
    let o := (f.getD (2 * g) 0x80000000).toInt
    let k := (f.getD (2 * g + 1) 0).toNat
    decide (-0x100000 ≤ o ∧ o ≤ 0x100000) && decide (0x3CCCCCCD ≤ k ∧ k ≤ 0x43333333)

/-- The end of a calibration: the factors are checked and replaced together, or the converter faults with CALRANGE (R164, R166). A
success after a fault makes the converter WORN (R188), also when the FAILED notice is still under way. -/
def State.calEnd (s : State) (u : Cnv) (f : List Word) : State :=
  if factorsOk f then
    let s := s.each (List.range 6) fun s g =>
      (s.setReg (Reg.cnvCaloff u.val g) (f.getD (2 * g) 0)).setReg (Reg.cnvCalgain u.val g) (f.getD (2 * g + 1) 0)
    let wasFailed := s.failedNow (0x20 + u.val)
    let cause := (s.cnv u).fcause
    let s := s.modCnv u fun c => { c with
      state := if c.state = .cal then .ready else c.state, calDone := c.calDone + 1, bgConv := 0, calStep := 0,
      calConv := 0, calRestarts := 0, work := none }
    let s := (s.setBits (Reg.cnvEvt u.val) 2).cnvNext u
    if wasFailed then s.healthRecover (0x20 + u.val) (0x0300 + cause) else s
  else (s.modCnv u fun c => { c with work := none }).cnvFault u 2

/-! ### Results (R168, R174 to R176) -/

/-- The rails of a raw result. -/
def atRail (r : Int) : Bool := decide (r = 131071 ∨ r = -131072)

/-- The corrected value and CLIP of a raw result (R168), computed without intermediate rounding. `loff` and `lgain` apply to
sources 0h to Bh. -/
def correct (r : Int) (caloff calgain loff lgain : Word) (legal : Bool) : Int × Bool :=
  let n := (r * 256 - caloff.toInt) * calgain.toNat
  let (n, d) : Int × Int := if legal then ((n - loff.toInt * 2 ^ 30) * lgain.toNat, 2 ^ 60) else (n, 2 ^ 30)
  let v := (n + 128 * d) / (256 * d)
  if 131071 < v then (131071, true)
  else if v < -131072 then (-131072, true)
  else if atRail r then (r, true)
  else (v, false)

/-- The result word of Table 5.5. -/
def resultWord (v : Int) (entry : Nat) (urg clip : Bool) (seqn : Byte) : Word :=
  ((BitVec.ofInt 18 v).setWidth 32 <<< 14) ||| BitVec.ofNat 32 (entry * 1024 + b2n urg * 512 + b2n clip * 256 + seqn.toNat)

/-- The result of entry word `e` for a raw value (R168, R174), with the factors that the entry took (R169); CNV_XRAW passes it unchanged
(R179). -/
def State.resultOf (s : State) (u : Cnv) (e : Word) (entry : Nat) (urg : Bool) (raw : BitVec 18) : Word :=
  let r := raw.toInt
  let x := (s.cnv u).cap
  let (v, clip) :=
    if bit (s.reg (Reg.cnvXraw u.val)) 0 then (r, false)
    else correct r x.caloff x.calgain x.loff x.lgain (decide (field e 0 4 < 12))
  resultWord v entry urg clip (s.cnv u).seqn

/-- The channel that an entry serves (R150). -/
def entryChan (u : Cnv) (e : Word) : Chan := Fin.ofNat 8 (4 * u.val + field e 16 2)

/-- A result enters its destination (R175, R176). -/
def State.deliver (s : State) (u : Cnv) (e : Word) (w : Word) : State :=
  let k : Fin 4 := Fin.ofNat 4 (field e 16 2)
  let n := entryChan u e
  match field e 18 2 with
  | 0 =>
    if ¬ (s.eng n).runst.active then s
    else if 16 ≤ ((s.cnv u).queues[k]).length then
      let s := (s.setBits (Reg.cnvStat u.val) (BitVec.ofNat 32 (2 ^ (12 + k.val)))).setBits (Reg.cnvEvt u.val) 4
      (s.raiseTrap n 1).hlogLim 0x0311 sevNotice (0x70 + n.val) (seconds 1) []
    else s.modCnv u fun c => { c with queues := c.queues.set k (c.queues[k] ++ [w]) }
  | 1 =>
    let q := s.reg (Reg.cnvDiagseq u.val)
    (s.setReg (Reg.cnvDiagr u.val) w).setReg (Reg.cnvDiagseq u.val) (BitVec.ofNat 32 ((q.toNat + 1) % 65536))
  | _ => s

/-- The engines for which the end of a sequence makes SEQDONE true (Table 4.4, R158): those of the group, but in Still not those that
joined the next slow sequence (R635). -/
def State.seqDoneFor (s : State) (u : Cnv) : List Chan :=
  let later := if s.still then ((s.cnv u).pendingStart.bind StartKind.engines?).getD [] else []
  (groupOf u).filter fun n => !later.contains n

/-- A sequence ends (R158). -/
def State.seqEnd (s : State) (u : Cnv) : State :=
  let s := s.each (s.seqDoneFor u) fun s n => s.modEng n fun e => { e with seqdone := true }
  (s.setBits (Reg.cnvEvt u.val) 1).modCnv u fun c => { c with seq := none }.settle

/-! ### The commands -/

/-- TRIG_EDGE: the engines' TRIGE, the starts that TEDGE and T0EN or T1EN choose after their delay, and the wake of Table 18.4. -/
def execTrigEdge (t : Fin 2) (rising : Bool) (s : State) : Host.Outcome State Fault Refusal :=
  let chosen (u : Cnv) : Bool :=
    match field (s.reg (Reg.cnvCtrl u.val)) 8 2 with
    | 0 => rising | 1 => !rising | 2 => true | _ => false
  let s1 := s.modSide fun x => { x with trig := x.trig.set t rising }
  let s2 := s1.each allChans fun s n => s.modEng n fun e => { e with trige := true }
  let s3 := s2.each allCnvs fun s u =>
    if chosen u && bit (s.reg (Reg.cnvCtrl u.val)) (5 + t.val) && s.cnvLive u then s.modCnv u fun c => { c with trigDelay := true } else s
  .next (if allCnvs.any chosen then s3.wake .trig else s3)

/-- TRIG_DELAY_END: the delay of CNV_TRIG.DLY ends and the start reaches the converter (R156). -/
def execTrigDelayEnd (u : Cnv) (s : State) : Host.Outcome State Fault Refusal :=
  if (s.cnv u).trigDelay then .next ((s.modCnv u fun c => { c with trigDelay := false }).cnvStart u .trig) else .next s

/-- SAMPLING_END (R152). -/
def execSamplingEnd (u : Cnv) (s : State) : Host.Outcome State Fault Refusal :=
  .next (s.modCnv u fun c => { c with work := c.work.map fun w => (w.1, true) })

/-- CONVERSION_DONE (R152, R158): the result enters its destination; the sequence goes on or ends; the converter takes up its next
work. -/
def execConversionDone (u : Cnv) (raw : BitVec 18) (s : State) : Host.Outcome State Fault Refusal :=
  if ¬ s.cnvLive u then .next s
  else match (s.cnv u).work with
  | some (.seqEntry e k _, true) =>
    let s := (s.deliver u e (s.resultOf u e k false raw)).modCnv u fun c => { c with
      work := none, seq := c.seq.map fun q => { q with pos := q.pos + 1, aborts := 0 } }
    let last := match (s.cnv u).seq with | some q => decide (q.entries.length ≤ q.pos) | none => true
    .next ((if last then s.seqEnd u else s).cnvNext u)
  | some (.urgent e k, true) =>
    .next (((s.deliver u e (s.resultOf u e k true raw)).modCnv u fun c => { c with work := none }).cnvNext u)
  | _ => .next s

/-- URGENT_ARRIVAL (R159, R160); an engine of another group raises nothing. -/
def execUrgentArrival (u : Cnv) (src : UrgentSource) (s : State) : Host.Outcome State Fault Refusal :=
  match src with
  | .surge => .next (s.urgent u (field (s.reg (Reg.cnvSurge u.val)) 12 4))
  | .tarn e => .next (s.urgent u e.val)
  | .engine n e => if cnvOf n = u then .next (s.urgent u e.val) else .next s

/-- SURGE_CROSSING: the difference V(P) - V(N) at an input rises to `diff` (R163, R184). -/
def execSurgeCrossing (x : SurgeInput) (s : State) : Host.Outcome State Fault Refusal :=
  .next (if s.surgeReached x.cnv x.input x.diff then s.surgeFire x.cnv else s)

/-- SURGE_HOLD_END (R163). -/
def execSurgeHoldEnd (u : Cnv) (s : State) : Host.Outcome State Fault Refusal :=
  .next (s.modCnv u fun c => { c with surgeHold := false })

/-- CAL_CONVERSION_DONE (R164, R167): the conversion counts; after 128 the step is done, after 16 steps, or 2048 background
conversions, the calibration ends with the factors measured. -/
def execCalConversionDone (u : Cnv) (factors : List Word) (s : State) : Host.Outcome State Fault Refusal :=
  let c := s.cnv u
  if ¬ s.cnvLive u then .next s
  else match c.work with
  | some (.calStep, _) =>
    if c.calConv + 1 < 128 then .next ((s.modCnv u fun c => { c with work := none, calConv := c.calConv + 1 }).cnvNext u)
    else if c.calStep + 1 < 16 then
      .next ((s.modCnv u fun c => { c with work := none, calConv := 0, calRestarts := 0, calStep := c.calStep + 1 }).cnvNext u)
    else .next (s.calEnd u factors)
  | some (.background, _) =>
    if c.bgConv + 1 < 2048 then .next ((s.modCnv u fun c => { c with work := none, bgConv := c.bgConv + 1 }).cnvNext u)
    else .next (s.calEnd u factors)
  | _ => .next s

/-- BGCAL_CONVERSION_START (R167): with BGCAL set and nothing waiting. -/
def execBgcalConversionStart (u : Cnv) (s : State) : Host.Outcome State Fault Refusal :=
  let c := s.cnv u
  if bit (s.reg (Reg.cnvCtrl u.val)) 10 && s.cnvLive u && decide (c.state = .ready) && c.work.isNone && c.seq.isNone &&
      c.pendingStart.isNone && c.urgents.isEmpty && !c.calHeld then
    .next (s.modCnv u fun c => { c with work := some (.background, false) })
  else .next s

/-- CONVERSION_WATCHDOG: a conversion not finished 64 cc after its sampling ended (R186). -/
def execConversionWatchdog (u : Cnv) (s : State) : Host.Outcome State Fault Refusal :=
  match (s.cnv u).work with
  | some (_, true) => .next (s.cnvFault u 1)
  | _ => .next s

/-- REFERENCE_FAULT: both converters fault (R186). -/
def execReferenceFault (s : State) : Host.Outcome State Fault Refusal :=
  .next (s.each (allCnvs.filter fun u => decide ((s.cnv u).state ≠ .off)) fun s u => s.cnvFault u 3)

/-- SLOW_SEQUENCE_TIMER: in Still the converter runs the sequence that CNV_SLOW names (R191). -/
def execSlowSequenceTimer (u : Cnv) (s : State) : Host.Outcome State Fault Refusal :=
  let r := s.reg (Reg.cnvSlow u.val)
  let c := s.cnv u
  if s.still && s.cnvLive u && decide (field r 16 16 ≠ 0) && c.seq.isNone && decide (c.state ≠ .cal) then
    let s := (s.modCnv u fun c => { c with
      pendingStart := match c.pendingStart with | some (.engines _) => none | k => k
      work := match c.work with | some (.background, _) => none | w => w }).beginSeq u .slow (field r 0 4)
    .next ((s.modCnv u CnvSt.settle).cnvNext u)
  else .next s

end Sys2Proof.Machine
end

