-- ==== Sys2Proof/Machine/Flash.lean ====
section
/-! DEFINITION. The QSPI flash as image store: slots, directory and the pick of a slot (R605, R607, R609 to R613). -/

namespace Sys2Proof.Machine

/-- A byte of the flash; FFh where the flash does not answer, so that no image verifies there. -/
def flashByte (s : State) (a : Nat) : Byte := if qspiBad s a then 0xFF else s.byte a

/-- The flash slots of an image type (Table 17.3). -/
def imgAddr (type : Nat) (b : Bool) : Nat :=
  if type = typeWfw then (if b then 0x05030000 else 0x05010000)
  else if type = typeTfw then (if b then 0x05090000 else 0x05050000)
  else (if b then 0x05600000 else 0x05200000)

/-- The bytes of a slot of a type (Table 17.3). -/
def slotSize (type : Nat) : Nat := if type = typeWfw then 0x20000 else if type = typeTfw then 0x40000 else 0x400000

/-- The microcode source area of engine `n` (Table 17.3). -/
def mcodeSource (n : Nat) : Nat := 0x050D0000 + n * 0x8000

/-- An entry of the directory (R609): the active slot (true B), STATE 0 CONFIRMED, 1 TRIAL, 2 REVERTED, and TRIES. -/
structure DirEntry where
  active : Bool := false
  state : Nat := 0
  tries : Nat := 0
  deriving DecidableEq, Repr

/-- A directory: GEN and the entries of WFW, TFW and LFW. With no valid copy every type is ACTIVE A, CONFIRMED (R609). -/
structure Directory where
  gen : Nat := 0
  entries : Vector DirEntry 3 := Vector.replicate 3 {}
  deriving DecidableEq, Repr

/-- The address of a directory copy. -/
def dirAddr (copy : Bool) : Nat := if copy then 0x05001000 else 0x05000000

/-- A valid directory copy (R609). -/
def readCopy (s : State) (copy : Bool) : Option Directory :=
  let f := flashByte s
  let a := dirAddr copy
  if bytesAt f a 4 = [0x48, 0x4C, 0x42, 0x44] ∧ beAt f (a + 0x1C) 4 = (crc32 (bytesAt f a 28)).toNat then
    some { gen := beAt f (a + 4) 4
           entries := Vector.ofFn fun t =>
             { active := decide (f (a + 8 + 4 * t.val) = 1), state := (f (a + 9 + 4 * t.val)).toNat
               tries := (f (a + 10 + 4 * t.val)).toNat } }
  else none

/-- The copy that decides, with its directory (R609). -/
def deciding (s : State) : Option (Bool × Directory) :=
  match readCopy s false, readCopy s true with
  | none, none => none
  | some d, none => some (false, d)
  | none, some d => some (true, d)
  | some d, some e => if d.gen < e.gen then some (true, e) else some (false, d)

/-- The directory in effect. -/
def State.directory (s : State) : Directory := ((deciding s).map fun x => x.2).getD {}

/-- The 32 bytes of a directory copy (R609). -/
def dirBytes (d : Directory) : List Byte :=
  let b := [0x48, 0x4C, 0x42, 0x44] ++ beBytes 4 d.gen ++
    (d.entries.toList.flatMap fun e => [BitVec.ofNat 8 (b2n e.active), BitVec.ofNat 8 e.state, BitVec.ofNat 8 e.tries, 0]) ++
    List.replicate 8 0
  b ++ beBytes 4 (crc32 b).toNat

/-- Wellhead writes the copy that does not decide, with GEN one more (R610). With no valid copy it writes copy 0. -/
def State.writeDirectory (s : State) (f : Vector DirEntry 3 → Vector DirEntry 3) : State :=
  let old := s.directory
  let copy := ((deciding s).map fun x => !x.1).getD false
  s.setBytes (dirAddr copy) (dirBytes { gen := old.gen + 1, entries := f old.entries })

/-- Whether a flash address lies in a slot that the directory names active for its type (R607). -/
def State.inActiveSlot (s : State) (a : Nat) : Bool :=
  [0, 1, 2].any fun t =>
    let base := imgAddr (t + 1) (s.directory.entries[Fin.ofNat 3 t]).active
    decide (base ≤ a ∧ a < base + slotSize (t + 1))

/-- What Spring leaves to be logged of its pick of a slot (R611): event and data. -/
abbrev SpringNote := Nat × List Byte

/-- Spring's pick of a slot (R611), with the records that it leaves for Wellhead. -/
def State.pickSlot (s : State) (type : Nat) : Option Bool × List SpringNote :=
  let e := s.directory.entries[Fin.ofNat 3 (type - 1)]
  let skip := decide (e.state = 1 ∧ 3 ≤ e.tries)
  let first := if skip then !e.active else e.active
  let moved : List SpringNote := if skip then [(0x0A02, [BitVec.ofNat 8 type, BitVec.ofNat 8 (b2n first)])] else []
  match verifyImage s (flashByte s) type (imgAddr type first) with
  | .ok _ => (some first, moved)
  | .error r =>
    let notes := moved ++ [(0x0A01, [BitVec.ofNat 8 type, BitVec.ofNat 8 (b2n first), BitVec.ofNat 8 r]),
      (0x0A02, [BitVec.ofNat 8 type, BitVec.ofNat 8 (b2n !first)])]
    match verifyImage s (flashByte s) type (imgAddr type !first) with
    | .ok _ => (some !first, notes)
    | .error q => (none, notes ++ [(0x0A01, [BitVec.ofNat 8 type, BitVec.ofNat 8 (b2n !first), BitVec.ofNat 8 q]),
        (0x0A03, [BitVec.ofNat 8 type])])

end Sys2Proof.Machine
end

