-- ==== Sys2Proof/Machine/Wire.lean ====
section
/-! DEFINITION. What a Usdar lane carries (R451 to R453, R464): symbols and their 8b/10b codes, ordered sets, and a frame with its header, its
CRC and its delimiters. The codes and the running disparity are those of the published 8b/10b code: PRESUMED (log 10). -/

namespace Sys2Proof.Machine

/-! ### Symbols and codes (R452, Table 13.1) -/

/-- A symbol of Table 13.1: a data byte, K28.5, K28.0, K27.7, K29.7 or K30.7. -/
inductive Sym where
  | data (b : Byte) | comma | pad | sof | eof | ebf
  deriving DecidableEq, Repr

/-- How many bits of a code are 1. -/
def ones {n : Nat} (v : BitVec n) : Nat := ((List.range n).filter fun i => v.getLsbD i).length

/-- The six bits a to i of the codes of D0 to D31, sent with a negative running disparity. -/
def sixBits : List (BitVec 6) :=
  [0b100111, 0b011101, 0b101101, 0b110001, 0b110101, 0b101001, 0b011001, 0b111000, 0b111001, 0b100101, 0b010101, 0b110100, 0b001101,
   0b101100, 0b011100, 0b010111] ++
  [0b011011, 0b100011, 0b010011, 0b110010, 0b001011, 0b101010, 0b011010, 0b111010, 0b110011, 0b100110, 0b010110, 0b110110, 0b001110,
   0b101110, 0b011110, 0b101011]

/-- The four bits f to j of .0 to .7, sent with a negative running disparity. -/
def fourBits : List (BitVec 4) := [0b1011, 0b1001, 0b0101, 0b1100, 0b1101, 0b1010, 0b0110, 0b1110]

/-- A part of a code as it is sent with a positive running disparity (`plus`): turned round where it is not balanced, or is one of the
balanced parts that have two forms. -/
def sentPart {n : Nat} (plus twoForms : Bool) (v : BitVec n) : BitVec n := if plus && (decide (2 * ones v ≠ n) || twoForms) then ~~~v else v

/-- The running disparity after a part. -/
def afterPart {n : Nat} (plus : Bool) (v : BitVec n) : Bool := if 2 * ones v = n then plus else decide (n < 2 * ones v)

/-- The code of a data byte, from a running disparity. -/
def dataCode (plus : Bool) (b : Byte) : BitVec 10 :=
  let x := field b 0 5
  let y := field b 5 3
  let six := sentPart plus (decide (x = 7)) (sixBits.getD x 0)
  let mid := afterPart plus six
  let alt : Bool := decide (y = 7) && (if mid then decide (x = 11 ∨ x = 13 ∨ x = 14) else decide (x = 17 ∨ x = 18 ∨ x = 20))
  six ++ sentPart mid (decide (y = 3)) (if alt then 0b0111 else fourBits.getD y 0)

/-- The code of a control symbol, from a running disparity. -/
def ctlCode (plus : Bool) (v : BitVec 10) : BitVec 10 := if plus then ~~~v else v

/-- The code of a symbol. -/
def Sym.code (plus : Bool) : Sym → BitVec 10
  | .data b => dataCode plus b
  | .comma => ctlCode plus 0b0011111010
  | .pad => ctlCode plus 0b0011110100
  | .sof => ctlCode plus 0b1101101000
  | .eof => ctlCode plus 0b1011101000
  | .ebf => ctlCode plus 0b0111101000

/-- The codes of symbols in order, with the running disparity after them. -/
def sendCodes (plus : Bool) (l : List Sym) : List (BitVec 10) × Bool :=
  l.foldl (fun r x => let v := x.code r.2; (r.1 ++ [v], afterPart r.2 v)) ([], plus)

/-- The symbols that the port uses. -/
def allSyms : List Sym := [.comma, .pad, .sof, .eof, .ebf] ++ (List.range 256).map fun i => .data (BitVec.ofNat 8 i)

/-- The symbol that a code is, with the running disparity of the receiver; none is a code violation: another control symbol, an invalid code
or a running-disparity error (R452). -/
def symOf (plus : Bool) (v : BitVec 10) : Option Sym := allSyms.find? fun x => decide (x.code plus = v)

/-- The symbols of received codes, with the running disparity after them, which follows the codes as they came. -/
def readCodes (plus : Bool) (l : List (BitVec 10)) : List (Option Sym) × Bool :=
  l.foldl (fun r v => (r.1 ++ [symOf r.2 v], afterPart r.2 v)) ([], plus)

/-! ### Ordered sets (Table 13.1) -/

def setTs1 : List Sym := [.comma, .data 0x4A, .data 0x4A, .data 0x4A]
def setTs2 : List Sym := [.comma, .data 0x45, .data 0x45, .data 0x45]
def setIdl : List Sym := [.comma, .data 0xB5]
def setSkp : List Sym := [.comma, .pad, .pad]

/-! ### Frames (R464, Table 13.4) -/

/-- The 8-byte header of a frame, byte 0 first (Table 13.4). -/
def headerBytes (f : Frame) : List Byte :=
  beBytes 8 (f.type.toNat * 2 ^ 60 + f.tc.toNat * 2 ^ 58 + f.seq.toNat * 2 ^ 46 + f.ack.toNat * 2 ^ 34 + f.len.toNat * 2 ^ 25 +
    f.dst.toNat * 2 ^ 13 + f.src.toNat * 2 + b2n f.hld)

/-- The bytes between SOF and EOF: header, payload and the IEEE 802.3 check sequence over both, low byte first as that standard sends it. -/
def frameBytes (f : Frame) : List Byte :=
  let body := headerBytes f ++ f.payload
  body ++ leBytes 4 (crc32 body).toNat

/-- The symbols of a frame. -/
def frameSyms (f : Frame) : List Sym := .sof :: (frameBytes f).map .data ++ [.eof]

/-- The frame that a header of 64 bits and a payload make. -/
def frameOfHeader (h : BitVec 64) (payload : List Byte) : Frame :=
  { type := BitVec.ofNat 4 (field h 60 4), tc := BitVec.ofNat 2 (field h 58 2), seq := BitVec.ofNat 12 (field h 46 12),
    ack := BitVec.ofNat 12 (field h 34 12), len := BitVec.ofNat 9 (field h 25 9), dst := BitVec.ofNat 12 (field h 13 12),
    src := BitVec.ofNat 12 (field h 1 12), hld := h.getLsbD 0, payload }

/-- The bytes of data symbols; none where another stands among them. -/
def dataBytes : List (Option Sym) → Option (List Byte)
  | [] => some []
  | some (.data b) :: t => (dataBytes t).map fun l => b :: l
  | _ :: _ => none

/-- The frame that received symbols are: SOF, at least a header and a CRC that is right, EOF. None is a frame that fails R466, step 1. -/
def readFrame (l : List (Option Sym)) : Option Frame :=
  match l with
  | some .sof :: t =>
    if t.getLast? = some (some .eof) then
      match dataBytes t.dropLast with
      | some b =>
        let body := b.take (b.length - 4)
        if 12 ≤ b.length ∧ b.drop (b.length - 4) = leBytes 4 (crc32 body).toNat then
          some (frameOfHeader (BitVec.ofNat 64 (beNat (body.take 8))) (body.drop 8))
        else none
      | none => none
    else none
  | _ => none

/-! ### The lane of a port (R453, R456) -/

/-- A transmitter puts symbols on the lane: an SKP comes first where 1300 symbols would pass without one (R453). -/
def PortSt.transmit (x : PortSt) (l : List Sym) : PortSt :=
  let due := decide (1300 < x.sinceSkp + l.length + setSkp.length)
  let out := sendCodes x.txPlus (if due then setSkp ++ l else l)
  { x with wire := out.1, txPlus := out.2, sinceSkp := if due then l.length else x.sinceSkp + l.length }

/-- The transmitter is in electrical idle. -/
def PortSt.silent (x : PortSt) : PortSt := { x with wire := [], txPlus := false, sinceSkp := 0 }

/-- The receiver takes symbols that are free of violations. -/
def PortSt.heard (x : PortSt) (l : List Sym) : PortSt :=
  { x with rxPlus := (sendCodes x.rxPlus l).2, rxCount := x.rxCount + l.length }

/-- The receiver takes codes; it keeps where the violations of the last 1024 symbols were (R456). -/
def PortSt.heardCodes (x : PortSt) (l : List (BitVec 10)) : PortSt :=
  let r := readCodes x.rxPlus l
  let bad := (r.1.zipIdx x.rxCount).filterMap fun e => if e.1.isNone then some e.2 else none
  let n := x.rxCount + l.length
  { x with rxPlus := r.2, rxCount := n, rxBad := (x.rxBad ++ bad).filter fun i => decide (n ≤ i + 1024) }

/-- Whether 16 code violations have come within 1024 symbols (R456). -/
def PortSt.signalLost (x : PortSt) : Bool := decide (16 ≤ x.rxBad.length)

end Sys2Proof.Machine
end

