-- ==== Sys2Proof/Machine/LinkFlow.lean ====
section
/-! DEFINITION. Frames and the flow control of a Usdar port (spec/13): headers, the control queue, the receive area, HOLD/GO and POOL. -/

namespace Sys2Proof.Machine

/-- The frame types (Table 13.5). -/
def typeData : Nibble := 1
def typeBcast : Nibble := 2
def typeAck : Nibble := 3
def typeNak : Nibble := 4
def typeCredit : Nibble := 5
def typeHold : Nibble := 6
def typeGo : Nibble := 7
def typeTrain : Nibble := 8
def typeViolation : Nibble := 9
def typeIdle : Nibble := 10

/-- A frame without addresses; ACK and HLD are set when it is sent. -/
def plainFrame (type : Nibble) (tc : BitVec 2) (seq : BitVec 12) (payload : List Byte) : Frame :=
  { type, tc, seq, ack := 0, len := BitVec.ofNat 9 payload.length, dst := 0, src := 0, hld := false, payload }

/-- Whether a port is in Flow. -/
def PortSt.inFlow (x : PortSt) : Bool := decide (x.state = .flow)

/-- A control frame waits to be sent. -/
def State.queueCtl (s : State) (p : Port) (f : Frame) : State := s.modPort p fun x => { x with ctl := x.ctl ++ [f] }

/-- The bytes of receive storage that a frame takes (R464). -/
def storedBytes (f : Frame) : Nat := 8 + f.payload.length

/-- The pool units that a frame takes (R477). -/
def poolUnits (f : Frame) : Nat := (storedBytes f + 63) / 64

/-! ### HOLD/GO (R474 to R476) -/

/-- The free bytes of the 16 KiB area. -/
def PortSt.areaFree (x : PortSt) : Nat := 16384 - (x.area.map fun h => storedBytes h.frame).sum

/-- HOLD or GO goes before every other frame; where the other one still waits, neither is needed (log 82). -/
def PortSt.urgent (x : PortSt) (hold : Bool) : PortSt :=
  let (f, other) := if hold then (typeHold, typeGo) else (typeGo, typeHold)
  { x with
    holding := hold
    ctl := if x.ctl.any fun g => decide (g.type = other) then x.ctl.filter fun g => decide (g.type ≠ other) else plainFrame f 0 0 [] :: x.ctl }

/-- The receiver holds its partner below the headroom, and lets it go above headroom and hysteresis (R475). -/
def State.holdCheck (s : State) (p : Port) : State :=
  let x := s.port p
  if ¬ x.hgMode ∨ ¬ x.inFlow then s
  else if ¬ x.holding ∧ x.areaFree < s.usdHeadroom p then s.modPort p fun x => x.urgent true
  else if x.holding ∧ s.usdHeadroom p + field (s.reg (Reg.usdXgohyst p.val)) 0 16 ≤ x.areaFree then s.modPort p fun x => x.urgent false
  else s

/-! ### POOL (R477 to R479) -/

/-- The units of class `c` in the receive buffer. -/
def PortSt.heldUnits (x : PortSt) (c : Fin 4) : Nat :=
  ((x.area.filter fun h => decide (h.frame.tc.toNat = c.val)).map fun h => poolUnits h.frame).sum

/-- The unused grant of class `c`. -/
def PortSt.unused (x : PortSt) (c : Fin 4) : Nat := (x.granted[c] - x.taken[c]).toNat

/-- The classes of Table 13.4. -/
def classes : List (Fin 4) := [0, 1, 2, 3]

/-- The units granted and unfreed, each class counted at its reserve at least. -/
def PortSt.claimed (x : PortSt) : Nat := (classes.map fun c => max x.res[c] (x.heldUnits c + x.unused c)).sum

/-- A port grants `u` more units to class `c`; a CREDIT is due after 16 (R478). -/
def State.grant (s : State) (p : Port) (c : Fin 4) (u : Nat) : State :=
  if u = 0 then s
  else
    let n := (s.port p).sinceCredit[c] + u
    let s := s.modPort p fun x => { x with
      granted := x.granted.set c (x.granted[c] + BitVec.ofNat 12 u), sinceCredit := x.sinceCredit.set c (if 16 ≤ n then 0 else n) }
    if 16 ≤ n then s.queueCtl p (plainFrame typeCredit (BitVec.ofNat 2 c.val) (s.port p).granted[c] []) else s

/-- Each class takes back its reserve, and 8 more shared units when it has less than 8 unused and 8 are free (R477). -/
def State.regrant (s : State) (p : Port) : State :=
  if (s.port p).hgMode ∨ ¬ (s.port p).inFlow then s
  else s.each classes fun s c =>
    let x := s.port p
    let s := s.grant p c (x.res[c] - (x.heldUnits c + x.unused c))
    let x := s.port p
    if x.unused c < 8 ∧ x.claimed + 8 ≤ 1024 then s.grant p c 8 else s

/-- Whether the receive buffer takes a sequenced frame: room in the area, or grant of its class (R476, R479). -/
def PortSt.fits (x : PortSt) (f : Frame) : Bool :=
  if x.hgMode then decide (storedBytes f ≤ x.areaFree) else decide (poolUnits f ≤ x.unused (Fin.ofNat 4 f.tc.toNat))

/-- A frame enters the receive area of its port, waiting on onward ports or on local delivery (R500). -/
def State.areaTake (s : State) (p : Port) (f : Frame) (waits : List (Option Port)) : State :=
  let c : Fin 4 := Fin.ofNat 4 f.tc.toNat
  let s := s.modPort p fun x => { x with
    area := x.area ++ [{ frame := f, waits }], taken := x.taken.set c (x.taken[c] + BitVec.ofNat 12 (poolUnits f)) }
  (s.holdCheck p).regrant p

/-- The list without its first element that satisfies `q`. -/
def eraseFirst {α : Type} (q : α → Bool) : List α → List α
  | [] => []
  | a :: t => if q a then t else a :: eraseFirst q t

/-- One of those that a frame of the area waits on has taken it; the last one frees its storage. -/
def areaDone (f : Frame) (w : Option Port) : List HeldFrame → List HeldFrame
  | [] => []
  | h :: t =>
    if h.frame = f ∧ w ∈ h.waits then
      let l := h.waits.erase w
      if l.isEmpty then t else { h with waits := l } :: t
    else h :: areaDone f w t

/-- A frame that waits in the receive area of the port that took it has gone on, and what is no longer needed is freed (R500, R475,
R477). -/
def State.areaFreeFrame (s : State) (origin : Option Port) (f : Frame) (onward : Option Port) : State :=
  match origin with
  | none => s
  | some p =>
    let s := s.modPort p fun x => { x with area := areaDone f onward x.area }
    (s.holdCheck p).regrant p

end Sys2Proof.Machine
end

