-- ==== Sys2Proof/Machine/NargaRead.lean ====
section
/-! DEFINITION. How Narga reads a line (spec/15 R533 to R540, R544): its tokens, numbers and times, the frame of a machine line, and the
verb with its arguments that the tokens spell, or the first textual check that they fail. Points that the grammar leaves open are log 83. -/

namespace Sys2Proof

/-- A verb with the wrong count of arguments (R544 step 7). -/
def NLine.wrongCount (l : NLine) : NLine := { l with flaw := some .badCount }

/-- A verb whose noun or keyword is unknown (R544 step 6). -/
def NLine.wrongNoun (l : NLine) : NLine := { l with flaw := some .badNoun }

/-- A complete form followed by `extra` tokens, with its numbers valid or not (R544 steps 7 and 8). -/
def NLine.form (l : NLine) (extra : List String) (numbers : Bool) : NLine :=
  { l with flaw := if ¬ extra.isEmpty then some .badCount else if ¬ numbers then some .badNumber else none }

/-- A token where a keyword or a number may stand and which is neither: a number of no valid form when it begins with a digit. -/
def NLine.neither (l : NLine) (t : String) : NLine :=
  { l with flaw := some (if t.toList.head?.any fun c => decide (48 ≤ c.toNat ∧ c.toNat ≤ 57) then .badNumber else .badNoun) }

/-- The tag and check of a machine line that has both (R538, R541). -/
def NLine.tagged (l : NLine) : Option (String × Half) :=
  if l.flaw = some .badByte ∨ l.flaw = some .badCheck then none else l.tag.map fun t => (t, l.check)

end Sys2Proof

namespace Sys2Proof.Machine

/-! ### Characters, numbers and times (R533, R535) -/

/-- The bytes of an ASCII text. -/
def asciiBytes (t : String) : List Byte := t.toList.map fun c => BitVec.ofNat 8 c.toNat

/-- The text of ASCII bytes. -/
def asciiText (l : List Byte) : String := String.ofList (l.map fun b => Char.ofNat b.toNat)

/-- A letter in lower case (R533). -/
def foldCase (b : Byte) : Byte := if 0x41 ≤ b.toNat ∧ b.toNat ≤ 0x5A then b + 0x20 else b

/-- Whether a byte separates tokens: a space or a TAB (R533). -/
def separator (b : Byte) : Bool := decide (b = 0x20 ∨ b = 9)

/-- The tokens of a line: the runs of bytes between separators; `run` is the token under way (R533). -/
def splitTokens (run : List Byte) : List Byte → List (List Byte)
  | [] => if run.isEmpty then [] else [run]
  | b :: rest =>
    if separator b then (if run.isEmpty then splitTokens [] rest else run :: splitTokens [] rest) else splitTokens (run ++ [b]) rest

/-- The tokens of a text with case folded. -/
def tokens (l : List Byte) : List String := (splitTokens [] l).map fun t => asciiText (t.map foldCase)

/-- The value of a hexadecimal digit, in either case. -/
def hexValue (c : Char) : Option Nat :=
  let n := c.toNat
  if 48 ≤ n ∧ n ≤ 57 then some (n - 48)
  else if 65 ≤ n ∧ n ≤ 70 then some (n - 55)
  else if 97 ≤ n ∧ n ≤ 102 then some (n - 87)
  else none

/-- Digits in a base with single underscores between them; `digit` says that a digit came last (R535). -/
def readDigits (base : Nat) (digit : Bool) (v : Nat) : List Char → Option Nat
  | [] => if digit then some v else none
  | c :: rest =>
    if c = '_' then (if digit then readDigits base false v rest else none)
    else match hexValue c with
      | some d => if d < base then readDigits base true (v * base + d) rest else none
      | none => none

/-- A number of R535: hexadecimal with an h, binary with a b, or decimal. -/
def readNumber (t : String) : Option Nat :=
  match t.toList.reverse with
  | [] => none
  | c :: rest =>
    if c = 'h' then readDigits 16 false 0 rest.reverse
    else if c = 'b' then readDigits 2 false 0 rest.reverse
    else readDigits 10 false 0 t.toList

/-- Exactly `n` decimal digits, then the separator `c`. -/
def readDecimal (n : Nat) (c : Char) (l : List Char) : Option (Nat × List Char) :=
  match readDigits 10 false 0 ((l.take n).filter fun x => decide (x ≠ '_')) with
  | some v => if (l.take n).length = n ∧ (l.take n).all (fun x => decide (x ≠ '_')) ∧ l[n]? = some c then some (v, l.drop (n + 1)) else none
  | none => none

/-- Whether a year has a 29th of February. -/
def leapYear (y : Nat) : Bool := decide (y % 4 = 0 ∧ (y % 100 ≠ 0 ∨ y % 400 = 0))

/-- The days of a month. -/
def monthDays (y m : Nat) : Nat :=
  if m = 2 then (if leapYear y then 29 else 28) else if m = 4 ∨ m = 6 ∨ m = 9 ∨ m = 11 then 30 else 31

/-- The days from 2000-01-01 to the first of a month. -/
def daysBefore (y m : Nat) : Nat :=
  (y - 2000) * 365 + ((List.range (y - 2000)).filter fun i => leapYear (2000 + i)).length +
    ((List.range (m - 1)).map fun i => monthDays y (i + 1)).sum

/-- A time of R535 in seconds since 2000-01-01T00:00:00Z. -/
def readTime (t : String) : Option Nat :=
  match readDecimal 4 '-' t.toList with
  | none => none
  | some (y, l) => match readDecimal 2 '-' l with
  | none => none
  | some (m, l) => match readDecimal 2 't' l with
  | none => none
  | some (d, l) => match readDecimal 2 ':' l with
  | none => none
  | some (h, l) => match readDecimal 2 ':' l with
  | none => none
  | some (n, l) => match readDecimal 2 'z' l with
  | none => none
  | some (x, l) =>
    let secs := (daysBefore y m + (d - 1)) * 86400 + h * 3600 + n * 60 + x
    if 2000 ≤ y ∧ 1 ≤ m ∧ m ≤ 12 ∧ 1 ≤ d ∧ d ≤ monthDays y m ∧ h < 24 ∧ n < 60 ∧ x < 60 ∧ secs < 2 ^ 32 ∧ l = [] then some secs else none

/-- Pairs of hexadecimal digits as bytes (`tarn stage`, R553). -/
def readHexBytes : List Char → Option (List Byte)
  | [] => some []
  | [_] => none
  | a :: b :: rest =>
    match hexValue a, hexValue b, readHexBytes rest with
    | some x, some y, some l => some (BitVec.ofNat 8 (x * 16 + y) :: l)
    | _, _, _ => none

/-! ### The arguments of the verbs (Tables 15.2 and 15.3) -/

/-- A form that takes one number. -/
def withNumber (l : NLine) (t : String) (extra : List String) (f : Nat → NVerb) : NLine × NVerb :=
  (l.form extra (readNumber t).isSome, f ((readNumber t).getD 0))

/-- A form that takes two numbers; with fewer tokens the count is wrong. -/
def withNumbers (l : NLine) (a : String) (ts : List String) (f : Nat → Nat → NVerb) : NLine × NVerb :=
  match ts with
  | b :: extra => (l.form extra ((readNumber a).isSome && (readNumber b).isSome), f ((readNumber a).getD 0) ((readNumber b).getD 0))
  | [] => (l.wrongCount, f 0 0)

/-- A form with one optional number at its end. -/
def withOption (l : NLine) (ok : Bool) (ts : List String) (f : Option Nat → NVerb) : NLine × NVerb :=
  match ts with
  | [] => (l.form [] ok, f none)
  | t :: extra => (l.form extra (ok && (readNumber t).isSome), f (readNumber t))

/-- `ch` [n] and `ch` n with its keyword. -/
def readCh (l : NLine) : List String → NLine × NVerb
  | [] => (l.form [] true, .ch none)
  | [n] => (l.form [] (readNumber n).isSome, .ch (readNumber n))
  | n :: k :: extra =>
    match k with
    | "in" => withNumber l n extra .chIn
    | "out" => withNumber l n extra .chOut
    | "reload" => withNumber l n extra .chReload
    | "close" => withNumber l n extra .chClose
    | _ => (l.wrongNoun, .ch none)

/-- A converter's name (R552). -/
def readCnvName (t : String) : Option Cnv := if t = "a" then some 0 else if t = "b" then some 1 else none

/-- `cnv` u and `cnv` u `cal`. -/
def readCnv (l : NLine) : List String → NLine × NVerb
  | [] => (l.wrongCount, .cnv 0)
  | u :: rest =>
    match readCnvName u with
    | none => (l.wrongNoun, .cnv 0)
    | some u => match rest with
      | [] => (l.form [] true, .cnv u)
      | "cal" :: extra => (l.form extra true, .cnvCal u)
      | _ => (l.wrongNoun, .cnv u)

/-- `port` p and its keywords. -/
def readPort (l : NLine) : List String → NLine × NVerb
  | [] => (l.wrongCount, .port 0)
  | [p] => withNumber l p [] .port
  | p :: k :: extra =>
    match k with
    | "peer" => withNumber l p extra .portPeer
    | "retrain" => withNumber l p extra .portRetrain
    | "on" => withNumber l p extra .portOn
    | "off" => withNumber l p extra .portOff
    | _ => (l.wrongNoun, .port 0)

/-- A port's name or `drop`, as `route` id `set` takes it. -/
def readNeighbour (t : String) : Option (Option Nat) :=
  match t with
  | "p0" => some (some 0) | "p1" => some (some 1) | "p2" => some (some 2) | "p3" => some (some 3) | "drop" => some none | _ => none

/-- `route tunnel` and its setting (R551). -/
def readTunnel (l : NLine) : List String → NLine × NVerb
  | [] => (l.form [] true, .routeTunnel none)
  | t :: extra =>
    match t with
    | "off" => (l.form extra true, .routeTunnel (some .off))
    | "any" => (l.form extra true, .routeTunnel (some .any))
    | t => match readNumber t with
      | some id => (l.form extra (decide (id < 4096)), .routeTunnel (some (.node (BitVec.ofNat 12 id))))
      | none => (if extra.isEmpty then l.neither t else if (l.neither t).flaw = some .badNoun then l.wrongNoun else l.wrongCount, .routeTunnel none)

/-- `route` with its nouns. -/
def readRoute (l : NLine) : List String → NLine × NVerb
  | [] => (l.wrongCount, .routeNode)
  | ["node"] => (l.form [] true, .routeNode)
  | "node" :: "set" :: rest =>
    match rest with
    | [] => (l.wrongCount, .routeNodeSet 0)
    | id :: extra => withNumber l id extra .routeNodeSet
  | "node" :: _ => (l.wrongNoun, .routeNode)
  | "tunnel" :: rest => readTunnel l rest
  | [id] => if (readNumber id).isSome then withNumber l id [] .route else (l.neither id, .route 0)
  | id :: "set" :: rest =>
    match rest with
    | [] => (l.wrongCount, .routeSet 0 none)
    | x :: extra =>
      match readNeighbour x with
      | none => (l.wrongNoun, .routeSet 0 none)
      | some nbr => withNumber l id extra fun id => .routeSet id nbr
  | _ => (l.wrongNoun, .route 0)

/-- `log` with its nouns. -/
def readLog (l : NLine) : List String → NLine × NVerb
  | [] => (l.wrongCount, .logHealth none)
  | "health" :: "from" :: rest =>
    match rest with
    | [] => (l.wrongCount, .logHealthFrom 0 none)
    | q :: rest => withOption l (readNumber q).isSome rest fun k => .logHealthFrom ((readNumber q).getD 0) k
  | "legal" :: "from" :: rest =>
    match rest with
    | [] => (l.wrongCount, .logLegalFrom 0 none)
    | q :: rest => withOption l (readNumber q).isSome rest fun k => .logLegalFrom ((readNumber q).getD 0) k
  | "health" :: rest => withOption l true rest .logHealth
  | "legal" :: rest => withOption l true rest .logLegal
  | _ => (l.wrongNoun, .logHealth none)

/-- `tarn` with its nouns. -/
def readTarn (l : NLine) : List String → NLine × NVerb
  | [] => (l.form [] true, .tarn)
  | ["time"] => (l.form [] true, .tarnTime none)
  | "time" :: t :: extra => (l.form extra (readTime t).isSome, .tarnTime (some ((readTime t).getD 0)))
  | ["logack"] => (l.wrongCount, .tarnLogack 0)
  | "logack" :: q :: extra => withNumber l q extra .tarnLogack
  | "nonce" :: extra => (l.form extra true, .tarnNonce)
  | "stage" :: off :: h :: extra =>
    (l.form extra ((readNumber off).isSome && (readHexBytes h.toList).isSome), .tarnStage ((readNumber off).getD 0) ((readHexBytes h.toList).getD []))
  | "stage" :: _ => (l.wrongCount, .tarnStage 0 [])
  | "submit" :: extra => (l.form extra true, .tarnSubmit)
  | _ => (l.wrongNoun, .tarn)

/-- A power state's name. -/
def readPs (t : String) : Option Nat :=
  match t with
  | "ps0" => some 0 | "ps1" => some 1 | "ps2" => some 2 | "ps3" => some 3 | "ps4" => some 4 | "ps5" => some 5 | _ => none

/-- `pwr` and `pwr go`. -/
def readPwr (l : NLine) : List String → NLine × NVerb
  | [] => (l.form [] true, .pwr)
  | ["go"] => (l.wrongCount, .pwrGo 0)
  | "go" :: p :: extra =>
    match readPs p with
    | some p => (l.form extra true, .pwrGo p)
    | none => (l.wrongNoun, .pwrGo 0)
  | _ => (l.wrongNoun, .pwr)

/-- A microcode image's name (R614). -/
def readMc (t : String) : Option Chan :=
  match t with
  | "mc0" => some 0 | "mc1" => some 1 | "mc2" => some 2 | "mc3" => some 3 | "mc4" => some 4 | "mc5" => some 5 | "mc6" => some 6
  | "mc7" => some 7 | _ => none

/-- A firmware type with its slot (R614). -/
def readSlot (t slot : String) : Option ImageRef :=
  let b := decide (slot = "b")
  if slot ≠ "a" ∧ slot ≠ "b" then none
  else match t with
  | "wfw" => some (.wfw b) | "tfw" => some (.tfw b) | "lfw" => some (.lfw b) | _ => none

/-- The image that the tokens after `verify` or `activate` name. -/
def readImage (l : NLine) (f : ImageRef → NVerb) : List String → NLine × NVerb
  | [] => (l.wrongCount, f (.wfw false))
  | t :: rest =>
    match readMc t with
    | some n => (l.form rest true, f (.mcode n))
    | none => match rest with
      | [] => (if t = "wfw" ∨ t = "tfw" ∨ t = "lfw" then l.wrongCount else l.wrongNoun, f (.wfw false))
      | s :: extra => match readSlot t s with
        | some i => (l.form extra true, f i)
        | none => (l.wrongNoun, f (.wfw false))

/-- `img` with its nouns. -/
def readImg (l : NLine) : List String → NLine × NVerb
  | [] => (l.form [] true, .img)
  | "verify" :: rest => readImage l .imgVerify rest
  | "activate" :: rest => readImage l .imgActivate rest
  | _ => (l.wrongNoun, .img)

/-- The units of `stat` with their codes (R552). -/
def unitNames : List (String × Nat) :=
  [("lc0", 0), ("lc1", 1), ("lc2", 2), ("lc3", 3), ("ce0", 0x10), ("ce1", 0x11), ("ce2", 0x12), ("ce3", 0x13), ("ce4", 0x14), ("ce5", 0x15),
   ("ce6", 0x16), ("ce7", 0x17), ("cnva", 0x20), ("cnvb", 0x21), ("p0", 0x30), ("p1", 0x31), ("p2", 0x32), ("p3", 0x33), ("nvla", 0x40),
   ("tarn", 0x50), ("wellhead", 0x60)]

/-- `reconcile` unit: a unit's name, or the number of a channel (R552, R554). -/
def readReconcile (l : NLine) : List String → NLine × NVerb
  | [] => (l.wrongCount, .reconcile 0)
  | u :: extra =>
    match unitNames.find? fun x => decide (x.1 = u) with
    | some x => (l.form extra true, .reconcile (BitVec.ofNat 8 x.2))
    | none => match readNumber u with
      | some n => (l.form extra (decide (n < 8)), .reconcile (BitVec.ofNat 8 (0x70 + n % 8)))
      | none => (l.neither u, .reconcile 0)

/-- `reset` with its nouns. -/
def readReset (l : NLine) : List String → NLine × NVerb
  | [] => (l.wrongCount, .resetDevice)
  | "device" :: extra => (l.form extra true, .resetDevice)
  | ["core"] => (l.wrongCount, .resetCore 0)
  | "core" :: c :: extra => withNumber l c extra .resetCore
  | ["port"] => (l.wrongCount, .resetPort 0)
  | "port" :: p :: extra => withNumber l p extra .resetPort
  | _ => (l.wrongNoun, .resetDevice)

/-- `expert on` and `expert off`. -/
def readExpert (l : NLine) : List String → NLine × NVerb
  | [] => (l.wrongCount, .expertOn)
  | "on" :: extra => (l.form extra true, .expertOn)
  | "off" :: extra => (l.form extra true, .expertOff)
  | _ => (l.wrongNoun, .expertOn)

/-- `xreg` addr and `xreg` addr value. -/
def readXreg (l : NLine) : List String → NLine × NVerb
  | [] => (l.wrongCount, .xregRead 0)
  | [a] => withNumber l a [] .xregRead
  | a :: rest => withNumbers l a rest .xregWrite

/-- `xch` n with its keywords. -/
def readXch (l : NLine) : List String → NLine × NVerb
  | n :: "scrub" :: rest => withNumbers l n rest .xchScrub
  | n :: "inj" :: w :: b :: extra =>
    (l.form extra ((readNumber n).isSome && (readNumber w).isSome && (readNumber b).isSome),
      .xchInj ((readNumber n).getD 0) ((readNumber w).getD 0) ((readNumber b).getD 0))
  | _ :: "inj" :: _ => (l.wrongCount, .xchInj 0 0 0)
  | [] => (l.wrongCount, .xchScrub 0 0)
  | [_] => (l.wrongCount, .xchScrub 0 0)
  | _ => (l.wrongNoun, .xchScrub 0 0)

/-- `xcnv` u with its keywords. -/
def readXcnv (l : NLine) : List String → NLine × NVerb
  | [] => (l.wrongCount, .xcnvSurge 0)
  | u :: rest =>
    match readCnvName u with
    | none => (l.wrongNoun, .xcnvSurge 0)
    | some u => match rest with
      | [] => (l.wrongCount, .xcnvSurge u)
      | "surge" :: extra => (l.form extra true, .xcnvSurge u)
      | ["raw"] => (l.wrongCount, .xcnvRaw u false)
      | "raw" :: "on" :: extra => (l.form extra true, .xcnvRaw u true)
      | "raw" :: "off" :: extra => (l.form extra true, .xcnvRaw u false)
      | _ => (l.wrongNoun, .xcnvSurge u)

/-- `xport` p with its keywords. -/
def readXport (l : NLine) : List String → NLine × NVerb
  | [] => (l.wrongCount, .xportTestOff 0)
  | [_] => (l.wrongCount, .xportTestOff 0)
  | p :: "loop" :: extra => withNumber l p extra .xportLoop
  | p :: "prbs" :: extra => withNumber l p extra .xportPrbs
  | [_, "test"] => (l.wrongCount, .xportTestOff 0)
  | p :: "test" :: "off" :: extra => withNumber l p extra .xportTestOff
  | p :: "head" :: rest => withNumbers l p rest .xportHead
  | p :: "gohyst" :: rest => withNumbers l p rest .xportGohyst
  | _ => (l.wrongNoun, .xportTestOff 0)

/-- A clock's place in CLK_STAT. -/
def readClock (t : String) : Option Nat :=
  match t with
  | "xin" => some 0 | "xrtc" => some 1 | "rco" => some 2 | "spll" => some 3 | "cpll" => some 4 | "tpll" => some 5 | _ => none

/-- `xclk mon` [clock]. -/
def readXclk (l : NLine) : List String → NLine × NVerb
  | [] => (l.wrongCount, .xclkMon none)
  | ["mon"] => (l.form [] true, .xclkMon none)
  | "mon" :: k :: extra =>
    match readClock k with
    | some k => (l.form extra true, .xclkMon (some k))
    | none => (l.wrongNoun, .xclkMon none)
  | _ => (l.wrongNoun, .xclkMon none)

/-- The command that a verb with its arguments spells (Tables 15.2 and 15.3); a verb in neither table is unknown (R552). `l.args` holds
the arguments as they were sent, which `app` passes on byte for byte (R555). -/
def readVerb (l : NLine) (verb : String) (args : List String) : NLine × NVerb :=
  match verb with
  | "help" => match args with
    | [] => (l.form [] true, .help none)
    | v :: extra => (l.form extra true, .help (some v))
  | "id" => match args with
    | [] => (l.form [] true, .id)
    | "full" :: extra => (l.form extra true, .idFull)
    | _ => (l.wrongNoun, .id)
  | "stat" => (l.form args true, .stat)
  | "ch" => readCh l args
  | "cnv" => readCnv l args
  | "port" => readPort l args
  | "route" => readRoute l args
  | "log" => readLog l args
  | "tarn" => readTarn l args
  | "pwr" => readPwr l args
  | "clk" => (l.form args true, .clk)
  | "img" => readImg l args
  | "reconcile" => readReconcile l args
  | "app" => (if args.isEmpty then l.wrongCount else l.form [] true, .app l.args)
  | "reset" => readReset l args
  | "more" => (l.form args true, .more)
  | "expert" => readExpert l args
  | "xreg" => readXreg l args
  | "xch" => readXch l args
  | "xcnv" => readXcnv l args
  | "xport" => readXport l args
  | "xclk" => readXclk l args
  | _ => (l, .unknownVerb)

/-! ### Lines (R534, R538, R544) -/

/-- A text without its leading separators. -/
def trimLead (l : List Byte) : List Byte := l.dropWhile separator

/-- A letter or a decimal digit. -/
def tagByte (b : Byte) : Bool :=
  decide (0x30 ≤ b.toNat ∧ b.toNat ≤ 0x39 ∨ 0x41 ≤ b.toNat ∧ b.toNat ≤ 0x5A ∨ 0x61 ≤ b.toNat ∧ b.toNat ≤ 0x7A)

/-- The bytes between `#` and the first separator. -/
def tagBytes (l : List Byte) : List Byte := (l.drop 1).takeWhile fun b => !separator b

/-- The tag of a machine line: 1 to 8 letters or digits after `#` (R538), else `?` (R540). -/
def lineTag (l : List Byte) : String :=
  let t := tagBytes l
  if 1 ≤ t.length ∧ t.length ≤ 8 ∧ t.all tagByte then asciiText t else "?"

/-- The text that the check of a machine line covers and the check that it carries: the line ends in exactly one space, `*` and four
hexadecimal digits (R538). -/
def machineParts (l : List Byte) : Option (List Byte × Half) :=
  let covered := l.take (l.length - 6)
  match (l.drop (l.length - 6)).map fun b => Char.ofNat b.toNat with
  | [' ', '*', a, b, c, d] =>
    match hexValue a, hexValue b, hexValue c, hexValue d with
    | some a, some b, some c, some d =>
      if covered.getLast?.any separator then none else some (covered, BitVec.ofNat 16 (((a * 16 + b) * 16 + c) * 16 + d))
    | _, _, _, _ => none
  | _ => none

/-- Whether a byte may stand in a line (R544 step 2). -/
def lineByte (b : Byte) : Bool := decide (0x20 ≤ b.toNat ∧ b.toNat ≤ 0x7E ∨ b = 9)

/-- The command of a text without its frame; none where it has no token. -/
def readText (l : NLine) (text : List Byte) : Option (NLine × NVerb) :=
  let body := trimLead text
  let verb := body.takeWhile fun b => !separator b
  match tokens text with
  | [] => none
  | v :: args => some (readVerb { l with args := (body.drop (verb.length + 1)) } v args)

/-- A line of a session as Narga reads it: too long, with a bad byte, badly framed, of no known verb, or the command that its tokens spell
with the first textual check that it fails (R534, R538, R544). An empty typed line is none (R536). `bad` says that a byte of it came with a
UART error. -/
def readLine (sess : Session) (bad : Bool) (text : List Byte) : Option (NLine × NVerb) :=
  let machine := decide (text.head? = some 0x23)
  let parts := if machine then machineParts text else none
  let l : NLine := { sess := sess, tag := if machine then some (lineTag text) else none, check := (parts.map fun p => p.2).getD 0, args := [], flaw := none }
  if text.isEmpty then none
  else if 255 < text.length then some (l, .lineTooLong)
  else if bad ∨ ¬ text.all lineByte then some ({ l with flaw := some .badByte }, .unknownVerb)
  else if ¬ machine then readText l text
  else match parts with
  | some (covered, check) =>
    if lineTag text = "?" ∨ crc16 covered ≠ check then some ({ l with flaw := some .badCheck }, .unknownVerb)
    else some ((readText l (covered.drop (1 + (tagBytes covered).length))).getD (l, .unknownVerb))
  | none => some ({ l with flaw := some .badCheck }, .unknownVerb)

end Sys2Proof.Machine
end

