-- ==== Sys2Proof/Machine/Nvla.lean ====
section
/-! DEFINITION. The nonvolatile ledger array (spec/12): commit groups, word writes, wear and remapping, and the discharge test. -/

namespace Sys2Proof.Machine

/-! ### REPLACE_N causes (R582) -/

/-- A cause of REPLACE_N arises (R582): it asserts the pin, logs 0711h and, as the first, sets WMB_EVT.REPL. A cause that holds already adds
nothing, and one that comes while a release is under way keeps the pin without a record (R599). -/
def State.addCause (s : State) (c : ReplCause) (event : Nat) : State :=
  if s.well.causes.any fun x => decide (x.1 = c) then s
  else
    let first := s.well.causes.isEmpty
    let kept := s.well.release.isSome
    let s := s.modWell fun w => { w with causes := w.causes ++ [(c, BitVec.ofNat 16 event)], replN := true, release := none }
    if kept then s
    else
      let s := s.hlog 0x0711 sevNotice 0xFF (beBytes 2 event)
      if first then s.setBits Reg.wmbEvt 4 else s

/-- A cause of REPLACE_N ends; the release that the last one brings comes 10 ms later, so that a cause which begins meanwhile stops it
(R582, R583, R599; log 39). -/
def State.endCause (s : State) (c : ReplCause) (event : Nat) : State :=
  if s.well.causes.any fun x => decide (x.1 = c) then
    let rest := s.well.causes.filter fun x => decide (x.1 ≠ c)
    s.modWell fun w => { w with causes := rest, release := if rest.isEmpty then some (BitVec.ofNat 16 event, s.us) else none }
  else s

/-- REPLACE_N is released 10 ms after its last cause has ended, with 0712h and WMB_EVT.REPL (R582). -/
def State.releaseReplace (s : State) : State :=
  match s.well.release with
  | none => s
  | some (event, t) =>
    if ¬ s.wellheadRuns ∨ s.us < t + 10000 then s
    else ((s.modWell fun w => { w with replN := false, release := none }).hlog 0x0712 sevNotice 0xFF (beBytes 2 event.toNat)).setBits Reg.wmbEvt 4

/-! ### Wear and remapping (R441, R442) -/

/-- A block meets R441 for a reason, with 0512h where no spare is left (R442). -/
def State.startRemap (s : State) (block reason : Nat) : State :=
  s.remapStart (fun s => s.hlog 0x0512 sevError 0x40 (beBytes 2 block)) block reason

/-- `n` word writes of block `b` count (R441). -/
def State.countWrites (s : State) (b n : Nat) : State := s.wearBy (fun s => s.hlog 0x0512 sevError 0x40 (beBytes 2 b)) b n

/-- A write of bytes that is no store of a ledger core: in the NVLA every word it touches is one word write (R425, R441). -/
def State.putBytes (s : State) (a : Nat) (l : List Byte) : State :=
  let s := s.setBytes a l
  if 0x01000000 ≤ a ∧ a < 0x01800000 then (s.nvClean a l.length).countWrites (nvBlock a) ((a + l.length + 7) / 8 - a / 8) else s

/-- A corrected error in block `b` (R441, R449): logged at most once per minute; the sixteenth in 24 h starts a remap. -/
def State.nvCorrected (s : State) (b : Nat) : State :=
  let w := s.wearOf b
  let times := s.us :: within s.us (hours 24) w.1
  let s := (s.setWear b (times, w.2)).hlogLim 0x0501 sevNotice 0x40 (minutes 1) []
  if 16 ≤ times.length then s.startRemap b 2 else s

/-- An uncorrectable read (R449). -/
def State.nvUncorrectable (s : State) (a : Nat) : State :=
  (s.setBits Reg.nvlEvt 0x40).hlog 0x0502 sevNotice 0x40 (beBytes 4 a)

/-- Whether the word of a byte of the NVLA has a single-bit error. -/
def State.softAt (s : State) (a : Nat) : Bool := decide (0x01000000 ≤ a ∧ a < 0x01800000) && s.nvla.soft.contains (a / 8)

/-- A read of a byte of the NVLA: a single-bit error of its word is corrected (R449). -/
def State.nvSoftRead (s : State) (a : Nat) : State := if s.softAt a then s.nvCorrected (nvBlock a) else s

/-! ### Word writes and groups (R425 to R432) -/

/-- The masked bytes of an 8-byte word are written to memory. -/
def State.writeMasked (s : State) (word : Nat) (mask : Byte) (data : BitVec 64) : State :=
  s.each (List.range 8) fun s i => if mask.getLsbD i then s.setByte (word * 8 + i) (wordByte data i) else s

/-- One word write of the array (R425): atomic, counted; it leaves the word free of errors. -/
def State.nvWrite (s : State) (word : Nat) (mask : Byte) (data : BitVec 64) : State :=
  ((s.writeMasked word mask data).nvClean (word * 8) 8).countWrites (nvBlock (word * 8)) 1

/-- The data of a word with the masked bytes of another merged in. -/
def mergeWord (m₁ : Byte) (d₁ : BitVec 64) (m₂ : Byte) (d₂ : BitVec 64) : BitVec 64 :=
  BitVec.ofNat 64 (leNat ((List.range 8).map fun i =>
    if m₂.getLsbD i then wordByte d₂ i else if m₁.getLsbD i then wordByte d₁ i else 0))

/-- A grouped store joins the words of a group; none when it names a ninth word (R428). -/
def joinWords (ws : List GroupWord) (word : Nat) (mask : Byte) (data : BitVec 64) : Option (List GroupWord) :=
  if ws.any fun w => decide (w.word = word) then
    some (ws.map fun w => if w.word = word then { w with mask := w.mask ||| mask, data := mergeWord w.mask w.data mask data } else w)
  else if ws.length < 8 then some (ws ++ [GroupWord.mk word mask data])
  else none

/-- The state with a group changed. -/
def State.modGroup (s : State) (c : Core) (f : GroupSt → GroupSt) : State :=
  s.modNvla fun n => { n with groups := n.groups.set c (f n.groups[c]) }

/-- Whether a store of context `k` of core `c` to a word belongs to the core's group (R427, R428). -/
def State.grouped (s : State) (c : Core) (k : Ctx) (word : Nat) : Bool :=
  let g := s.nvla.groups[c]
  decide (g.owner = k ∧ region (word * 8) = .nvla ∧ (g.state = .open ∨ g.state = .overflow))

/-- A store of context `k` of core `c` drains to the NVLA (R427, R428): it joins the owner's group, is dropped in OVERFLOW, or is one
ungrouped word write. -/
def State.nvStore (s : State) (c : Core) (k : Ctx) (word : Nat) (mask : Byte) (data : BitVec 64) : State :=
  let g := s.nvla.groups[c]
  if s.grouped c k word then
    if g.state = .overflow then s
    else match joinWords g.words word mask data with
    | some ws => s.modGroup c fun g => { g with words := ws }
    | none => s.modGroup c fun g => { g with state := .overflow }
  else s.nvWrite word mask data

/-- Results of NVL_CGc_STAT (Table 12.2). -/
def cgDurable : Nibble := 0
def cgAborted : Nibble := 1
def cgOverflow : Nibble := 2
def cgDiscarded : Nibble := 3
def cgNvFault : Nibble := 4
def cgBusy : Nibble := 5
def cgLimit : Nibble := 6
def cgHoldLow : Nibble := 7
def cgPfail : Nibble := 8
def cgNoGroup : Nibble := 9

/-- A group ends with a result; the slot returns to IDLE. -/
def State.endGroup (s : State) (c : Core) (r : Nibble) : State :=
  s.modGroup c fun g => { g with state := .idle, words := [], result := r }

/-- The groups that are not IDLE. -/
def State.openGroups (s : State) : Nat := (allCores.filter fun c => decide (s.nvla.groups[c].state ≠ .idle)).length

/-- The HOLD reading in millivolts. -/
def State.holdMilli (s : State) : Int := (s.well.sensors[(11 : Fin 12)]).reading

/-- What refuses an OPEN (R426). -/
def State.cgRefusal (s : State) (c : Core) : Option Nibble :=
  if s.nvla.groups[c].state ≠ .idle then some cgBusy
  else if s.nvla.gmax ≤ s.openGroups then some cgLimit
  else if s.holdMilli < 11500 then some cgHoldLow
  else if s.nvla.refuseOpen then some cgPfail
  else none

/-- OPEN (R426). -/
def State.cgOpen (s : State) (c : Core) (k : Ctx) : State :=
  match s.cgRefusal c with
  | some r => s.modGroup c fun g => { g with result := r }
  | none => s.modGroup c fun g => { g with state := .open, owner := k, words := [] }

/-- CLOSE (R428, R430, R432); of a group already CLOSING it gives BUSY (log 17). -/
def State.cgClose (s : State) (c : Core) (k : Ctx) : State :=
  let g := s.nvla.groups[c]
  if g.state = .idle then s.modGroup c fun g => { g with result := cgNoGroup }
  else if g.owner ≠ k ∨ g.state = .closing then s.modGroup c fun g => { g with result := cgBusy }
  else if g.state = .overflow then s.endGroup c cgOverflow
  else (s.modGroup c fun g => { g with state := .closing }).modNvla fun n => { n with closing := n.closing ++ [c] }

/-- ABORT (R432); of a group already CLOSING it gives BUSY (log 17). -/
def State.cgAbort (s : State) (c : Core) (k : Ctx) : State :=
  let g := s.nvla.groups[c]
  if g.state = .idle then s.modGroup c fun g => { g with result := cgNoGroup }
  else if g.owner ≠ k ∨ g.state = .closing then s.modGroup c fun g => { g with result := cgBusy }
  else s.endGroup c cgAborted

/-- A halt or a reset discards an OPEN or OVERFLOW group (R447). -/
def State.discardGroup (s : State) (c : Core) : State :=
  match s.nvla.groups[c].state with
  | .open => s.endGroup c cgDiscarded
  | .overflow => s.endGroup c cgDiscarded
  | _ => s

/-- The group grace ends: an OPEN or OVERFLOW group is discarded, and its words stay in the journal slot without a seal (R435, log 17). -/
def State.graceDiscard (s : State) (c : Core) : State :=
  match s.nvla.groups[c].state with
  | .open => s.modGroup c fun g => { g with state := .idle, result := cgDiscarded }
  | .overflow => s.modGroup c fun g => { g with state := .idle, result := cgDiscarded }
  | _ => s

/-- The bytes of a journal record that its seal word checks: its words in order, each with its index, mask and data, then NVL_CGc_LAST
(R431). The layout inside the slot is a DESIGN CHOICE (log 17). -/
def recordBytes (ws : List GroupWord) (last : Word) : List Byte :=
  (ws.flatMap fun w => leBytes 4 w.word ++ w.mask :: leBytes 8 w.data.toNat) ++ leBytes 4 last.toNat

/-- The seal word of a record (R431). -/
def sealWord (ws : List GroupWord) (last : Word) : Word := crc32 (recordBytes ws last)

/-- Whether a record's seal checks. -/
def Record.good (r : Record) : Bool := decide (r.stamp = sealWord r.words r.last)

/-- A journal write that fails verification ends its group (R449). -/
def State.journalFault (s : State) (c : Core) : State :=
  (((s.endGroup c cgNvFault).hlog 0x0513 sevError 0x40 [BitVec.ofNat 8 c.val]).addCause .journal 0x0513).healthNotice 0x40 .worn
    false 0x0513

/-- The lines of a core's data cache take the words of its group when it is durable, as they take a store that drains (R320, R326, R429);
those of its instruction cache that a word hits go. -/
def CoreSt.storeHits (x : CoreSt) (word : Nat) (mask : Byte) (data : BitVec 64) : CoreSt :=
  let line := word / 4
  { x with
    icache := x.icache.filter fun e => decide (e.1 ≠ line)
    dcache := x.dcache.map fun d =>
      if d.line = line then
        { d with bytes := (List.range 8).foldl (fun l i => if mask.getLsbD i then l.set (word % 4 * 8 + i) (wordByte data i) else l) d.bytes }
      else d }

/-- The seal word of the group at the head of the closing order is written, or fails its verification (R430, R449). -/
def State.sealGroup (s : State) (c : Core) (verified : Bool) : State :=
  let ws := s.nvla.groups[c].words
  let last := s.nvla.last[c] + 1
  let s := s.modNvla fun n => { n with closing := n.closing.drop 1 }
  if verified then
    let s := (s.endGroup c cgDurable).modNvla fun n => { n with
      last := n.last.set c last, durable := n.durable ++ [{ core := c, words := ws, last, stamp := sealWord ws last }] }
    (s.modCore c fun x => ws.foldl (fun x w => x.storeHits w.word w.mask w.data) x).setBits Reg.nvlEvt (BitVec.ofNat 32 (2 ^ c.val))
  else s.journalFault c

/-- The oldest sealed record is applied to the array and its seal cleared (R430, R444). -/
def State.applyGroup (s : State) : State :=
  match s.nvla.durable with
  | [] => s
  | r :: rest => (s.each r.words fun s w => s.nvWrite w.word w.mask w.data).modNvla fun n => { n with durable := rest }

/-- A journal slot is ignored at a start (R431, R449). -/
def State.recordIgnored (s : State) (c : Core) : State := s.hlog 0x0523 sevNotice 0x40 [BitVec.ofNat 8 c.val]

/-- At start-up every record whose seal checks is applied; one whose seal fails, or that has none, is ignored and logged (R431, R449, R450).
Every slot starts IDLE. -/
def State.journalStart (s : State) : State :=
  let s := s.each s.nvla.durable fun s r =>
    if r.good then s.applyGroup else (s.modNvla fun n => { n with durable := n.durable.drop 1 }).recordIgnored r.core
  let s := s.each allCores fun s c => if s.nvla.groups[c].words.isEmpty then s else s.recordIgnored c
  s.modNvla fun n => { n with groups := Vector.replicate 4 {}, closing := [], grace := false, refuseOpen := false }

/-! ### The discharge test (R439, R440) -/

/-- GROUPS. -/
def State.groupsSet (s : State) : Nat := field (s.reg Reg.nvlCtrl) 0 3

/-- The largest g up to `groups` with 380 + 30 g µJ at most `e`, or 0 (R439). -/
def gmaxOf (groups e : Nat) : Nat := ((List.range (groups + 1)).filter fun g => decide (380 + 30 * g ≤ e)).getLastD 0

/-- GMAX is computed from the stored energy (R440). -/
def State.gmaxRecompute (s : State) : State := s.modNvla fun n => { n with gmax := gmaxOf s.groupsSet n.microJ }

/-- The discharge test with the drop v1 − v2 in millivolts; a charge that timed out gives 0 (R439). The derated capacitance is kept
in 0.01 µF and the energy in µJ, both rounded down. -/
def State.dischargeTest (s : State) (charged : Bool) (dropMilli : Nat) : State :=
  let d := max 1 dropMilli
  let c := if charged then 900000 / d else 0
  let e := if charged then 523125 / d else 0
  let s := (s.modNvla fun n => { n with centiUF := c, microJ := e, holdOk := decide (380 ≤ e), tested := true, measured := true }).gmaxRecompute
  let s := s.modWell fun w => { w with sensors := w.sensors.set (11 : Fin 12) { w.sensors[(11 : Fin 12)] with charged } }
  if s.nvla.gmax < s.groupsSet ∨ ¬ s.nvla.holdOk then
    s.hlog 0x0520 (if s.nvla.holdOk then sevNotice else sevCritical) 0x40 (beBytes 2 c ++ [BitVec.ofNat 8 s.nvla.gmax])
  else s

/-! ### The commands -/

/-- CG_OPEN (R426). -/
def execCgOpen (c : Core) (k : Ctx) (s : State) : Host.Outcome State Fault Refusal := .next (s.cgOpen c k)
/-- CG_CLOSE (R430). -/
def execCgClose (c : Core) (k : Ctx) (s : State) : Host.Outcome State Fault Refusal := .next (s.cgClose c k)
/-- CG_ABORT (R432). -/
def execCgAbort (c : Core) (k : Ctx) (s : State) : Host.Outcome State Fault Refusal := .next (s.cgAbort c k)

/-- GROUP_DURABLE: closing writes are served in the order of their CLOSE commands (R433). -/
def execGroupDurable (c : Core) (verified : Bool) (s : State) : Host.Outcome State Fault Refusal :=
  if s.nvla.closing.head? = some c then .next (s.sealGroup c verified) else .next s

/-- GROUP_APPLIED: groups are applied in the order in which they became durable (R444); the word named by `bad` fails its read-back
verification twice (R441). -/
def execGroupApplied (g : Applied) (s : State) : Host.Outcome State Fault Refusal :=
  match s.nvla.durable with
  | [] => .next s
  | r :: _ =>
    if r.core ≠ g.core then .next s
    else match g.bad.bind fun i => r.words[i.val]? with
    | some w => .next (s.applyGroup.startRemap (nvBlock (w.word * 8)) 1)
    | none => .next s.applyGroup

/-- DISCHARGE_TEST (R439). -/
def execDischargeTest (charged : Bool) (dropMilli : Nat) (s : State) : Host.Outcome State Fault Refusal :=
  .next (s.dischargeTest charged dropMilli)

/-- REMAP_DONE (R441, R442). -/
def execRemapDone (block : Nat) (s : State) : Host.Outcome State Fault Refusal :=
  match s.nvla.remapping.find? fun e => e.1 = block with
  | none => .next s
  | some (_, reason) =>
    let s := (s.modNvla fun n => { n with
      remapping := n.remapping.filter (fun e => decide (e.1 ≠ block)), remapped := n.remapped ++ [block],
      spares := n.spares - 1 }).setWear block ([], 0)
    let s := (s.setBits Reg.nvlEvt 0x20).hlog 0x0510 sevNotice 0x40 (beBytes 2 block ++ [BitVec.ofNat 8 reason])
    if s.nvla.spares < 8 then
      let s := if bit (s.reg Reg.nvlEvt) 4 ∨ (s.well.causes.any fun x => decide (x.1 = .spareLow)) then s
        else s.hlog 0x0511 sevError 0x40 [BitVec.ofNat 8 s.nvla.spares]
      .next (((s.setBits Reg.nvlEvt 0x10).addCause .spareLow 0x0511).healthNotice 0x40 .worn false 0x0511)
    else .next s

end Sys2Proof.Machine
end

