-- ==== Sys2Proof/Machine/NargaOut.lean ====
section
/-! DEFINITION. What Narga sends (R536 to R542, R549): response lines, their check, the stored response and the tunnel answer. -/

namespace Sys2Proof.Machine

/-- One uppercase hexadecimal digit. -/
def hexDigit (n : Nat) : Char := if n < 10 then Char.ofNat (48 + n) else Char.ofNat (55 + n)

/-- `n` uppercase hexadecimal digits. -/
def hexChars : Nat → Nat → List Char
  | 0, _ => []
  | n + 1, v => hexChars n (v / 16) ++ [hexDigit (v % 16)]

/-- The text of `n` hexadecimal digits. -/
def hexText (n v : Nat) : String := String.ofList (hexChars n v)

/-- The hexadecimal text of bytes, two digits each. -/
def hexBytes (l : List Byte) : String := String.ofList (l.flatMap fun b => hexChars 2 b.toNat)

/-- `n` decimal digits. -/
def decText (n v : Nat) : String := String.ofList ((decDigitsOf n v).map fun d => Char.ofNat (48 + d))
where
  /-- The `n` low decimal digits, most significant first. -/
  decDigitsOf : Nat → Nat → List Nat
    | 0, _ => []
    | n + 1, v => decDigitsOf n (v / 10) ++ [v % 10]

/-- A response line of a session with tag `tag`: plain for a typed line, framed and checked for a machine line (R537, R540). A text
beyond the 240 characters of R532 is cut. -/
def responseLine (tag : Option String) (body : String) : String :=
  match tag with
  | none => String.ofList (body.toList.take 240)
  | some t =>
    let covered := "#" ++ t ++ " " ++ String.ofList (body.toList.take (240 - t.length - 8))
    covered ++ " *" ++ hexText 4 (crc16 (asciiBytes covered)).toNat

/-- The state with a Narga session changed. -/
def State.modSess (s : State) (i : Session) (f : SessSt → SessSt) : State :=
  s.modNarga fun n => { n with sess := n.sess.set i (f n.sess[i]) }

/-- Lines go out on CON0 or into the tunnel answer of a session (R532, R549). -/
def State.nargaSend (s : State) (i : Session) (lines : List String) : State :=
  s.modNarga fun n => { n with sent := n.sent ++ lines.map fun t => (i, t) }

/-- How many lines fit in `room` bytes, each with its CR LF. -/
def linesThatFit : Nat → List String → Nat
  | _, [] => 0
  | room, t :: rest => if t.length + 2 ≤ room then 1 + linesThatFit (room - (t.length + 2)) rest else 0

/-- The prompt of a session (R537). -/
def State.prompt (s : State) (i : Session) : String := if s.narga.sess[i].expert then "x> " else "> "

/-- Narga's answer text is placed in TXN_W_ABUF with its LEN and STATUS in TXN_W_ARG (R549). -/
def State.wText (s : State) (text : List Byte) (status : Nat) : State :=
  let t := text.take 244
  (s.each (List.range 64) fun s j => s.setReg (Reg.txnWAbuf j) (wordAt t (4 * j))).setReg Reg.txnWArg
    (BitVec.ofNat 32 (status * 2 ^ 24 + t.length * 65536))

/-- The bytes of lines, each with its CR LF. -/
def lineBytes (lines : List String) : List Byte := lines.flatMap fun t => asciiBytes t ++ [0x0D, 0x0A]

/-- A tunnel answer carries the lines that fit in 244 bytes and keeps the rest for `more` (R549). -/
def State.tunnelSend (s : State) (i : Session) (lines : List String) : State :=
  let k := linesThatFit 244 lines
  let s := s.wText (lineBytes (lines.take k)) (b2n (decide (k < lines.length)))
  (s.nargaSend i (lines.take k)).modSess i fun x => { x with remaining := lines.drop k }

/-- A response of a session: data lines and a final status line (R537, R540 to R542). A machine response is stored (R541); a typed
one is followed by the prompt. -/
def State.respond (s : State) (i : Session) (tag : Option String) (data : List String) (final : String) : State :=
  let lines := (data.map fun d => responseLine tag ("= " ++ d)) ++ [responseLine tag final]
  match tag with
  | none => (s.nargaSend i lines).nargaSend i [s.prompt i]
  | some _ =>
    let s := s.modSess i fun x => { x with stored := lines }
    if i = 0 then s.nargaSend i lines else s.tunnelSend i lines

/-- A line of the response while the command goes on: BZ 501 or a data line (R546, R592). It joins the stored response of its own
line; a tunnel session's answer is given when the command ends (R566). -/
def State.respondPart (s : State) (i : Session) (tag : Option String) (body : String) : State :=
  let line := responseLine tag body
  let s := s.modSess i fun x => if (x.lastTag.map fun p => p.1) = tag then { x with stored := x.stored ++ [line] } else x
  if i = 0 then s.nargaSend i [line] else s

/-- The final status line of a command that ran in the background (R546). -/
def State.respondLate (s : State) (i : Session) (tag : Option String) (final : String) : State :=
  let s := (s.respondPart i tag final).modSess i fun x => { x with busy := false }
  if i ≠ 0 then s.tunnelSend i (s.narga.sess[i]).stored
  else if tag.isNone then s.nargaSend i [s.prompt i] else s

/-- Text echoed on CON0 (R536). -/
def State.echo (s : State) (t : String) : State := s.nargaSend 0 [t]

/-- The longest typed text that is kept: a line beyond 255 characters is discarded (R534). -/
def typedMax : Nat := 256

/-- Whether the line that `b` joins is a machine line: its first byte is `#` (R538). -/
def machineLine (typed : List Byte) (b : Byte) : Bool := decide (typed.headD b = 0x23)

/-- The editing bytes of a typed line (R536). -/
def editByte (b : Byte) : Bool := decide (b = 0x08 ∨ b = 0x7F ∨ b = 0x15 ∨ b = 0x03)

/-- The echo of a line end. -/
def crlf : String := asciiText [0x0D, 0x0A]

/-- The line so far is replaced; an empty one holds no byte with an error. -/
def State.typedSet (s : State) (l : List Byte) : State := s.modNarga fun n => { n with typed := l, typedBad := n.typedBad && !l.isEmpty }

/-- BS or DEL erases the last byte of a typed line and is echoed as BS, space, BS (R536). -/
def State.typedErase (s : State) : State := (s.typedSet s.narga.typed.dropLast).echo (asciiText [8, 0x20, 8])

/-- 15h erases the whole typed line and is echoed as CR LF (R536). -/
def State.typedKill (s : State) : State := (s.typedSet []).echo crlf

/-- 03h discards the typed line, is echoed as `^C` CR LF and is answered with the prompt (R536). -/
def State.typedCancel (s : State) : State := ((s.typedSet []).echo ("^C" ++ crlf)).nargaSend 0 [s.prompt 0]

/-- The line on CON0 ends (R532): a typed one echoes CR LF; one without a token is answered with the prompt (R536), any other is read and
taken next. -/
def State.typedEnd (s : State) : State :=
  let line := readLine 0 s.narga.typedBad s.narga.typed
  let s := if machineLine s.narga.typed 0 then s else s.echo crlf
  let s := s.typedSet []
  match line with
  | none => s.nargaSend 0 [s.prompt 0]
  | some x => s.modNarga fun n => { n with ended := n.ended ++ [x] }

/-- A byte that Wellhead takes from CON0, `bad` with a UART error: it ends the line, edits a typed line, or joins the line; a typed line echoes
it, a machine line does not (R532, R536, R538). An LF right after the CR that ended a line is ignored. -/
def State.nargaByte (s : State) (b : Byte) (bad : Bool) : State :=
  let machine := machineLine s.narga.typed b
  let afterCr := s.narga.cr
  let s := s.modNarga fun n => { n with cr := decide (b = 0x0D) }
  if b = 0x0A ∧ afterCr then s
  else if b = 0x0D ∨ b = 0x0A then s.typedEnd
  else if editByte b && !machine then
    if b = 0x15 then s.typedKill else if b = 3 then s.typedCancel else s.typedErase
  else
    let s := s.modNarga fun n => { n with typed := (n.typed ++ [b]).take typedMax, typedBad := n.typedBad || bad }
    if machine then s else s.echo (asciiText [b])

/-- The session leaves expert level: 0741h with the cause, 0 by command, 1 idle, 2 at the session's end, 3 Wellhead's restart (R557; log 8). -/
def State.expertEnd (s : State) (i : Session) (cause : Nat) : State :=
  if (s.narga.sess[i]).expert then
    (s.modSess i fun z => { z with expert := false }).hlog 0x0741 sevNotice 0x60 [BitVec.ofNat 8 i.val, BitVec.ofNat 8 cause]
  else s

/-- Empties the staging area (R553): its 144 bytes read 00h. -/
def State.emptyStaging (s : State) : State := s.putBytes 0x017A2000 (List.replicate 144 0)

/-- Wellhead stops or restarts: every session returns to basic level, commands and stored responses are lost (R568). -/
def State.nargaLost (s : State) : State :=
  s.modNarga fun n => { n with sess := Vector.replicate 9 {}, typed := [], typedBad := false, cr := false, ended := [], waiting := [], jobs := [], updateLock := false, resetDevice := false, resetCore := none }

/-- Narga answers from the moment Wellhead runs (R569). -/
def State.nargaReady (s : State) : State := s.nargaSend 0 ["OK 000 narga ready", "> "]

end Sys2Proof.Machine
end

