-- ==== Sys2Proof/Machine/Mesh.lean ====
section
/-! DEFINITION. The mesh (spec/14): routes, local delivery, broadcasts, tags, the answer cache and the transaction commands. -/

namespace Sys2Proof.Machine

/-! ### Routing (R495 to R502) -/

/-- RT_NODE.V. -/
def State.nodeValid (s : State) : Bool := bit s.mesh.node 31
/-- RT_NODE.NODE. -/
def State.nodeId (s : State) : BitVec 12 := s.mesh.node.setWidth 12

/-- The routing entry of a node (R498, R519). -/
def State.routeEntry (s : State) (n : BitVec 12) : Nat := field (s.reg (Reg.rtRoute (n.toNat / 8))) (4 * (n.toNat % 8)) 4

/-- The state with a routing entry set. -/
def State.setRouteEntry (s : State) (n : BitVec 12) (v : Nat) : State :=
  let a := Reg.rtRoute (n.toNat / 8)
  let k := 4 * (n.toNat % 8)
  let old := (s.reg a).toNat
  s.setReg a (BitVec.ofNat 32 (old - field (s.reg a) k 4 * 2 ^ k + v * 2 ^ k))

/-- How many entries of a routing register name port `p`. -/
def entriesNaming (w : Word) (p : Nat) : Nat := ((List.range 8).filter fun i => decide (field w (4 * i) 4 = p)).length

/-- How many routing entries name port `p`. -/
def State.routesTo (s : State) (p : Port) : Nat :=
  ((s.regs.filter fun e => decide (Reg.rtRoute 0 ≤ e.1 ∧ e.1 < Reg.rtRoute 512)).map fun e => entriesNaming e.2 p.val).sum

/-- The kinds of route drop with their counters (R499). -/
inductive DropKind where
  | drop | noRoute | back
  deriving DecidableEq, Repr

/-- A frame is dropped: counted in the named counter, event 0630h at most once per second per kind (R499). -/
def State.routeDrop (s : State) (k : DropKind) (dst : BitVec 12) : State :=
  let (a, i) := match k with
    | .drop => (0x04064020, 0) | .noRoute => (0x04064024, 1) | .back => (0x04064028, 2)
  let s := s.countReg a
  let s := if k = .noRoute then s.setBits Reg.rtEvt 2 else s
  s.hlogKey i 0x0630 sevNotice 0xFF (seconds 1) (BitVec.ofNat 8 i :: beBytes 2 dst.toNat)

/-- A malformed local delivery is counted and logged at most once per second (R508). -/
def State.malformed (s : State) (f : Frame) : State :=
  ((s.countReg Reg.rtCntMalf).setBits Reg.rtEvt 4).hlogLim 0x0632 sevNotice 0xFF (seconds 1) (beBytes 2 f.src.toNat)

/-- A frame joins the queue of its class on a port. -/
def State.enqueue (s : State) (p : Port) (origin : Option Port) (f : Frame) : State :=
  let c : Fin 4 := Fin.ofNat 4 f.tc.toNat
  s.modPort p fun x => { x with
    queues := x.queues.set c (x.queues[c] ++ [(origin, f)]), ages := if x.queues[c].isEmpty then x.ages.set c 0 else x.ages }

/-- Where a DATA frame goes: here, to a port, or nowhere (R499). -/
inductive Route where
  | here | port (p : Port) | dropped (k : DropKind)
  deriving DecidableEq, Repr

/-- The route of a destination; `avoid` is the port it arrived on, or that handed it back. -/
def State.route (s : State) (dst : BitVec 12) (avoid : Option Port) : Route :=
  if dst = s.nodeId then .here
  else
    let e := s.routeEntry dst
    if e < 4 then
      let p : Port := Fin.ofNat 4 e
      if avoid = some p then .dropped .back else if (s.port p).inFlow then .port p else .dropped .noRoute
    else .dropped .drop

/-- A frame that this node sends (a request, an answer) is routed, delivered here or dropped (R499). -/
def State.sendOwn (s : State) (f : Frame) : State :=
  match s.route f.dst none with
  | .here => s.modMesh fun m => { m with arrivals := m.arrivals ++ [(none, f)] }
  | .port p => s.enqueue p none f
  | .dropped k => s.routeDrop k f.dst

/-- An accepted DATA frame of port `p`: delivered locally, sent on, or dropped. It stays in the receive area until it is delivered or
placed in the onward replay buffer (R499, R500). -/
def State.routeArrived (s : State) (p : Port) (f : Frame) : State :=
  match s.route f.dst (some p) with
  | .here => (s.areaTake p f [none]).modMesh fun m => { m with arrivals := m.arrivals ++ [(some p, f)] }
  | .port q => (s.areaTake p f [some q]).enqueue q (some p) f
  | .dropped k => (s.areaTake p f [none]).areaFreeFrame (some p) f none |>.routeDrop k f.dst

/-! ### The ring and broadcasts (R503, R518) -/

/-- TXN_RING.SLOTS. -/
def State.ringSlots (s : State) : Nat := field (s.reg Reg.txnRing) 24 8

/-- The ring is full when RHEAD + 1 equals RTAIL modulo SLOTS; a ring without slots is full (R518). -/
def State.ringFull (s : State) : Bool :=
  let n := s.ringSlots
  decide (n < 2) || decide ((s.mesh.rhead.toNat + 1) % n = field (s.reg Reg.txnRtail) 0 8 % n)

/-- A request or broadcast is written to the ring and RHEAD advanced (R518). -/
def State.ringWrite (s : State) (type entry : Nat) (f : Frame) : State :=
  let base := (s.reg Reg.txnRing).toNat % 2 ^ 21 / 16 * 16 + s.mesh.rhead.toNat * 272
  let head := [BitVec.ofNat 8 type, BitVec.ofNat 8 entry] ++ leBytes 2 f.src.toNat ++ leBytes 2 f.payload.length ++
    [f.tc.setWidth 8] ++ List.replicate 9 0
  let s := s.each ((head ++ f.payload).zipIdx) fun s b =>
    let a := base + b.2
    if region a = .sram then s.setByte a b.1 else s
  s.modMesh fun m => { m with rhead := BitVec.ofNat 8 ((m.rhead.toNat + 1) % s.ringSlots) }

/-- The last epoch and sequence accepted from a source (R503). -/
def MeshSt.bcastOf (m : MeshSt) (src : BitVec 12) : Option (Half × BitVec 12) :=
  (m.bcasts.find? fun e => e.1 = src.toNat).map fun e => e.2

/-- Whether a broadcast is new (R503). -/
def MeshSt.bcastNew (m : MeshSt) (src : BitVec 12) (epoch : Half) (seq : BitVec 12) : Bool :=
  match m.bcastOf src with
  | none => true
  | some (e, q) => decide (e ≠ epoch) || (decide (1 ≤ (seq - q).toNat) && decide ((seq - q).toNat ≤ 2047))

/-- An accepted broadcast goes to the ring and to every port in Flow but its arrival port (R503); a full ring drops it (R518). -/
def State.bcastDeliver (s : State) (p : Port) (f : Frame) : State :=
  let s := if s.ringFull then s.modMesh fun m => { m with dropped := m.dropped + 1 } else (s.ringWrite 2 0 f).setBits Reg.txnEvt 2
  let onward := allPorts.filter fun q => decide (q ≠ p) && (s.port q).inFlow
  let s := s.areaTake p f (none :: onward.map some)
  (s.each onward fun s q => s.enqueue q (some p) f).areaFreeFrame (some p) f none

/-- A received BCAST frame that goes no further passes through the receive storage, which its units have paid for (R477). -/
def State.bcastDone (s : State) (p : Port) (f : Frame) : State := (s.areaTake p f [none]).areaFreeFrame (some p) f none

/-- A received BCAST frame (R503): one of the node's own, a duplicate, or one to deliver and flood. -/
def State.bcastArrived (s : State) (p : Port) (f : Frame) : State :=
  if f.payload.length < 2 then (s.bcastDone p f).malformed f
  else if f.src = s.nodeId then s.bcastDone p f
  else
    let epoch := BitVec.ofNat 16 (beNat (f.payload.take 2))
    if s.mesh.bcastNew f.src epoch f.dst then
      let s := s.modMesh fun m => { m with
        bcasts := (f.src.toNat, epoch, f.dst) :: m.bcasts.filter fun e => decide (e.1 ≠ f.src.toNat) }
      s.bcastDeliver p f
    else (s.bcastDone p f).countReg Reg.rtCntBdup

/-! ### Tags (R509 to R512) -/

/-- The class of a KIND (R506). -/
def kindClass (kind : Nat) : BitVec 2 := match kind with | 1 => 0 | 2 => 1 | 3 => 2 | _ => 3

/-- The first payload byte's KIND. -/
def kindOf (payload : List Byte) : Nat := (payload.headD 0).toNat / 16

/-- The request word or answer word of a payload. -/
def wordOf (payload : List Byte) : BitVec 64 := BitVec.ofNat 64 (beNat ((payload ++ List.replicate 8 0).take 8))

/-- The commit-ID value: the request word with RESENT at 0 (R506). -/
def commitId (w : BitVec 64) : BitVec 64 := w &&& ~~~ (0x0800000000000000 : BitVec 64)

/-- A DATA frame of this node. -/
def State.dataFrame (s : State) (dst : BitVec 12) (tc : BitVec 2) (payload : List Byte) : Frame :=
  { type := typeData, tc, seq := 0, ack := 0, len := BitVec.ofNat 9 payload.length, dst, src := s.nodeId, hld := false, payload }

/-- A tag's request is sent, with RESENT set on every send after the first (R510). -/
def State.tagSend (s : State) (t : Tag) : State :=
  let x := s.mesh.tags[t]
  let first := decide (x.sends = 0)
  let payload := if first then x.req else (x.req.headD 0 ||| 0x08) :: x.req.drop 1
  let s := s.modTag t fun x => { x with
    state := .sent, sends := if x.sends = 0xFF then 0xFF else x.sends + 1, firstAt := if first then s.us else x.firstAt }
  s.sendOwn (s.dataFrame x.dst (kindClass (kindOf x.req)) payload)

/-- Whether a tag's route is usable: a port in Flow, or local (R510). -/
def State.tagRoutable (s : State) (t : Tag) : Bool :=
  match s.route (s.mesh.tags[t]).dst none with | .here => true | .port _ => true | .dropped _ => false

/-- All tags in ascending order. -/
def allTags : List Tag := List.ofFn fun (i : Fin 64) => i

/-- A SENT tag is sent again unless 1.5 s have passed since its first send (R510). -/
def State.tagResend (s : State) (t : Tag) : State :=
  let x := s.mesh.tags[t]
  if x.state = .sent ∧ s.us ≤ x.firstAt + 1500000 then s.tagSend t else s

/-- A WAIT tag whose route has become usable is sent (R510). -/
def State.tagWake (s : State) (t : Tag) : State :=
  if (s.mesh.tags[t]).state = .wait ∧ s.tagRoutable t then s.tagSend t else s

/-- A port enters Flow: waiting tags with a usable route are sent, and every SENT tag is sent again (R510). -/
def State.flowEntered (s : State) : State :=
  let sent := allTags.filter fun t => decide ((s.mesh.tags[t]).state = .sent)
  s.each allTags (fun s t => s.tagWake t) |>.each sent fun s t => s.tagResend t

/-- Routing entries have changed: the tags of those destinations are sent, or sent again (R510). -/
def State.routesChanged (s : State) (hit : BitVec 12 → Bool) : State :=
  s.each allTags fun s t =>
    let x := s.mesh.tags[t]
    if hit x.dst then (if x.state = .wait then s.tagWake t else s.tagResend t) else s

/-- A tag ends DONE with an outcome; its bit in TXN_DONE is set (R511, R512). -/
def State.tagDone (s : State) (t : Tag) (outcome : Nibble) : State :=
  (s.modTag t fun x => { x with state := .done, outcome }).setBits (Reg.txnDone (t.val / 32)) (BitVec.ofNat 32 (2 ^ (t.val % 32)))

/-- Outcomes (Table 14.1). -/
def outSuccess : Nibble := 0
def outUnknown : Nibble := 1
def outTimeout : Nibble := 2
def outBusy : Nibble := 3
def outMalformed : Nibble := 4
def outLost : Nibble := 5

/-- The outcome of an answer's STATUS (Table 14.1). -/
def statusOutcome (status : Nat) : Nibble :=
  if status < 0x80 then outSuccess else if status = 0x80 then outUnknown else if status = 0x81 then outBusy else outMalformed

/-! ### Answers (R507, R516) -/

/-- The payload of an answer (R507). -/
def answerPayload (request : BitVec 64) (replayed : Bool) (status : Nat) (epoch : Half) (data : List Byte) : List Byte :=
  let w := (commitId request).toNat + 2 ^ 63 + b2n replayed * 2 ^ 59
  beBytes 8 w ++ [BitVec.ofNat 8 status, 0] ++ beBytes 2 epoch.toNat ++ data

/-- An answer goes to a request's source on the request's class (R507). -/
def State.sendAnswer (s : State) (src : BitVec 12) (tc : BitVec 2) (payload : List Byte) : State :=
  s.sendOwn (s.dataFrame src tc payload)

/-- An answer that this part gives without firmware. -/
def State.answerNow (s : State) (f : Frame) (status : Nat) : State :=
  s.sendAnswer f.src f.tc (answerPayload (wordOf f.payload &&& 0xF0FFFFFFFFFFFFFF) false status s.mesh.epoch [])

/-- All cache entries in ascending order. -/
def allEntries : List Entry := List.ofFn fun (i : Fin 256) => i

/-- The entry that holds a source and commit-ID value (R514). -/
def MeshSt.lookup (m : MeshSt) (src : BitVec 12) (key : BitVec 64) : Option Entry :=
  allEntries.find? fun e => let x := m.cache[e]; decide (x.state ≠ .free) && decide (x.src = src) && decide (x.key = key)

/-- The entry that a new request takes: a free one, else the one COMPLETE for 2 s that completed first (R515). -/
def MeshSt.takeEntry (m : MeshSt) : Option Entry :=
  match allEntries.find? fun e => decide ((m.cache[e]).state = .free) with
  | some e => some e
  | none =>
    (allEntries.filter fun e => decide ((m.cache[e]).state = .complete) && (m.cache[e]).aged).foldl (fun b e =>
      match b with
      | none => some e
      | some d => if (m.cache[e]).doneSeq < (m.cache[d]).doneSeq then some e else some d) none

/-- A double-bit error in the answer cache frees every entry; resends that miss are refused for 2 s (R529). -/
def State.cacheLost (s : State) : State :=
  (s.modMesh fun m => { m with cache := Vector.replicate 256 {}, young := true }).hlog 0x0650 sevNotice 0xFF []

/-- The commands' results (R521). -/
def txnOk : Nat := 0
def txnNoTag : Nat := 1
def txnBadReq : Nat := 2
def txnDupKey : Nat := 3
def txnNotOwner : Nat := 4
def txnNotHalted : Nat := 5
def txnBadEntry : Nat := 6
def txnNoNode : Nat := 7
def txnFreeTag : Nat := 8

/-- ANSWER for an entry: the answer is sent, stored and the entry COMPLETE, or the result that refuses it (R516). -/
def State.giveAnswer (s : State) (e : Entry) (status : Nat) (data : List Byte) (lenOk : Bool) : State × Nat :=
  let x := s.mesh.cache[e]
  if x.state ≠ .pending then (s, txnBadEntry)
  else if 0x80 ≤ status ∨ ¬ lenOk then (s, txnBadReq)
  else
    let payload := answerPayload x.key false status s.mesh.epoch data
    let s := s.modEnt e fun x => { x with state := .complete, answer := payload, doneSeq := s.mesh.doneCount, aged := false }
    ((s.modMesh fun m => { m with doneCount := m.doneCount + 1 }).sendAnswer x.src x.tc payload, txnOk)

/-! ### Requests (R508, R514) -/

/-- Whether a request is malformed (R508). -/
def requestBad (f : Frame) : Bool :=
  decide (f.payload.length < 8) || decide (f.tc ≠ kindClass (kindOf f.payload)) || decide ((f.payload.headD 0).toNat % 8 ≠ 0)

/-- Whether a request is a tunnel line: MGMT whose first data byte is 23h (R548). -/
def tunnelLine (f : Frame) : Bool := decide (kindOf f.payload = 4) && decide (f.payload[8]? = some 0x23)

/-- A request that is to be executed takes an entry and goes to the ring or to the Wellhead slot (R514, R523). -/
def State.execRequest (s : State) (f : Frame) : State :=
  match s.mesh.takeEntry with
  | none => (s.hlogLim 0x0633 sevNotice 0xFF (seconds 1) (beBytes 2 f.src.toNat)).answerNow f 0x81
  | some e =>
    if (if tunnelLine f then s.mesh.wPend else s.ringFull) then
      ((s.setBits Reg.txnEvt 4).hlog 0x0636 sevNotice 0xFF (beBytes 2 f.src.toNat)).answerNow f 0x81
    else
      let s := s.modEnt e fun _ => { state := .pending, src := f.src, key := commitId (wordOf f.payload), tc := f.tc }
      if tunnelLine f then s.modMesh fun m => { m with wPend := true, wEntry := e, wSrc := f.src, wReq := f.payload }
      else (s.ringWrite 1 e.val f).setBits Reg.txnEvt 1

/-- The responder's decision on a request (R508, Table 14.2). -/
def State.takeRequest (s : State) (f : Frame) : State :=
  if requestBad f then s.answerNow f 0x82
  else
    let w := wordOf f.payload
    match s.mesh.lookup f.src (commitId w) with
    | some e =>
      let x := s.mesh.cache[e]
      if x.state = .complete then s.sendAnswer f.src f.tc ((x.answer.headD 0 ||| 0x08) :: x.answer.drop 1) else s
    | none =>
      if bit w 59 ∧ s.mesh.young then (s.hlog 0x0634 sevNotice 0xFF (beBytes 2 f.src.toNat)).answerNow f 0x80
      else s.execRequest f

/-- Whether the payload of a local delivery is an answer (R508). -/
def isAnswer (f : Frame) : Bool := decide (9 ≤ kindOf f.payload ∧ kindOf f.payload ≤ 12) && !f.payload.isEmpty

/-- Whether it is a request (R508). -/
def isRequest (f : Frame) : Bool := decide (1 ≤ kindOf f.payload ∧ kindOf f.payload ≤ 4) && !f.payload.isEmpty

/-- The oldest local delivery is taken and its receive space freed (R500). -/
def State.takeArrival (s : State) (origin : Option Port) (f : Frame) : State :=
  (s.modMesh fun m => { m with arrivals := m.arrivals.drop 1 }).areaFreeFrame origin f none

/-- REQUEST_ARRIVAL: the oldest local delivery, when it is no answer, is answered, dropped or executed (R508, R514). -/
def execRequestArrival (cacheDouble : Bool) (s : State) : Host.Outcome State Fault Refusal :=
  match s.mesh.arrivals with
  | [] => .next s
  | (o, f) :: _ =>
    if isAnswer f then .next s
    else
      let s := s.takeArrival o f
      let s := if cacheDouble then s.cacheLost else s
      .next (if isRequest f then s.takeRequest f else s.malformed f)

/-- The tag that an answer matches (R511). -/
def MeshSt.matchTag (m : MeshSt) (f : Frame) : Option Tag :=
  allTags.find? fun t =>
    let x := m.tags[t]
    decide (x.state = .sent) && decide (x.dst = f.src) &&
      decide (commitId (wordOf x.req) ||| 0x8000000000000000 = (wordOf f.payload &&& 0xF0FFFFFFFFFFFFFF))

/-- An answer completes its SENT tag (R511). -/
def State.completeTag (s : State) (t : Tag) (f : Frame) : State :=
  let status := (f.payload.getD 8 0).toNat
  let x := s.mesh.tags[t]
  let s := s.each f.payload.zipIdx fun s b => s.setByte (x.abuf + b.2) b.1
  let s := s.modTag t fun x => { x with
    status := BitVec.ofNat 8 status, replayed := bit (wordOf f.payload) 59, epoch := BitVec.ofNat 16 (beNat ((f.payload.drop 10).take 2)) }
  s.tagDone t (statusOutcome status)

/-- An answer that matches no SENT tag is dropped as late (R511). -/
def State.lateAnswer (s : State) (f : Frame) : State :=
  ((s.countReg Reg.txnCntLate).setBits Reg.txnEvt 8).hlogLim 0x0637 sevNotice 0xFF (seconds 1) (beBytes 2 f.src.toNat)

/-- ANSWER_ARRIVAL: the oldest local delivery, when it is an answer, completes its tag or is dropped (R508, R511); a tag with a
double-bit error is LOST (R529). -/
def execAnswerArrival (tagDouble : Bool) (s : State) : Host.Outcome State Fault Refusal :=
  match s.mesh.arrivals with
  | [] => .next s
  | (o, f) :: _ =>
    if ¬ isAnswer f then .next s
    else
      let s := s.takeArrival o f
      if f.payload.length < 12 then .next (s.malformed f)
      else match s.mesh.matchTag f with
        | none => .next (s.lateAnswer f)
        | some t =>
          if tagDouble then .next (((s.tagDone t outLost).hlog 0x0651 sevNotice 0xFF [BitVec.ofNat 8 t.val]).lateAnswer f)
          else .next (s.completeTag t f)

/-! ### The slots of the ledger cores (R509, R512, R516, R521, R522) -/

/-- Slot c's ARG fields. -/
def State.slotDst (s : State) (c : Core) : BitVec 12 := (s.reg (Reg.txnArg c.val)).setWidth 12
def State.slotLen (s : State) (c : Core) : Nat := field (s.reg (Reg.txnArg c.val)) 16 9
def State.slotAddr (s : State) (c : Core) : Nat := field (s.reg (Reg.txnAddr c.val)) 0 21
def State.slotAbuf (s : State) (c : Core) : Nat := field (s.reg (Reg.txnAbuf c.val)) 0 21

/-- The answer fields of an ARG register: STATUS in [31:24] and LEN, at most 244, in [23:16] (DEDUCED, log 20). -/
def answerArg (v : Word) : Nat × Nat := (field v 24 8, field v 16 8)

/-- The tag that a SUBMIT takes, or the result that refuses it (R495, R509). -/
def State.submitCheck (s : State) (c : Core) : Except Nat Tag :=
  let len := s.slotLen c
  let payload := s.bytes (s.slotAddr c) len
  let w := wordOf payload
  if ¬ s.nodeValid then .error txnNoNode
  else if len < 8 ∨ 256 < len ∨ kindOf payload < 1 ∨ 4 < kindOf payload ∨ (payload.headD 0).toNat % 16 ≠ 0 ∨
      0x200000 < s.slotAddr c + len ∨ 0x200000 < s.slotAbuf c + 256 then .error txnBadReq
  else if allTags.any fun t =>
      let x := s.mesh.tags[t]
      decide (x.state ≠ .free) && decide (x.dst = s.slotDst c) && decide (commitId (wordOf x.req) = commitId w) then .error txnDupKey
  else match allTags.find? fun t => decide ((s.mesh.tags[t]).state = .free) with
  | none => .error txnNoTag
  | some t => .ok t

/-- A slot's RSP: RESULT, TAG and DONE (R521). -/
def State.slotRsp (s : State) (c : Core) (result tag : Nat) : State :=
  s.setReg (Reg.txnRsp c.val) (BitVec.ofNat 32 (2 ^ 31 + tag * 256 + result))

/-- SUBMIT (R509, R510). -/
def State.txnSubmit (s : State) (c : Core) : State :=
  match s.submitCheck c with
  | .error r => s.slotRsp c r 0
  | .ok t =>
    let s := s.modTag t fun _ =>
      { state := .wait, owner := c, dst := s.slotDst c, req := s.bytes (s.slotAddr c) (s.slotLen c), abuf := s.slotAbuf c }
    (s.slotRsp c txnOk t.val).tagWake t

/-- TAG and ENTRY of a command. -/
def cmdTag (v : Word) : Tag := Fin.ofNat 64 (field v 8 6)
def cmdEntry (v : Word) : Entry := Fin.ofNat 256 (field v 16 8)

/-- RELEASE (R512, R521). -/
def State.txnRelease (s : State) (c : Core) (t : Tag) : State :=
  let x := s.mesh.tags[t]
  if x.state = .done ∧ x.owner = c then (s.modTag t fun _ => {}).slotRsp c txnOk t.val else s.slotRsp c txnNotOwner t.val

/-- CLAIM (R522). -/
def State.txnClaim (s : State) (c : Core) (t : Tag) : State :=
  let x := s.mesh.tags[t]
  if x.state = .free then s.slotRsp c txnFreeTag t.val
  else if (s.core x.owner).core = .halted then (s.modTag t fun x => { x with owner := c }).slotRsp c txnOk t.val
  else s.slotRsp c txnNotHalted t.val

/-- ANSWER from a core's slot (R516). -/
def State.txnAnswer (s : State) (c : Core) (e : Entry) : State :=
  let (status, len) := answerArg (s.reg (Reg.txnArg c.val))
  let ok := decide (len ≤ 244 ∧ s.slotAddr c + len ≤ 0x200000)
  let (s, r) := s.giveAnswer e status (s.bytes (s.slotAddr c) len) ok
  s.slotRsp c r 0

/-- BCAST (R503, R521): DST carries the broadcast sequence and the payload begins with the epoch. -/
def State.txnBcast (s : State) (c : Core) : State :=
  let len := s.slotLen c
  if ¬ s.nodeValid then s.slotRsp c txnNoNode 0
  else if 254 < len ∨ 0x200000 < s.slotAddr c + len then s.slotRsp c txnBadReq 0
  else
    let payload := beBytes 2 s.mesh.epoch.toNat ++ s.bytes (s.slotAddr c) len
    let f : Frame := { type := typeBcast, tc := BitVec.ofNat 2 (field (s.reg (Reg.txnArg c.val)) 12 2), seq := 0, ack := 0,
                       len := BitVec.ofNat 9 payload.length, dst := s.mesh.bseq, src := s.nodeId, hld := false, payload }
    let s := s.modMesh fun m => { m with bseq := m.bseq + 1 }
    (s.each allPorts fun s q => if (s.port q).inFlow then s.enqueue q none f else s).slotRsp c txnOk 0

/-- The commit of TXN_Sc_CMD by core c (R521); a reserved CODE sets TXN_STAT.RESW. -/
def State.txnCommand (s : State) (c : Core) (v : Word) : State :=
  match field v 0 4 with
  | 1 => s.txnSubmit c
  | 2 => s.txnRelease c (cmdTag v)
  | 3 => s.txnClaim c (cmdTag v)
  | 4 => s.txnAnswer c (cmdEntry v)
  | 5 => s.txnBcast c
  | _ => s.setBits Reg.txnStat 0x80000000

/-- A command row of a core's slot: the commit, when CMD carries the row's code. -/
def txnRow (code : Nat) (c : Core) (v : Word) (s : State) : Host.Outcome State Fault Refusal :=
  if field v 0 4 = code then .next (s.txnCommand c v) else .next s

/-- TXN_SUBMIT (R509). -/
def execTxnSubmit (c : Core) (v : Word) (s : State) : Host.Outcome State Fault Refusal := txnRow 1 c v s
/-- TXN_RELEASE (R512). -/
def execTxnRelease (c : Core) (v : Word) (s : State) : Host.Outcome State Fault Refusal := txnRow 2 c v s
/-- TXN_CLAIM (R522). -/
def execTxnClaim (c : Core) (v : Word) (s : State) : Host.Outcome State Fault Refusal := txnRow 3 c v s
/-- TXN_ANSWER (R516). -/
def execTxnAnswer (c : Core) (v : Word) (s : State) : Host.Outcome State Fault Refusal := txnRow 4 c v s
/-- TXN_BCAST (R521). -/
def execTxnBcast (c : Core) (v : Word) (s : State) : Host.Outcome State Fault Refusal := txnRow 5 c v s

/-! ### The Wellhead slot and tunnelled lines (R523, R548 to R551) -/

/-- The Wellhead slot's RSP. -/
def State.wRsp (s : State) (result : Nat) : State := s.setReg Reg.txnWRsp (BitVec.ofNat 32 (2 ^ 31 + result))

/-- ANSWER through the Wellhead slot (R516, R523). -/
def State.wAnswer (s : State) (e : Entry) : State :=
  let (status, len) := answerArg (s.reg Reg.txnWArg)
  let data := ((List.range 64).flatMap fun j => leBytes 4 (s.reg (Reg.txnWAbuf j)).toNat).take len
  let (s, r) := s.giveAnswer e status data (decide (len ≤ 244))
  s.wRsp r

/-- A tunnel line that is not executed is answered at once with one line. -/
def State.wRefuse (s : State) (final : String) : State :=
  let line := responseLine (some (lineTag (s.mesh.wReq.drop 8))) final
  (s.wText (asciiBytes line ++ [0x0D, 0x0A]) 0).wAnswer s.mesh.wEntry

/-- Whether `route tunnel` admits a node (R551). -/
def tunnelAdmits (t : TunnelSetting) (n : BitVec 12) : Bool :=
  match t with | .off => false | .any => true | .node id => decide (id = n)

/-- The tunnel sessions. -/
def tunnelSessions : List Session := [1, 2, 3, 4, 5, 6, 7, 8]

/-- The one of two sessions that sent its last line earlier. -/
def State.idler (s : State) (b i : Session) : Session :=
  let x := s.narga.sess[i]
  let y := s.narga.sess[b]
  if x.lastAt < y.lastAt then i else b

/-- The session of a requesting node: its own, a free one, or the one idle longest, for 60 s at least (R550). -/
def State.tunnelSession (s : State) (n : BitVec 12) : Option Session :=
  match tunnelSessions.find? fun i => (s.narga.sess[i]).active && decide ((s.narga.sess[i]).node = n) with
  | some i => some i
  | none => match tunnelSessions.find? fun i => !(s.narga.sess[i]).active with
    | some i => some i
    | none =>
      let old := tunnelSessions.foldl s.idler 1
      let x := s.narga.sess[old]
      if x.lastAt + seconds 60 ≤ s.us then some old else none

/-- TAKE clears PEND (R523). The line is refused under `route tunnel` (R551), for a CR or LF, or for want of a session (R550); otherwise
its session is open and the line is read and taken next. -/
def State.wTake (s : State) : State :=
  if ¬ s.mesh.wPend then s.wRsp txnOk
  else
    let src := s.mesh.wSrc
    let line := s.mesh.wReq.drop 8
    let s := (s.modMesh fun m => { m with wPend := false }).wRsp txnOk
    if ¬ tunnelAdmits s.narga.tunnel src then
      (s.hlogKey src.toNat 0x0744 sevNotice 0x60 (minutes 1) (beBytes 2 src.toNat)).wRefuse "ER 202 tunnel refused"
    else if line.any fun b => decide (b = 0x0D ∨ b = 0x0A) then s.wRefuse "ER 100"
    else match s.tunnelSession src with
    | none => s.wRefuse "BZ 500"
    | some i =>
      (s.modSess i fun x => if x.active ∧ x.node = src then x else { active := true, node := src, lastAt := s.us }).modNarga fun n =>
        { n with ended := n.ended ++ (readLine i false line).toList }

/-- The commit of TXN_W_CMD by Wellhead (R523). -/
def State.wCommand (s : State) (v : Word) : State :=
  match field v 0 4 with
  | 4 => s.wAnswer (cmdEntry v)
  | 6 => s.wTake
  | _ => s.setBits Reg.txnStat 0x80000000

/-- TXN_W_ANSWER (R523). -/
def execTxnWAnswer (v : Word) (s : State) : Host.Outcome State Fault Refusal :=
  if field v 0 4 = 4 then .next (s.wCommand v) else .next s

/-! ### Timers (R510, R512, R515, R517) -/

/-- RESEND_TIMER (R510). -/
def execResendTimer (t : Tag) (s : State) : Host.Outcome State Fault Refusal := .next (s.tagResend t)

/-- REQUEST_TIMEOUT (R512). -/
def execRequestTimeout (t : Tag) (s : State) : Host.Outcome State Fault Refusal :=
  let x := (s.mesh.tags[t]).state
  if x = .sent ∨ x = .wait then .next (s.tagDone t outTimeout) else .next s

/-- PENDING_EXPIRY (R517). -/
def execPendingExpiry (e : Entry) (s : State) : Host.Outcome State Fault Refusal :=
  let x := s.mesh.cache[e]
  if x.state = .pending then
    .next ((s.modEnt e fun _ => {}).hlog 0x0635 sevNotice 0xFF (beBytes 2 x.src.toNat ++ beBytes 8 x.key.toNat))
  else .next s

/-- COMPLETE_ENTRY_AGED (R515). -/
def execCompleteEntryAged (e : Entry) (s : State) : Host.Outcome State Fault Refusal :=
  .next (s.modEnt e fun x => if x.state = .complete then { x with aged := true } else x)

/-- EPOCH_WINDOW_END (R514). -/
def execEpochWindowEnd (s : State) : Host.Outcome State Fault Refusal := .next (s.modMesh fun m => { m with young := false })

end Sys2Proof.Machine
end

