-- ==== Sys2Proof/Machine/Link.lean ====
section
/-! DEFINITION. A Usdar port (spec/13): training, frames, acks, replay, violations and quarantine. -/

namespace Sys2Proof.Machine

/-! ### Port state (R454 to R457, R502) -/

/-- USD_CTRL.EN. -/
def State.usdEn (s : State) (p : Port) : Bool := bit (s.reg (Reg.usdCtrl p.val)) 0

/-- Whether a port may begin an attempt: enabled, in Dry, a node of the mesh, with the serializer clock, after the release and not
idled by the ladder (R457, R484, R494, R495, R656, Table 18.3). -/
def State.mayTrain (s : State) (p : Port) : Bool :=
  s.usdEn p && decide ((s.port p).state = .dry) && s.nodeValid && !s.power.fovr && decide (s.power.entry < 4) &&
    decide (s.power.stage = .released) && !s.power.xinAbsent

/-- A port with the fields of an attempt at their start, its transmitter idle. -/
def PortSt.fresh (x : PortSt) : PortSt :=
  { x.silent with
    rate := 0, ts1 := 0, ts2 := 0, tsSent := 0, levelIdle := false, gotOffer := false, gotSeen := false, sentSeen := false, rates := 0,
    stamps := [], echoes := 0, rttMax := 0, gotParam := false, sentParam := false, sentFlow := false, gotReady := false, sentReady := false,
    ctl := [], held := false, holding := false, nakOut := false, sinceAck := 0, replayAt := none, replayFrom := none, rxPlus := false,
    rxBad := [] }

/-- An attempt begins in Seep (R454). -/
def State.beginAttempt (s : State) (p : Port) : State :=
  if s.mayTrain p then s.modPort p fun x => { x.fresh with state := .seep, rate := 1 } else s

/-- The unit code of a port. -/
def portUnit (p : Port) : Nat := 0x30 + p.val

/-- A failure counts; the sixteenth in a row is DRY-STUCK, logged again at most once per hour (R457). -/
def State.countFailure (s : State) (p : Port) : State :=
  let x := s.port p
  let n := min 16 (x.fails + 1)
  let s := s.modPort p fun x => { x with fails := n, noBackoff := false }
  if n < 16 then s
  else
    let due := rateDue s.us (minutes 60) x.stuckAt
    let s := (s.modPort p fun x => { x with stuck := true, stuckAt := if due then some s.us else x.stuckAt }).setBits
      (Reg.usdEvt p.val) 0x20
    if due then s.hlog 0x0603 sevNotice (portUnit p) [] else s

/-- The frames waiting on a port that leaves Flow are dropped as NOROUTE (R500). -/
def State.dropQueues (s : State) (p : Port) : State :=
  let waiting := (s.port p).queues.toList.flatMap fun q => q
  let s := s.modPort p fun x => { x with queues := Vector.replicate 4 [], ages := Vector.replicate 4 0 }
  s.each waiting fun s w => (s.areaFreeFrame w.1 w.2 (some p)).routeDrop .noRoute w.2.dst

/-- RT_STAT.UNREACH of a port that has left Flow (R502). -/
def State.markUnreach (s : State) (p : Port) : State :=
  let n := s.routesTo p
  if n = 0 then s
  else ((s.modMesh fun m => { m with unreach := m.unreach ||| BitVec.ofNat 4 (2 ^ p.val) }).setBits Reg.rtEvt 1).hlog 0x0631
    sevNotice (portUnit p) (BitVec.ofNat 8 p.val :: beBytes 2 n)

/-- A port leaves Flow: event 0602h, EVT.DOWN, routes unreachable, waiting frames dropped. Its unacknowledged frames stay for a resume
(R492, R500, R502). -/
def State.leaveFlow (s : State) (p : Port) : State :=
  let s := s.modPort p fun x => { x.fresh with state := .dry, expValid := true }
  let s := (s.setBits (Reg.usdEvt p.val) 2).hlog 0x0602 sevNotice (portUnit p) []
  (s.dropQueues p).markUnreach p

/-- Whether a port is training. -/
def PortSt.training (x : PortSt) : Bool := decide (x.state = .seep ∨ x.state = .fill ∨ x.state = .level)

/-- A port leaves its state for Dry; `fail` counts it as a failure (R454, R457). -/
def State.toDry (s : State) (p : Port) (fail : Bool) : State :=
  let x := s.port p
  if x.inFlow then (if fail then (s.leaveFlow p).countFailure p else s.leaveFlow p)
  else if x.training then
    let s := s.modPort p fun x => { x.fresh with state := .dry }
    if fail then s.countFailure p else s
  else s

/-- Without resume a port hands its unacknowledged frames back to the mesh, routed again, and restarts at sequence 0; the frames held
in its receive area leave it as they go on (R463, R501). -/
def State.handBack (s : State) (p : Port) : State :=
  let frames := (s.port p).replay
  let s := s.modPort p fun x => { x with
    replay := [], replayAt := none, acked := 0xFFF, exp := 0, expValid := false,
    limit := Vector.replicate 4 0, sent := Vector.replicate 4 0, granted := Vector.replicate 4 0, taken := Vector.replicate 4 0 }
  s.each frames fun s f =>
    if f.type = typeBcast then s
    else match s.route f.dst (some p) with
    | .here => s.modMesh fun m => { m with arrivals := m.arrivals ++ [(none, f)] }
    | .port q => s.enqueue q none f
    | .dropped k => s.routeDrop k f.dst

/-- A port fails (R493): it stays in Dry, 0621h is logged, its health is FAILED for good, and routes through it are unreachable. -/
def State.portFail (s : State) (p : Port) : State :=
  let s := if (s.port p).inFlow ∨ s.mesh.unreach.getLsbD p.val then s.toDry p false else (s.toDry p false).markUnreach p
  let s := s.modPort p fun x => { x with state := .failed }
  (s.hlog 0x0621 sevError (portUnit p) []).healthNotice (portUnit p) .failed true 0x0621

/-- A double-bit buffer error: 0620h, and the third within 24 h makes the port failed (R493). -/
def State.bufferEcc (s : State) (p : Port) : State :=
  let times := s.us :: within s.us (hours 24) (s.port p).eccTimes
  let s := (s.modPort p fun x => { x with eccTimes := times }).hlog 0x0620 sevNotice (portUnit p) []
  if 3 ≤ times.length then s.portFail p else s

/-- A port reset (R672): out of Flow or training without resume; USD_STAT, USD_EVT and the counters are emptied. -/
def State.portReset (s : State) (p : Port) : State :=
  let s := (s.toDry p false).handBack p
  let s := s.modPort p fun x => { x.fresh with
    state := if x.state = .failed then .failed else .dry, fails := 0, stuck := false, stuckAt := none, partner := {}, hgMode := false,
    last := none, violSec := Vector.replicate 8 0 }
  let s := (s.setReg (Reg.usdStat p.val) 0).setReg (Reg.usdEvt p.val) 0
  s.each ((List.range 8).map (fun k => Reg.usdVcnt p.val (k + 1)) ++ (List.range 7).map fun k => Reg.usd p.val + 0x60 + 4 * k)
    fun s a => s.setReg a 0

/-! ### Violations and quarantine (R481 to R483) -/

/-- A port enters quarantine: out of Flow or training with a failure, and silent for 1 s (R483). -/
def State.quarantine (s : State) (p : Port) : State :=
  let s := (s.toDry p true).modPort p fun x => { x with state := .quarantine, noBackoff := true }
  (s.setBits (Reg.usdEvt p.val) 0x10).hlog 0x0612 sevNotice (portUnit p) []

/-- A violation of a kind with its field code and the offending header (R481 to R483): counted, logged, answered with VIOLATION unless
it is ignored or one was sent in the last 10 µs; more than 256 in the second put the port in quarantine. -/
def State.violation (s : State) (p : Port) (kind field : Nat) (header : List Byte) : State :=
  let k : Fin 8 := Fin.ofNat 8 (kind - 1)
  let a := Reg.usdVcnt p.val kind
  let s := if s.reg a = 0xFFFF then s else s.setReg a (s.reg a + 1)
  let s := s.modPort p fun x => { x with violSec := x.violSec.set k (x.violSec[k] + 1) }
  let s := (s.setBits (Reg.usdEvt p.val) 4).hlogKey (p.val * 16 + kind) 0x0610 sevNotice (portUnit p) (seconds 1) [BitVec.ofNat 8 kind]
  let x := s.port p
  let answer := decide (kind ≠ 7) && rateDue s.us 10 x.violAns
  let s := if answer then
      (s.modPort p fun x => { x with violAns := some s.us }).queueCtl p (plainFrame typeViolation 0 0
        ([BitVec.ofNat 8 kind, BitVec.ofNat 8 field] ++ beBytes 2 (min 0xFFFF x.violSec[k]) ++ header))
    else s
  if 256 < x.violSec.toList.sum then s.quarantine p else s

/-- A frame with the port's ACK and HLD as it is sent (R465, R475). -/
def PortSt.stamped (x : PortSt) (f : Frame) : Frame :=
  if f.type = typeTrain then f else { f with ack := x.exp - 1, hld := x.hgMode && x.holding }

/-- Whether sending a frame counts as sending the ack (R468). -/
def carriesAck (f : Frame) : Bool :=
  decide (f.type = typeData ∨ f.type = typeBcast ∨ f.type = typeAck ∨ f.type = typeNak ∨ f.type = typeCredit)

/-- A frame goes on the lane; an ack that waits is then as good as sent where the frame carries it (R468). -/
def PortSt.put (x : PortSt) (f : Frame) : PortSt :=
  let g := x.stamped f
  { x.transmit (frameSyms g) with
    lane := some g, sinceAck := if carriesAck f then 0 else x.sinceAck
    ctl := if carriesAck f then x.ctl.filter fun h => decide (h.type ≠ typeAck) else x.ctl }
def State.putLane (s : State) (p : Port) (f : Frame) : State := s.modPort p fun x => x.put f

/-- A port goes to Dry with a failure after its VIOLATION answer, if one is due, has gone on the lane. -/
def State.answerThenDry (s : State) (p : Port) : State :=
  let s := match (s.port p).ctl.find? fun f => decide (f.type = typeViolation) with
    | some f => s.putLane p f
    | none => s
  s.toDry p true

/-- A TRAIN field outside Table 13.3: VIOLATION, 0604h, and the attempt fails (R458, R461). -/
def State.trainReject (s : State) (p : Port) (header : List Byte) (offset : Nat) : State :=
  let s := (s.violation p 8 (0x40 + offset) header).setBits (Reg.usdEvt p.val) 0x80
  (s.hlog 0x0604 sevNotice (portUnit p) [BitVec.ofNat 8 (0x40 + offset)]).answerThenDry p

/-! ### TRAIN frames (R458 to R463) -/

/-- The big-endian two bytes of a TRAIN payload at an offset. -/
def train16 (t : TrainPayload) (o : Nat) : Nat := (t.toList.getD o 0).toNat * 256 + (t.toList.getD (o + 1) 0).toNat
/-- The byte of a TRAIN payload at an offset. -/
def train8 (t : TrainPayload) (o : Nat) : Nat := (t.toList.getD o 0).toNat

/-- The offsets of a TRAIN payload whose fields a subtype checks and finds outside Table 13.3, in order (R459). -/
def trainFlaws (node : BitVec 12) (sub : Nat) (x : PortSt) (t : TrainPayload) : List Nat :=
  let nodeBad := decide (0x1000 ≤ train16 t 2) || decide (train16 t 2 = node.toNat)
  let offer := decide (sub = 1)
  let param := decide (sub = 2)
  let sum := train16 t 0xC + train16 t 0xE + train16 t 0x10 + train16 t 0x12
  [(0, decide (train8 t 0 ≠ sub)), (1, decide (train8 t 1 ≠ 1)),
   (2, (offer && nodeBad) || (param && (nodeBad || decide (train16 t 2 ≠ x.partner.node.toNat)))),
   (4, (offer && decide (8 ≤ train8 t 4)) || (param && decide (train8 t 4 ≠ 2 ^ (x.rate - 1)))),
   (5, offer && decide (2 ≤ train8 t 5)), (6, param && decide (2 ≤ train8 t 6)),
   (7, param && decide (train8 t 7 < 1 ∨ 64 < train8 t 7)), (8, param && decide (train8 t 8 < 1 ∨ 128 < train8 t 8)),
   (9, decide (train8 t 9 ≠ 0)), (0xA, param && decide (train16 t 0xA < 1024)),
   (0xC, param && decide (train16 t 0xC < 5)), (0xE, param && decide (train16 t 0xE < 5)),
   (0x10, param && decide (train16 t 0x10 < 5)), (0x12, param && decide (train16 t 0x12 < 5)),
   (0x14, param && (decide (train16 t 0x14 < 64 ∨ 4096 < train16 t 0x14) || decide (train16 t 0x14 < sum))),
   (0x16, param && decide (train16 t 0x16 ≠ 0x100)), (0x1A, param && decide (train16 t 0x1A / 4096 % 8 ≠ 0)),
   (0x1C, decide (sub = 4) && !x.stamps.any fun v => decide (v.toNat = train16 t 0x1C)),
   (0x1E, decide (train16 t 0x1E ≠ 0))].filterMap fun e => if e.2 then some e.1 else none

/-- The headroom of HOLD/GO in bytes that a round trip needs: ⌈RTT × B⌉ + 528 (R474). -/
def headroomOf (rttNs rate : Nat) : Nat :=
  let per := if rate = 3 then 4 else if rate = 2 then 8 else 16
  (rttNs + per - 1) / per + 528

/-- The RES fields of USD_POOL as Level took it (R484). -/
def PortSt.poolRes (x : PortSt) (c : Nat) : Nat := field x.setPool (8 * c) 8

/-- This port asks for HOLD/GO: CTRL.FLOW as Level took it, unless its headroom would exceed 8192 bytes (R462). -/
def State.flowBit (s : State) (p : Port) : Bool := (s.port p).setFlow && decide (s.usdHeadroom p ≤ 8192)

/-- The 32 bytes of a TRAIN payload that this port sends (Table 13.3). -/
def State.trainBytes (s : State) (p : Port) (sub : Nat) (rates stamp : Nat) : List Byte :=
  let x := s.port p
  [BitVec.ofNat 8 sub, 1] ++ beBytes 2 s.nodeId.toNat ++
    [BitVec.ofNat 8 rates, BitVec.ofNat 8 (b2n x.gotOffer), BitVec.ofNat 8 (b2n (s.flowBit p)),
     BitVec.ofNat 8 (field x.setTimer 0 8), 128, 0] ++
    beBytes 2 16384 ++ ([0, 1, 2, 3].flatMap fun c => beBytes 2 (x.poolRes c)) ++ beBytes 2 1024 ++ beBytes 2 0x100 ++
    beBytes 2 s.mesh.epoch.toNat ++ beBytes 2 (b2n x.expValid * 0x8000 + x.exp.toNat) ++ beBytes 2 stamp ++ [0, 0]

/-- A TRAIN frame waits to be sent. -/
def State.queueTrain (s : State) (p : Port) (sub rates stamp : Nat) : State :=
  s.queueCtl p (plainFrame typeTrain 0 0 (s.trainBytes p sub rates stamp))

/-- The RATES mask of USD_CTRL. -/
def State.ratesMask (s : State) (p : Port) : Nat := field (s.reg (Reg.usdCtrl p.val)) 1 3

/-- The highest rate set in both masks: 3 for 2.5, 2 for 1.25, 1 for 0.625 Gbaud, 0 for none (R458). -/
def agreedRate (a b : Nat) : Nat :=
  let m := a &&& b
  if m.testBit 2 then 3 else if m.testBit 1 then 2 else if m.testBit 0 then 1 else 0

/-- The sum of R472 in nanoseconds: the partner's ACKT, RTT, twice the longest frame time at the agreed rate, and 1 µs. -/
def PortSt.replayNs (x : PortSt) : Nat :=
  let byteNs := if x.rate = 3 then 4 else if x.rate = 2 then 8 else 16
  x.partner.ackt.toNat * 250 + x.rtt + 2 * 270 * byteNs + 1000

/-- Whether the link resumes (R463). -/
def State.resumes (s : State) (p : Port) : Bool :=
  let x := s.port p
  let v := x.partner
  decide (x.last = some (v.node, v.epoch)) && x.expValid && bit v.expv 15 &&
    decide ((v.expv.setWidth 12 - (x.acked + 1)).toNat ≤ x.replay.length)

/-- On a resume the frames before the partner's EXPV are freed and the rest replayed (R463). -/
def PortSt.resumed (x : PortSt) : PortSt :=
  let e : BitVec 12 := x.partner.expv.setWidth 12
  let k := (e - (x.acked + 1)).toNat
  let rest := x.replay.drop k
  { x with acked := e - 1, replay := rest, replayAt := if rest.isEmpty then none else some 0 }

/-- The credit state of a new Flow (R477): each limit at the partner's reserve, each own grant at the own reserve. -/
def PortSt.newCredit (x : PortSt) (own : Nat → Nat) : PortSt :=
  { x with
    limit := Vector.ofFn fun c => x.partner.res[c].setWidth 12, sent := Vector.replicate 4 0, taken := Vector.replicate 4 0,
    res := Vector.ofFn fun c => own c.val, granted := Vector.ofFn fun c => BitVec.ofNat 12 (own c.val),
    sinceCredit := Vector.replicate 4 0 }

/-- The port enters Flow, resuming or not (R463, R472, R502, R510). -/
def State.enterFlow (s : State) (p : Port) : State :=
  let keep := s.resumes p
  let hg := (s.port p).partner.flow && (s.port p).sentFlow
  let sameMode := decide ((s.port p).hgMode = hg)
  let s := if keep then s.modPort p PortSt.resumed else s.handBack p
  let s := s.modPort p fun x =>
    let x := { x with state := .flow, hgMode := hg, expValid := true, last := some (x.partner.node, x.partner.epoch) }
    if keep && sameMode then { x with res := Vector.ofFn fun c => x.poolRes c.val } else x.newCredit x.poolRes
  let sum := ((s.port p).replayNs + 999) / 1000
  let set := field (s.port p).setTimer 8 12
  let s := s.modPort p fun x => { x with timerEff := max sum set }
  let s := (s.setBits (Reg.usdEvt p.val) 1).hlog 0x0601 sevNotice (portUnit p) []
  let s := if set < sum then s.hlog 0x0614 sevNotice (portUnit p) (beBytes 2 sum) else s
  let s := s.modMesh fun m => { m with unreach := m.unreach &&& ~~~ BitVec.ofNat 4 (2 ^ p.val) }
  ((s.holdCheck p).regrant p).flowEntered

/-- The port in Fill goes on to Level once it has received an OFFER with SEEN and has sent one (Table 13.2); Level takes the settings
(R484). -/
def State.fillCheck (s : State) (p : Port) : State :=
  let x := s.port p
  if x.state = .fill ∧ x.gotSeen ∧ x.sentSeen then
    s.modPort p fun x => { x.silent with
      state := .level, rate := agreedRate (s.ratesMask p) x.rates.toNat, levelIdle := true, ts1 := 0, ts2 := 0, tsSent := 0, ctl := []
      rxPlus := false, setFlow := bit (s.reg (Reg.usdCtrl p.val)) 4, setTimer := s.reg (Reg.usdTimer p.val)
      setPool := s.reg (Reg.usdPool p.val) }
  else s

/-- The port in Level enters Flow once READY has gone both ways (Table 13.2). -/
def State.levelCheck (s : State) (p : Port) : State :=
  let x := s.port p
  if x.state = .level ∧ x.gotReady ∧ x.sentReady then s.enterFlow p else s

/-! ### Acks and replay (R466 to R473) -/

/-- An ACK value within the unacknowledged frames is taken (R469). -/
def State.applyAck (s : State) (p : Port) (a : BitVec 12) : State :=
  s.modPort p fun x =>
    let k := (a - x.acked).toNat
    { x with
      acked := a, replay := x.replay.drop k
      replayAt := match x.replayAt with
        | none => none
        | some i => if x.replay.length ≤ k then none else some (i - k) }

/-- A replay of every unacknowledged frame begins (R470). -/
def State.startReplay (s : State) (p : Port) (nak : Option (BitVec 12)) : State :=
  if (s.port p).replay.isEmpty then s
  else (s.modPort p fun x => { x with replayAt := some 0, replayFrom := nak }).countReg (Reg.usdCntReplay p.val)

/-- NAK when none is outstanding (R466). -/
def State.sendNak (s : State) (p : Port) : State :=
  if (s.port p).nakOut then s
  else ((s.modPort p fun x => { x with nakOut := true }).queueCtl p (plainFrame typeNak 0 0 [])).countReg (Reg.usdCntNaktx p.val)

/-- Whether a frame is of a sequenced type (Table 13.5). -/
def sequenced (f : Frame) : Bool := decide (f.type = typeData ∨ f.type = typeBcast)

/-- The field of a received header that is outside Tables 13.4 and 13.5 (R465, R481, R482). -/
def fieldFlaw (f : Frame) (lenOk : Bool) : Option Nat :=
  let addressed := sequenced f
  let numbered := addressed || decide (f.type = typeCredit)
  if f.payload.length ≠ f.len.toNat ∨ ¬ lenOk then some 5
  else if f.tc ≠ 0 ∧ ¬ numbered then some 2
  else if f.seq ≠ 0 ∧ ¬ numbered then some 3
  else if f.dst ≠ 0 ∧ ¬ addressed then some 6
  else if f.src ≠ 0 ∧ ¬ addressed then some 7
  else if f.type = typeTrain ∧ f.ack ≠ 0 then some 4
  else if f.type = typeTrain ∧ f.hld then some 8
  else none

/-- The violation of the catalogue that a received header shows in Flow: its kind and field. The kinds come in the order of Table 13.8
(log 82). -/
def PortSt.flaw (x : PortSt) (f : Frame) (lenOk : Bool) : Option (Nat × Nat) :=
  let d := (f.seq - x.exp).toNat
  match fieldFlaw f lenOk with
  | some k => some (2, k)
  | none =>
    if sequenced f ∧ 128 ≤ d ∧ d < 3968 then some (3, 3)
    else if x.replay.length < (f.ack - x.acked).toNat then some (4, 4)
    else if sequenced f ∧ d = 0 ∧ ¬ x.hgMode ∧ ¬ x.fits f then some (5, 9)
    else if f.hld ∧ ¬ x.hgMode then some (6, 8)
    else if (f.type = typeHold ∨ f.type = typeGo) ∧ ¬ x.hgMode then some (6, 1)
    else if f.type = typeCredit ∧ x.hgMode then some (6, 1)
    else none

/-- What a received frame's checks give: dropped, or taken with the state after its ACK and HLD (R466, R469, R475). -/
def State.receive (s : State) (p : Port) (f : Frame) (lenOk : Bool) : State × Bool :=
  let s := s.modPort p fun x => x.heard (frameSyms f)
  let x := s.port p
  match x.flaw f lenOk with
  | some (kind, field) => (s.violation p kind field (headerBytes f), false)
  | none =>
    let s := s.applyAck p f.ack
    if x.hgMode ∧ f.type ≠ typeHold ∧ f.type ≠ typeGo then (s.modPort p fun x => { x with held := f.hld }, true) else (s, true)

/-- An ack is due: one waits at most. -/
def State.queueAck (s : State) (p : Port) : State :=
  if (s.port p).ctl.any carriesAck then s else s.queueCtl p (plainFrame typeAck 0 0 [])

/-- An in-order sequenced frame is accepted (R467, R468). -/
def State.accept (s : State) (p : Port) (f : Frame) : State :=
  let n := (s.port p).sinceAck + 1
  let s := s.modPort p fun x => { x with exp := x.exp + 1, nakOut := false, sinceAck := n }
  let s := if 16 ≤ n then s.queueAck p else s
  if f.type = typeBcast then s.bcastArrived p f else s.routeArrived p f

/-- The disposition of a sequenced frame that is no violation (Table 13.6, R476). -/
def State.dispose (s : State) (p : Port) (f : Frame) : State :=
  let x := s.port p
  let d := (f.seq - x.exp).toNat
  if d = 0 then (if x.fits f then s.accept p f else (s.countReg (Reg.usdCntHolddrop p.val)).sendNak p)
  else if d ≤ 127 then s.sendNak p
  else (s.countReg (Reg.usdCntDup p.val)).queueCtl p (plainFrame typeAck 0 0 [])

/-! ### Sending (R466 to R471, R475, R477, R504) -/

/-- The classes in their order of sending (R504). -/
def classOrder : List (Fin 4) := [3, 0, 1, 2]

/-- Whether the head frame of a class may start: credit of its class in POOL (R477). -/
def PortSt.mayStart (x : PortSt) (c : Fin 4) : Bool :=
  match x.queues[c] with
  | [] => false
  | (_, f) :: _ => x.hgMode || decide (poolUnits f ≤ (x.limit[c] - x.sent[c]).toNat)

/-- The class whose head frame goes next: one that has seen 64 frames of higher classes, else the first in order (R504). -/
def PortSt.nextClass (x : PortSt) : Option (Fin 4) :=
  match classOrder.find? fun c => decide (64 ≤ x.ages[c]) && x.mayStart c with
  | some c => some c
  | none => classOrder.find? fun c => x.mayStart c

/-- Whether class `a` is higher than class `b`. -/
def higher (a b : Fin 4) : Bool := decide (classOrder.idxOf a < classOrder.idxOf b)

/-- The next frame of a running replay is sent (R470). -/
def State.sendReplay (s : State) (p : Port) (i : Nat) : State :=
  let x := s.port p
  match x.replay[i]? with
  | none => s.modPort p fun x => { x with replayAt := none, replayFrom := none }
  | some f =>
    let last := decide (x.replay.length ≤ i + 1)
    (s.putLane p f).modPort p fun x => { x with
      replayAt := if last then none else some (i + 1), replayFrom := if last then none else x.replayFrom }

/-- The head frame of a class is sent for the first time (R471, R477, R500, R504); a double-bit error in its receive storage discards
it (R493). -/
def State.sendNew (s : State) (p : Port) (c : Fin 4) (eccDouble : Bool) : State :=
  match (s.port p).queues[c] with
  | [] => s
  | (origin, f) :: rest =>
    let s := s.modPort p fun x => { x with
      queues := x.queues.set c rest
      ages := Vector.ofFn fun d =>
        if d = c then 0 else if higher c d && !(x.queues[d]).isEmpty then x.ages[d] + 1 else x.ages[d] }
    if eccDouble ∧ origin.isSome then (s.areaFreeFrame origin f (some p)).bufferEcc (origin.getD p)
    else
      let x := s.port p
      let g := { f with seq := x.acked + BitVec.ofNat 12 (x.replay.length + 1) }
      let s := s.modPort p fun x => { x with
        replay := x.replay ++ [g], sent := x.sent.set c (x.sent[c] + BitVec.ofNat 12 (poolUnits g)) }
      (s.putLane p g).areaFreeFrame origin f (some p)

/-- A TRAIN frame has been sent in Fill or Level. -/
def State.trainSent (s : State) (p : Port) (f : Frame) : State :=
  let sub := (f.payload.headD 0).toNat
  if sub = 1 ∧ f.payload.getD 5 0 = 1 then (s.modPort p fun x => { x with sentSeen := true }).fillCheck p
  else if sub = 2 then s.modPort p fun x => { x with sentParam := true }
  else if sub = 5 then (s.modPort p fun x => { x with sentReady := true }).levelCheck p
  else s

/-- Whether the next control frame is HOLD or GO, which is sent at once between frames (R475; log 82). -/
def PortSt.holdFirst (x : PortSt) : Bool := match x.ctl with | f :: _ => decide (f.type = typeHold ∨ f.type = typeGo) | [] => false

/-- The lane carries IDL between frames (R453). -/
def State.idleLane (s : State) (p : Port) : State := s.modPort p fun x => x.transmit setIdl

/-- A frame being replayed that meets a double-bit error ends with EBF after its header; the port then leaves Flow without resume and hands
back what is unacknowledged (R493). -/
def State.replayAborted (s : State) (p : Port) (i : Nat) : State :=
  let s := match (s.port p).replay[i]? with
    | some f => s.modPort p fun x => x.transmit (Sym.sof :: (headerBytes (x.stamped f)).map Sym.data ++ [Sym.ebf])
    | none => s
  (((s.leaveFlow p).countFailure p).handBack p).bufferEcc p

/-- FRAME_SEND (R504): in Flow replays, then control frames, then new frames by class; in training the next TRAIN frame; IDL where there is
none. -/
def execFrameSend (p : Port) (eccDouble : Bool) (s : State) : Host.Outcome State Fault Refusal :=
  let x := s.port p
  if x.inFlow then
    match (if x.held || x.holdFirst then none else x.replayAt) with
    | some i => .next (if eccDouble then s.replayAborted p i else s.sendReplay p i)
    | none =>
      match x.ctl with
      | f :: rest => .next ((s.modPort p fun x => { x with ctl := rest }).putLane p f)
      | [] =>
        if x.held ∨ 128 ≤ x.replay.length then .next (s.idleLane p)
        else match x.nextClass with
        | none => .next (s.idleLane p)
        | some c => .next (s.sendNew p c eccDouble)
  else if x.state = .fill ∨ (x.state = .level ∧ ¬ x.levelIdle) then
    match x.ctl with
    | f :: rest => .next (((s.modPort p fun x => { x with ctl := rest }).putLane p f).trainSent p f)
    | [] => .next (s.idleLane p)
  else .next s

/-! ### Training commands -/

/-- BACKOFF_EXPIRY (R457). -/
def execBackoffExpiry (p : Port) (s : State) : Host.Outcome State Fault Refusal := .next (s.beginAttempt p)

/-- TS1_DETECT (R455): also a wake source on a port with EN = 1 (Table 18.4). -/
def execTs1Detect (p : Port) (s : State) : Host.Outcome State Fault Refusal :=
  .next ((if s.usdEn p then s.wake .ts1 else s).beginAttempt p)

/-- Lock in Level is complete: the port sends 4 ECHO frames (R460). -/
def State.sendEchoes (s : State) (p : Port) : State :=
  let t := s.us * 160 % 65536
  s.each [0, 1, 2, 3] fun s i =>
    let v := (t + i) % 65536
    (s.modPort p fun x => { x with stamps := x.stamps ++ [BitVec.ofNat 16 v] }).queueTrain p 3 (2 ^ ((s.port p).rate - 1)) v

/-- TS_ORDERED_SET: in Seep, and in Level after its idle, each set received advances the lock; the port sends one set for each that it
receives, TS2 once it has received 16 (Table 13.2). -/
def execTsOrderedSet (p : Port) (ts2 : Bool) (s : State) : Host.Outcome State Fault Refusal :=
  let x := s.port p
  let locking := decide (x.state = .seep) || (decide (x.state = .level) && !x.levelIdle)
  if ¬ locking ∨ (8 ≤ x.ts2 ∧ 16 ≤ x.tsSent) then .next s
  else
    let n1 := x.ts1 + 1
    let n2 := if ts2 then x.ts2 + 1 else 0
    let sent := if 16 ≤ n1 then x.tsSent + 1 else x.tsSent
    let s := s.modPort p fun x => { (x.heard (if ts2 then setTs2 else setTs1)).transmit (if 16 ≤ n1 then setTs2 else setTs1) with
      ts1 := n1, ts2 := n2, tsSent := sent }
    if 8 ≤ n2 ∧ 16 ≤ sent then
      if x.state = .seep then .next (s.modPort p fun x => { x with state := .fill }) else .next (s.sendEchoes p)
    else .next s

/-- TRAINING_TIMEOUT: a Seep, Fill or Level timeout fails the attempt; a clock that does not lock within the Seep timeout 16 times in
a row makes the port failed (R454, R493). -/
def execTrainingTimeout (p : Port) (clockLock : Bool) (s : State) : Host.Outcome State Fault Refusal :=
  let x := s.port p
  if ¬ x.training then .next s
  else
    let n := if x.state = .seep ∧ ¬ clockLock then x.clockFails + 1 else 0
    let s := (s.toDry p true).modPort p fun x => { x with clockFails := n }
    if 16 ≤ n then .next (s.portFail p) else .next s

/-- OFFER_TIMER (R454). -/
def execOfferTimer (p : Port) (s : State) : Host.Outcome State Fault Refusal :=
  if (s.port p).state = .fill then .next (s.queueTrain p 1 (s.ratesMask p) 0) else .next s

/-- LEVEL_IDLE_END (R454). -/
def execLevelIdleEnd (p : Port) (s : State) : Host.Outcome State Fault Refusal :=
  if (s.port p).state = .level then .next (s.modPort p fun x => { x with levelIdle := false }) else .next s

/-- A TRAIN frame received in a training state: its header (R465, R481), then the payload fields that its subtype checks (R459, R461), then
what `go` does with it. -/
def State.trainFrame (s : State) (p : Port) (r : TrainFrame) (st : PortState) (sub : Nat) (go : State → State) :
    Host.Outcome State Fault Refusal :=
  let f := frameOfHeader r.header r.payload.toList
  if (s.port p).state ≠ st ∨ f.type ≠ typeTrain then .next s
  else
    let s := s.modPort p fun x => x.heard (frameSyms f)
    match fieldFlaw f (decide (f.len = 32)) with
    | some k => .next (s.violation p 2 k (headerBytes f))
    | none =>
      match trainFlaws s.nodeId sub (s.port p) r.payload with
      | o :: _ => .next (s.trainReject p (headerBytes f) o)
      | [] => .next (go s)

/-- TRAIN_OFFER (R458, R459, R461). -/
def execTrainOffer (p : Port) (f : TrainFrame) (s : State) : Host.Outcome State Fault Refusal :=
  let t := f.payload
  s.trainFrame p f .fill 1 fun s =>
    if agreedRate (s.ratesMask p) (train8 t 4) = 0 then s.trainReject p (headerBytes (frameOfHeader f.header t.toList)) 4
    else
      (s.modPort p fun x => { x with
        gotOffer := true, gotSeen := x.gotSeen || decide (train8 t 5 = 1), rates := BitVec.ofNat 8 (train8 t 4)
        partner := { x.partner with node := BitVec.ofNat 12 (train16 t 2) } }).fillCheck p

/-- The partner's PARAM fields. -/
def partnerOf (t : TrainPayload) : Partner :=
  { node := BitVec.ofNat 12 (train16 t 2), epoch := BitVec.ofNat 16 (train16 t 0x18), flow := decide (train8 t 6 = 1),
    ackt := BitVec.ofNat 8 (train8 t 7), window := BitVec.ofNat 8 (train8 t 8), area := BitVec.ofNat 16 (train16 t 0xA),
    res := Vector.ofFn fun c => BitVec.ofNat 16 (train16 t (0xC + 2 * c.val)), poolu := BitVec.ofNat 16 (train16 t 0x14),
    expv := BitVec.ofNat 16 (train16 t 0x1A) }

/-- READY is sent once the own PARAM is on its way and the partner's has come (R463; log 21). -/
def State.readyCheck (s : State) (p : Port) : State :=
  let x := s.port p
  if x.gotParam ∧ 4 ≤ x.echoes ∧ ¬ (x.ctl.any fun f => decide (f.payload.headD 0 = 5)) ∧ ¬ x.sentReady then
    s.queueTrain p 5 (2 ^ (x.rate - 1)) 0
  else s

/-- TRAIN_PARAM (R461, R462). -/
def execTrainParam (p : Port) (f : TrainFrame) (s : State) : Host.Outcome State Fault Refusal :=
  s.trainFrame p f .level 2 fun s => (s.modPort p fun x => { x with gotParam := true, partner := partnerOf f.payload }).readyCheck p

/-- TRAIN_ECHO: answered with ECHOREP, the stamp unchanged (R460). -/
def execTrainEcho (p : Port) (f : TrainFrame) (s : State) : Host.Outcome State Fault Refusal :=
  s.trainFrame p f .level 3 fun s => s.queueTrain p 4 (2 ^ ((s.port p).rate - 1)) (train16 f.payload 0x1C)

/-- A round trip is measured; the largest of the four is RTT, and PARAM is sent then (R460, R462, R474). -/
def State.echoTaken (s : State) (p : Port) (stamp rttNs : Nat) : State :=
  let x := s.port p
  let n := x.echoes + 1
  let rtt := max x.rttMax rttNs
  let s := s.modPort p fun x => { x with stamps := eraseFirst (fun v => decide (v.toNat = stamp)) x.stamps, echoes := n, rttMax := rtt }
  if n = 4 then
    let s := s.modPort p fun x => { x with rtt, headroom := headroomOf rtt x.rate }
    let s := s.modPort p fun x => { x with sentFlow := s.flowBit p }
    (s.queueTrain p 2 (2 ^ (x.rate - 1)) 0).readyCheck p
  else s

/-- TRAIN_ECHOREP (R460). -/
def execTrainEchorep (p : Port) (f : TrainFrame) (rttNs : Nat) (s : State) : Host.Outcome State Fault Refusal :=
  s.trainFrame p f .level 4 fun s => s.echoTaken p (train16 f.payload 0x1C) rttNs

/-- TRAIN_READY (R463). -/
def execTrainReady (p : Port) (f : TrainFrame) (s : State) : Host.Outcome State Fault Refusal :=
  s.trainFrame p f .level 5 fun s => (s.modPort p fun x => { x with gotReady := true }).levelCheck p

/-- LOSS_OF_SIGNAL (R456). -/
def execLossOfSignal (p : Port) (s : State) : Host.Outcome State Fault Refusal := .next (s.toDry p true)

/-- FLOW_STABLE (R457). -/
def execFlowStable (p : Port) (s : State) : Host.Outcome State Fault Refusal :=
  if (s.port p).inFlow then .next (s.modPort p fun x => { x with fails := 0, stuck := false, stuckAt := none, clockFails := 0 }) else .next s

/-! ### Frames received in Flow -/

/-- Whether a port takes frames: in Fill, in Level or in Flow. -/
def PortSt.framed (x : PortSt) : Bool := decide (x.state = .fill ∨ x.state = .level ∨ x.state = .flow)

/-- BAD_FRAME (R456, R466): codes that make no good frame are discarded and counted, and in Flow answered with NAK; 16 code violations within
1024 symbols are a loss of signal. Codes that make one are not this command. -/
def execBadFrame (b : BadCodes) (s : State) : Host.Outcome State Fault Refusal :=
  let p := b.port
  let x := s.port p
  if ¬ x.framed ∨ (readFrame (readCodes x.rxPlus b.codes).1).isSome then .next s
  else
    let s := (s.modPort p fun x => x.heardCodes b.codes).countReg (Reg.usdCntCrc p.val)
    if (s.port p).signalLost then .next (s.toDry p true) else .next (if x.inFlow then s.sendNak p else s)

/-- In Fill and Level a frame is dropped, and its header is checked (R466, R481). -/
def State.untrained (s : State) (p : Port) (f : Frame) (lenOk : Bool) : State :=
  let s := s.modPort p fun x => x.heard (frameSyms f)
  match fieldFlaw f lenOk with
  | some k => s.violation p 2 k (headerBytes f)
  | none => s

/-- A frame received in Flow whose type is the row's: its checks, then what `f` does with it. -/
def State.inFlowFrame (s : State) (p : Port) (f : Frame) (type : Nibble) (lenOk : Bool) (go : State → State) :
    Host.Outcome State Fault Refusal :=
  if ¬ (s.port p).framed ∨ f.type ≠ type then .next s
  else if (s.port p).inFlow then
    match s.receive p f lenOk with
    | (s, true) => .next (go s)
    | (s, false) => .next s
  else .next (s.untrained p f lenOk)

/-- DATA_FRAME (R466, R467). -/
def execDataFrame (p : Port) (f : Frame) (s : State) : Host.Outcome State Fault Refusal :=
  s.inFlowFrame p f typeData (decide (f.len.toNat ≤ 256)) fun s => s.dispose p f

/-- BCAST_FRAME (R467, R503). -/
def execBcastFrame (p : Port) (f : Frame) (s : State) : Host.Outcome State Fault Refusal :=
  s.inFlowFrame p f typeBcast (decide (f.len.toNat ≤ 256)) fun s => s.dispose p f

/-- ACK_FRAME (R469). -/
def execAckFrame (p : Port) (f : Frame) (s : State) : Host.Outcome State Fault Refusal :=
  s.inFlowFrame p f typeAck (decide (f.len = 0)) fun s => s

/-- NAK_FRAME (R470): a NAK that repeats the value of a running replay is kind DUPCTL. -/
def execNakFrame (p : Port) (f : Frame) (s : State) : Host.Outcome State Fault Refusal :=
  s.inFlowFrame p f typeNak (decide (f.len = 0)) fun s =>
    let s := s.countReg (Reg.usdCntNakrx p.val)
    let x := s.port p
    if x.replayAt.isSome ∧ x.replayFrom = some f.ack then s.violation p 7 4 (headerBytes f) else s.startReplay p (some f.ack)

/-- CREDIT_FRAME (R477). -/
def execCreditFrame (p : Port) (f : Frame) (s : State) : Host.Outcome State Fault Refusal :=
  s.inFlowFrame p f typeCredit (decide (f.len = 0)) fun s =>
    s.modPort p fun x => { x with limit := x.limit.set (Fin.ofNat 4 f.tc.toNat) f.seq }

/-- HOLD_FRAME (R475): a HOLD while held is kind DUPCTL. -/
def execHoldFrame (p : Port) (f : Frame) (s : State) : Host.Outcome State Fault Refusal :=
  s.inFlowFrame p f typeHold (decide (f.len = 0)) fun s =>
    if (s.port p).held then s.violation p 7 1 (headerBytes f) else s.modPort p fun x => { x with held := true }

/-- GO_FRAME (R475): a GO while not held is kind DUPCTL. -/
def execGoFrame (p : Port) (f : Frame) (s : State) : Host.Outcome State Fault Refusal :=
  s.inFlowFrame p f typeGo (decide (f.len = 0)) fun s =>
    if (s.port p).held then s.modPort p fun x => { x with held := false } else s.violation p 7 1 (headerBytes f)

/-- TRAIN_IN_FLOW (R488): kind TYPE, out of Flow, and an attempt at once. -/
def execTrainInFlow (p : Port) (f : Frame) (s : State) : Host.Outcome State Fault Refusal :=
  if (s.port p).inFlow ∧ f.type = typeTrain then
    .next ((((s.modPort p fun x => x.heard (frameSyms f)).violation p 1 1 (headerBytes f)).answerThenDry p).beginAttempt p)
  else .next s

/-- VIOLATION_FRAME (R461, R482). -/
def execViolationFrame (p : Port) (f : Frame) (s : State) : Host.Outcome State Fault Refusal :=
  let x := s.port p
  let lenOk := decide (f.len = 12)
  if (x.state = .fill ∨ x.state = .level) ∧ f.type = typeViolation ∧ fieldFlaw f lenOk = none then
    .next (((s.modPort p fun x => x.heard (frameSyms f)).hlog 0x0605 sevNotice (portUnit p) (f.payload.take 2)).toDry p true)
  else s.inFlowFrame p f typeViolation lenOk fun s =>
    ((s.countReg (Reg.usdCntViolrx p.val)).setBits (Reg.usdEvt p.val) 8).hlogLim 0x0611 sevNotice (portUnit p) (seconds 1) (f.payload.take 2)

/-- IDLE_FRAME (R465). -/
def execIdleFrame (p : Port) (f : Frame) (s : State) : Host.Outcome State Fault Refusal :=
  s.inFlowFrame p f typeIdle (decide (f.len = 0)) fun s => s

/-- RESERVED_TYPE_FRAME (R481). -/
def execReservedTypeFrame (p : Port) (f : Frame) (s : State) : Host.Outcome State Fault Refusal :=
  if (s.port p).framed ∧ (f.type = 0 ∨ 10 < f.type) then
    .next ((s.modPort p fun x => x.heard (frameSyms f)).violation p 1 1 (headerBytes f))
  else .next s

/-! ### Timers -/

/-- ACK_TIMER_EXPIRY (R468, R478). -/
def execAckTimerExpiry (p : Port) (s : State) : Host.Outcome State Fault Refusal :=
  let x := s.port p
  if ¬ x.inFlow then .next s
  else
    let s := if x.sinceAck = 0 then s else s.queueAck p
    if x.hgMode then .next s
    else .next (s.each classes fun s c =>
      if (s.port p).sinceCredit[c] = 0 then s
      else (s.queueCtl p (plainFrame typeCredit (BitVec.ofNat 2 c.val) (s.port p).granted[c] [])).modPort p fun x =>
        { x with sinceCredit := x.sinceCredit.set c 0 })

/-- REPLAY_TIMER_EXPIRY (R469, R470). -/
def execReplayTimerExpiry (p : Port) (s : State) : Host.Outcome State Fault Refusal :=
  if (s.port p).inFlow ∧ ¬ (s.port p).held then .next (s.startReplay p none) else .next s

/-- IDLE_TIMER_EXPIRY (Table 13.5). -/
def execIdleTimerExpiry (p : Port) (s : State) : Host.Outcome State Fault Refusal :=
  if (s.port p).inFlow then .next (s.queueCtl p (plainFrame typeIdle 0 0 [])) else .next s

/-- Whether a port in Flow has something it cannot move: unacknowledged frames, or a frame that HOLD or credit keeps from the wire (R473). -/
def PortSt.stalled (x : PortSt) : Bool :=
  !x.replay.isEmpty || classes.any fun c => !x.queues[c].isEmpty && (x.held || !x.mayStart c)

/-- STALL_TIMEOUT (R473). -/
def execStallTimeout (p : Port) (s : State) : Host.Outcome State Fault Refusal :=
  let x := s.port p
  if x.inFlow ∧ x.stalled then
    .next (((s.setBits (Reg.usdEvt p.val) 0x40).hlog 0x0613 sevNotice (portUnit p) []).toDry p true)
  else .next s

/-- CREDIT_TIMER (R478). -/
def execCreditTimer (p : Port) (s : State) : Host.Outcome State Fault Refusal :=
  let x := s.port p
  if x.inFlow ∧ ¬ x.hgMode then
    .next ((s.each classes fun s c => s.queueCtl p (plainFrame typeCredit (BitVec.ofNat 2 c.val) (s.port p).granted[c] [])).modPort p
      fun x => { x with sinceCredit := Vector.replicate 4 0 })
  else .next s

/-- VIOLATION_SECOND_TICK (R483). -/
def execViolationSecondTick (p : Port) (s : State) : Host.Outcome State Fault Refusal :=
  .next (s.modPort p fun x => { x with violSec := Vector.replicate 8 0 })

/-- QUARANTINE_END (R483). -/
def execQuarantineEnd (p : Port) (s : State) : Host.Outcome State Fault Refusal :=
  if (s.port p).state = .quarantine then
    .next ((s.modPort p fun x => { x with state := .dry, noBackoff := false }).beginAttempt p)
  else .next s

/-- RESUME_HOLD_EXPIRY (R787). -/
def execResumeHoldExpiry (p : Port) (s : State) : Host.Outcome State Fault Refusal :=
  let x := s.port p
  if ¬ x.inFlow ∧ (x.expValid ∨ ¬ x.replay.isEmpty) then .next (s.portReset p) else .next s

/-! ### Commits of the port and routing registers -/

/-- A commit of USD_CTRL (R484): RETRAIN leaves the state for Dry without a failure; EN = 0 holds the port in Dry, which is a failure for a
port that leaves Flow or an attempt (R454, R457). -/
def State.usdCtrlSet (s : State) (p : Port) (v : Word) : State :=
  let s := s.setReg (Reg.usdCtrl p.val) (v &&& 0x8000001F)
  if bit v 5 then s.toDry p false else if bit v 0 then s else s.toDry p true

/-- RT_STAT.UNREACH keeps the bits of ports that some routing entry names (R502). -/
def State.unreachNamed (s : State) : State :=
  s.modMesh fun m => { m with
    unreach := BitVec.ofNat 4 (allPorts.foldl (fun n p => n + b2n (m.unreach.getLsbD p.val && decide (s.routesTo p ≠ 0)) * 2 ^ p.val) 0) }

/-- A commit of RT_NODE (R495, R496, R502). -/
def State.rtNodeSet (s : State) (v : Word) : State :=
  let busy := allTags.any fun t => decide ((s.mesh.tags[t]).state = .wait ∨ (s.mesh.tags[t]).state = .sent)
  if busy then s.setBits Reg.rtStat 0x80000000
  else
    let old := s.nodeId
    let s := s.modMesh fun m => { m with node := v &&& 0x80000FFF }
    let new := s.nodeId
    let s := (if new = old then s.setRouteEntry new 8 else (s.setRouteEntry old 0xF).setRouteEntry new 8).unreachNamed
    let leave := decide (new ≠ old) || !s.nodeValid
    s.each allPorts fun s p =>
      if leave && (s.port p).inFlow then s.toDry p (decide (new = old)) else if s.nodeValid then s else s.toDry p true

/-- Whether a value may be written to the routing register of nodes 8i to 8i + 7 (R498). -/
def State.routeOk (s : State) (i : Nat) (v : Word) : Bool :=
  (List.range 8).all fun k =>
    let e := field v (4 * k) 4
    if 8 * i + k = s.nodeId.toNat then decide (e = 8) else decide (e < 4 ∨ e = 15)

/-- A commit of RT_ROUTEi (R498, R502, R510). -/
def State.rtRouteSet (s : State) (i : Nat) (v : Word) : State :=
  if ¬ s.routeOk i v then s.setBits Reg.rtStat 0x80000000
  else
    let old := s.reg (Reg.rtRoute i)
    let s := (s.setReg (Reg.rtRoute i) v).unreachNamed
    s.routesChanged fun d => decide (d.toNat / 8 = i) && decide (field old (4 * (d.toNat % 8)) 4 ≠ field v (4 * (d.toNat % 8)) 4)

end Sys2Proof.Machine
end

