-- ==== Sys2Proof/Machine/Translate.lean ====
section
/-! DEFINITION. Blocks, lookaside buffers, rights and storage keys (spec/10): from a logical address to a physical one. -/

namespace Sys2Proof.Machine

/-- An exception with what FAULTINFO takes of it (Table 11.1, Table 11.2); fields that are not filled are 0 (R390). -/
structure Exc where
  ec : Nat
  la : Half
  bytes : List Byte := []
  kind : Nat := 0
  src : Nat := 0
  chk : Nat := 0
  walk : Nat := 0
  pa : Nat := 0
  kent : Byte := 0
  akey : Nibble := 0
  num : Nat := 0
  fctx : Nat := 0
  deriving DecidableEq, Repr

/-- A block that decides an access (R350, Table 10.1), with its source: 80h to 83h a pinned block, else the BDT index. -/
structure Block where
  lbase : Nat
  size : Nat
  flags : Byte
  pbase : Nat
  src : Nat
  deriving DecidableEq, Repr

/-- An access to be checked: its kind (FAULTINFO KIND), what it needs, its privilege, the guard and the access key. -/
structure Access where
  kind : Nat
  needR : Bool := false
  needW : Bool := false
  needX : Bool := false
  user : Bool
  guard : Bool
  key : Nibble
  noSe : Bool := false
  deriving DecidableEq, Repr

/-! ### Descriptors (R351, R352) -/

/-- FLAGS of a descriptor's low word, and its bits. -/
def descFlags (lo : Word) : Byte := BitVec.ofNat 8 (lo.toNat / 2 ^ 24)
def flagV (f : Byte) : Bool := f.getLsbD 0
def flagU (f : Byte) : Bool := f.getLsbD 1
def flagR (f : Byte) : Bool := f.getLsbD 2
def flagW (f : Byte) : Bool := f.getLsbD 3
def flagX (f : Byte) : Bool := f.getLsbD 4
def flagSE (f : Byte) : Bool := f.getLsbD 5
def flagP (f : Byte) : Bool := f.getLsbD 6
def flagS (f : Byte) : Bool := f.getLsbD 7

/-- The size in bytes that SIZE names. -/
def descSize (lo : Word) : Nat := 2 ^ (8 + field lo 16 4)

/-- Whether a descriptor holds a reserved value (R352); one with V = 0 never does. -/
def descBad (lo hi : Word) : Bool :=
  let f := descFlags lo
  flagV f && (decide (field lo 20 4 ≠ 0) || decide (8 < field lo 16 4) || decide (field lo 0 16 % descSize lo ≠ 0) ||
    decide (hi.toNat % descSize lo ≠ 0) || (flagP f && flagSE f))

/-- The block of a descriptor. -/
def descBlock (lo hi : Word) (src : Nat) : Block :=
  { lbase := field lo 0 16, size := descSize lo, flags := descFlags lo, pbase := hi.toNat, src }

/-- Whether code in a block is S-form (R353). -/
def Block.isS (b : Block) : Bool := flagX b.flags && flagS b.flags

/-- Whether a block contains a logical address. -/
def Block.contains (b : Block) (a : Nat) : Bool := decide (b.lbase ≤ a) && decide (a < b.lbase + b.size)

/-- Whether two blocks overlap. -/
def Block.overlaps (b d : Block) : Bool := decide (b.lbase < d.lbase + d.size) && decide (d.lbase < b.lbase + b.size)

/-- The physical address of a logical one in a block (R350). -/
def Block.phys (b : Block) (a : Nat) : Nat := b.pbase + (a - b.lbase)

/-! ### Lookup (R355 to R359) -/

/-- The pinned block that contains an address (R354, R355). -/
def findPbr (s : State) (c : Core) (k : Ctx) (a : Nat) : Option Block :=
  (List.range 4).findSome? fun i =>
    let lo := effReg s c (Reg.pbrL c.val k.val i)
    let b := descBlock lo (effReg s c (Reg.pbrP c.val k.val i)) (0x80 + i)
    if flagV b.flags && b.contains a then some b else none

/-- The LAB entry of a context that contains an address; one with a parity error is a miss (R386). -/
def labFind (l : List LabEntry) (k : Ctx) (a : Nat) : Option LabEntry :=
  l.find? fun e => decide (e.ctx = k) && !e.bad && (descBlock e.lo e.hi e.idx).contains a

/-- A 32-bit word of memory as it stands, not forwarded from a store buffer. -/
def memWord (s : State) (a : Nat) : Word := BitVec.ofNat 32 (leNat (s.bytes a 4))

/-- The outcome of a walk (R357). -/
inductive Walk where
  | hit (e : LabEntry) (install : Bool)
  | fault (idx pa cause : Nat)
  | none
  deriving DecidableEq, Repr

/-- The walk of a BDT from descriptor `i`, `left` of them still to be read; `seen` are the valid ones before (R357). Causes: 1 bus
error, 2 uncorrectable ECC, 3 reserved value. -/
def walkFrom (s : State) (k : Ctx) (base a : Nat) : Nat → Nat → List Block → Walk
  | 0, _, _ => .none
  | left + 1, i, seen =>
    let pa := base + i * 16
    if region pa ≠ .sram then .fault i pa 1
    else if s.sramHard.any fun w => decide (w = pa / 4 ∨ w = pa / 4 + 1) then .fault i pa 2
    else
      let lo := memWord s pa
      let hi := memWord s (pa + 4)
      let b := descBlock lo hi i
      if ¬ flagV b.flags then walkFrom s k base a left (i + 1) seen
      else if descBad lo hi then .fault i pa 3
      else if b.contains a then .hit { ctx := k, idx := i, lo, hi, bad := false } (!seen.any b.overlaps)
      else walkFrom s k base a left (i + 1) (b :: seen)

/-- The walk for a logical address, with the table that the core uses (R222). -/
def walk (s : State) (c : Core) (k : Ctx) (a : Nat) : Walk :=
  walkFrom s k (field (effReg s c (Reg.bdtb c.val k.val)) 4 17 * 16) a (field (effReg s c (Reg.bdtn c.val k.val)) 0 6) 0 []

/-- Whether XLT_XDIAG turns the L2-LAB, or the I-LAB and D-LAB, of a core off (R379). -/
def State.noL2 (s : State) (c : Core) : Bool := bit (effReg s c Reg.xltXdiag) 0
def State.noIDL (s : State) (c : Core) : Bool := bit (effReg s c Reg.xltXdiag) 1

/-- A LAB of four entries takes one, newest first; the least recently used entry that is not locked makes room (R356, R359). -/
def labTake (l : List LabEntry) (locked : List Nat) (e : LabEntry) : List LabEntry :=
  let l := l.filter fun x => ¬ (x.ctx = e.ctx ∧ x.idx = e.idx)
  if l.length < 4 then e :: l
  else match (l.reverse.find? fun x => !locked.contains x.idx) with
  | some v => e :: l.filter fun x => x ≠ v
  | none => l

/-- The L2-LAB takes an entry; with 32 held, one picked at random among those not locked makes room (R356, R359). -/
def State.l2Take (s : State) (c : Core) (locked : List Nat) (e : LabEntry) : State :=
  let l := (s.core c).l2.filter fun x => ¬ (x.ctx = e.ctx ∧ x.idx = e.idx)
  if l.length < 32 then s.modCore c fun x => { x with l2 := e :: l }
  else
    let open_ := l.filter fun x => !(decide (x.ctx = e.ctx) && locked.contains x.idx)
    let v := open_[Config.victim s.free % open_.length]?
    (s.modCore c fun x => { x with l2 := e :: l.filter fun y => some y ≠ v }).nextFree

/-- The I-LAB or D-LAB takes an entry. -/
def State.l1Take (s : State) (c : Core) (fetch : Bool) (locked : List Nat) (e : LabEntry) : State :=
  if s.noIDL c then s
  else if fetch then s.modCore c fun x => { x with ilab := labTake x.ilab locked e }
  else s.modCore c fun x => { x with dlab := labTake x.dlab locked e }

/-- Entries with a parity error are discarded and logged (R386). -/
def State.dropBadLab (s : State) (c : Core) (k : Ctx) (a : Nat) : State :=
  let bad (e : LabEntry) : Bool := e.bad && decide (e.ctx = k) && (descBlock e.lo e.hi e.idx).contains a
  let x := s.core c
  if x.ilab.any bad || x.dlab.any bad || x.l2.any bad then
    (s.modCore c fun x => { x with
      ilab := x.ilab.filter fun e => !bad e, dlab := x.dlab.filter fun e => !bad e, l2 := x.l2.filter fun e => !bad e }).hlogLim
      0x0123 sevNotice c.val (minutes 1) []
  else s

/-- The capture of EC 05h to 09h that every access has: its address and kind (Table 10.3). -/
def accFault (ec : Nat) (a : Half) (acc : Access) : Exc := { ec, la := a, kind := acc.kind }

/-- The lookup of one address: the block that decides it, with the LABs as they stand after (R355 to R359); EC 05h or 09h
otherwise. A walk that meets a bus error captures it as a 32-bit read (log 23). -/
def State.lookup (s : State) (c : Core) (k : Ctx) (a : Half) (acc : Access) (locked : List Nat) : State × Except Exc Block :=
  let n := a.toNat
  match findPbr s c k n with
  | some b => (s, .ok b)
  | none =>
    let s := s.dropBadLab c k n
    let fetch := acc.needX
    let l1 := if s.noIDL c then [] else if fetch then (s.core c).ilab else (s.core c).dlab
    match labFind l1 k n with
    | some e => (s.l1Take c fetch locked e, .ok (descBlock e.lo e.hi e.idx))
    | none =>
      match labFind (if s.noL2 c then [] else (s.core c).l2) k n with
      | some e => (s.l1Take c fetch locked e, .ok (descBlock e.lo e.hi e.idx))
      | none =>
        match walk s c k n with
        | .hit e install =>
          let s := if install then (if s.noL2 c then s else s.l2Take c locked e).l1Take c fetch locked e else s
          (s, .ok (descBlock e.lo e.hi e.idx))
        | .fault idx pa cause =>
          let s := if cause = 1 then s.busError (.lc c k !acc.user) pa false .word (sramPortKind pa) false else s
          (s, .error { accFault 9 a acc with src := idx, walk := cause, pa := pa })
        | .none => (s, .error (accFault 5 a acc))

/-! ### Storage keys (R368 to R372, R387) -/

/-- The frame of a physical address, where it has one (R368). -/
def frameOf (pa : Nat) : Option Nat :=
  if pa < 0x00200000 then some (pa / 0x800)
  else if 0x01000000 ≤ pa ∧ pa < 0x01800000 then some (1024 + (pa - 0x01000000) / 0x800)
  else none

/-- The entry of a frame in the shared table (R376). -/
def State.keyEntry (s : State) (f : Nat) : Byte := byteOf (s.reg (Reg.xltKey (f / 4))) (f % 4)

/-- The state with the entry of a frame replaced. -/
def State.setKeyEntry (s : State) (f : Nat) (v : Byte) : State :=
  let a := Reg.xltKey (f / 4)
  let sh := 8 * (f % 4)
  s.setReg a ((s.reg a &&& ~~~ (BitVec.ofNat 32 (0xFF * 2 ^ sh))) ||| BitVec.ofNat 32 (v.toNat * 2 ^ sh))

/-- The entry of a frame that core `c` checks against: its old value until SYNC (R372). -/
def State.keyFor (s : State) (c : Core) (f : Nat) : Byte :=
  match (s.core c).oldKeys.find? fun e => e.1 = f with
  | some (_, v) => v
  | none => s.keyEntry f

/-- A key entry with a double-bit error reads F0h and is logged with its frame (R387). -/
def State.keyRepair (s : State) (f : Nat) : State :=
  if s.keyBad.contains f then
    ({ s with keyBad := s.keyBad.filter fun g => g ≠ f }.setKeyEntry f 0xF0).hlog 0x0124 sevNotice 0xFF (beBytes 2 f)
  else s

/-- The four key entries of a register XLT_KEYj are read (R387). -/
def State.keyCheck (s : State) (a : Nat) : State :=
  if Reg.xltKey 0 ≤ a ∧ a < Reg.xltKey 1280 then
    let f := (a - Reg.xltKey 0) / 4 * 4
    s.each (List.range 4) fun s i => s.keyRepair (f + i)
  else s

/-- Whether a key entry lets an access pass (R369). -/
def keyPasses (entry : Byte) (acc : Access) : Bool :=
  let key := field entry 4 4
  let foreign := field entry 2 2
  decide (acc.key = 0 ∨ key = 0 ∨ acc.key.toNat = key) ||
    (!acc.needW && (if acc.needX then decide (foreign = 1) else decide (foreign = 1 ∨ foreign = 2)))

/-- ACC, and for a store MOD, set in the entry of a frame (R370). -/
def State.touchFrame (s : State) (f : Nat) (write : Bool) : State :=
  s.setKeyEntry f (s.keyEntry f ||| (if write then 3 else 1))

/-! ### Rights (R362 to R366, R373) -/

/-- Whether a physical address is a side-effect region (R24). -/
def seRegion (pa : Nat) : Bool := decide (region pa = .dev ∨ region pa = .ctlStore)

/-- The guard, then the rights of an access to a block (R362, R363, R366), CHK as Table 11.2: U before R, W, X, SE (log 23). -/
def rightsFault (b : Block) (a : Half) (acc : Access) : Option Exc :=
  let f := b.flags
  let e : Exc := { accFault 6 a acc with src := b.src }
  if !acc.user && flagU f && (acc.needX || acc.guard) then some { e with ec := 7 }
  else if acc.user && !flagU f then some { e with chk := 4 }
  else if acc.needR && !flagR f then some { e with chk := 1 }
  else if acc.needW && !flagW f then some { e with chk := 2 }
  else if acc.needX && !flagX f then some { e with chk := 3 }
  else if (acc.needX || acc.noSe) && (flagSE f || seRegion (b.phys a.toNat)) then some { e with chk := 5 }
  else none

/-- The key check of an access to a physical byte (R369). -/
def keyFault (s : State) (c : Core) (pa : Nat) (a : Half) (acc : Access) : Option Exc :=
  match frameOf pa with
  | none => none
  | some f =>
    let e := s.keyFor c f
    if keyPasses e acc then none
    else some { accFault 8 a acc with pa := pa, kent := e, akey := acc.key }

/-- One byte's translation with all its checks, in the order walk, block, guard, rights, key (R373): its block and physical
address. -/
def State.xlate (s : State) (c : Core) (k : Ctx) (a : Half) (acc : Access) (locked : List Nat) : State × Except Exc (Block × Nat) :=
  match s.lookup c k a acc locked with
  | (s, .error e) => (s, .error e)
  | (s, .ok b) =>
    match rightsFault b a acc with
    | some e => (s, .error e)
    | none =>
      let pa := b.phys a.toNat
      let s := match frameOf pa with | some f => s.keyRepair f | none => s
      match keyFault s c pa a acc with
      | some e => (s, .error e)
      | none => (s, .ok (b, pa))

/-- The block of an address with no effect on the LABs: for the form of a handler or a popped entry (R205, R395), and for the side-effect
check of an operand (R274). -/
def State.peek (s : State) (c : Core) (k : Ctx) (a : Half) (fetch : Bool) : Option Block :=
  match findPbr s c k a.toNat with
  | some b => some b
  | none =>
    let x := s.core c
    let l := (if s.noIDL c then [] else if fetch then x.ilab else x.dlab) ++ (if s.noL2 c then [] else x.l2)
    match labFind l k a.toNat with
    | some e => some (descBlock e.lo e.hi e.idx)
    | none => match walk s c k a.toNat with
      | .hit e _ => some (descBlock e.lo e.hi e.idx)
      | _ => none

/-- The block of an address of code. -/
def State.peekBlock (s : State) (c : Core) (k : Ctx) (a : Half) : Option Block := s.peek c k a true

/-- Whether the code at a logical address is S-form (R204, R353). -/
def State.sForm (s : State) (c : Core) (k : Ctx) (a : Half) : Bool :=
  match s.peekBlock c k a with
  | some b => flagX b.flags && flagS b.flags
  | none => false

end Sys2Proof.Machine
end

