-- ==== Sys2Proof/Machine/Trap.lean ====
section
/-! DEFINITION. Taking a trap, halting and releasing a ledger core, and what its SYNC applies (spec/06, spec/11). -/

namespace Sys2Proof.Machine

/-! ### What a core reads -/

/-- The newest byte that a store buffer holds for a physical address. -/
def bufByte (buf : List StoreEntry) (a : Nat) : Option Byte :=
  buf.foldl (fun r e => if e.key = none ∧ e.word = a / 8 ∧ e.mask.getLsbD (a % 8) then some (wordByte e.data (a % 8)) else r) none

/-- A byte of memory as a context of a core sees it, its core's store buffer included (R319, R341). -/
def coreByte (s : State) (c : Core) (k : Ctx) (a : Nat) : Byte :=
  (bufByte (s.core c).buf a).getD (physByte s (.lc c k true) a)

/-- Whether a read of a byte meets an uncorrectable ECC error. -/
def State.eccBad (s : State) (a : Nat) : Bool :=
  match region a with
  | .sram => s.sramHard.contains (a / 4)
  | .nvla => s.nvla.hard.contains (a / 8)
  | .image => s.nvla.hard.contains (a / 8)
  | .hlog => s.nvla.hard.contains (a / 8)
  | _ => false

/-- Whether a ledger core's read of a region outside the device registers gives a bus error: 0 unmapped, 2 a control store, and the
flash beyond its density or silent as unmapped (R42, R703, Table 2.2); none if it is good. -/
def coreReadBad (s : State) (a : Nat) : Option Nat :=
  match region a with
  | .unmapped => some 0
  | .ctlStore => some 2
  | .qspi => if qspiBad s a then some 0 else none
  | _ => none

/-- Whether an instruction fetch outside the device registers gives a bus error: as a read, and outside the regions that Table 2.2 lets a
core execute (R22, R42). -/
def coreFetchBad (s : State) (a : Nat) : Option Nat :=
  match region a with
  | .image => some 3
  | .hlog => some 3
  | .tarnWin => some 3
  | _ => coreReadBad s a

/-! ### SYNC and the events of R222 -/

/-- A context's entries leave every LAB of its core (R360). -/
def State.dropLabs (s : State) (c : Core) (k : Ctx) : State :=
  s.modCore c fun x => { x with
    ilab := x.ilab.filter fun e => decide (e.ctx ≠ k), dlab := x.dlab.filter fun e => decide (e.ctx ≠ k),
    l2 := x.l2.filter fun e => decide (e.ctx ≠ k) }

/-- The invalidations of LCC_CACHE (R324, R338): [0] the instruction cache and line buffer, [1] the data cache, [2] the predictor; a
line fill in progress is discarded. -/
def CoreSt.invalidate (x : CoreSt) (v : BitVec 3) : CoreSt :=
  { x with
    icache := if v.getLsbD 0 then [] else x.icache, lineBuf := if v.getLsbD 0 then [] else x.lineBuf,
    dcache := if v.getLsbD 1 then [] else x.dcache,
    fills := x.fills.filter fun f => match f with
      | .dcache _ => !v.getLsbD 1
      | .icache _ => !v.getLsbD 0
      | .lineBuf _ => !v.getLsbD 0,
    predictor := if v.getLsbD 2 then Vector.replicate 64 1 else x.predictor }

/-- XLT_XDIAG empties the LABs of a core that it turns off (R379). -/
def State.dropDiag (s : State) (c : Core) : State :=
  let v := s.reg Reg.xltXdiag
  s.modCore c fun x => { x with
    l2 := if bit v 0 then [] else x.l2, ilab := if bit v 1 then [] else x.ilab, dlab := if bit v 1 then [] else x.dlab }

/-- Whether another master's commit of a register reaches an instruction at its next checkpoint, as those of the translation windows and of
the line routing do (R361, R404); every other one waits for the boundary (R225, R338, R379). -/
def pointReg (a : Nat) : Bool :=
  decide (Reg.xltWin 0 0 ≤ a ∧ a < Reg.xltWin 3 7 + 0x40) || decide (Reg.irqLine 0 ≤ a ∧ a < Reg.irqLine 48)

/-- At a boundary, and at a checkpoint for the registers that it reaches, the core goes over to the values that other masters have committed
while its instruction was in progress (R225, R338, R361, R379, R404). -/
def State.boundary (s : State) (c : Core) (whole : Bool) : State :=
  let due := (s.core c).lateRegs.filter fun e => whole || pointReg e.1
  if due.isEmpty ∧ (whole = false ∨ (s.core c).lateInv = 0) then s
  else
    let s := s.each allCtxs fun s k =>
      if due.any fun e => decide (e.1 = Reg.bdtb c.val k.val ∨ e.1 = Reg.bdtn c.val k.val) then s.dropLabs c k else s
    let s := if due.any fun e => decide (e.1 = Reg.xltXdiag) then s.dropDiag c else s
    s.modCore c fun x => { (if whole then x.invalidate x.lateInv else x) with
      lateRegs := x.lateRegs.filter fun e => !(whole || pointReg e.1), lateInv := if whole then 0 else x.lateInv }

/-- An instruction that waits is abandoned, or ends: the core is at a boundary (R313). -/
def State.dropHeld (s : State) (c : Core) : State := (s.modCore c fun x => { x with held := none }).boundary c true

/-- Another master's new value of a register comes into use at the core's next boundary or checkpoint, in place of one that the core
itself has committed and not yet brought into use. -/
def State.useNew (s : State) (c : Core) (a : Nat) : State :=
  let v := effReg s c a
  if (s.core c).held.isSome then s.modCore c fun x => { x with
    oldRegs := x.oldRegs.filter fun e => decide (e.1 ≠ a), lateRegs := (a, v) :: x.lateRegs.filter fun e => decide (e.1 ≠ a) }
  else if (s.core c).oldRegs.any fun e => decide (e.1 = a) then
    s.modCore c fun x => { x with oldRegs := x.oldRegs.filter fun e => decide (e.1 ≠ a) }
  else s

/-- The values that the core's SYNC, or an event of R222, brings into use. -/
def State.syncApply (s : State) (c : Core) : State :=
  let olds := (s.core c).oldRegs
  let s := s.each allCtxs fun s k =>
    if olds.any fun e => decide (e.1 = Reg.bdtb c.val k.val ∨ e.1 = Reg.bdtn c.val k.val) then s.dropLabs c k else s
  s.modCore c fun x => { x.invalidate x.pendInv with pendInv := 0, oldRegs := [], oldKeys := [] }

/-! ### Halts (R408 to R411, R233, R447) -/

/-- Every holder of a core is emptied (R41). -/
def State.emptyHolders (s : State) (c : Core) : State :=
  s.each (List.range 16) fun s i => s.modHolder (Fin.ofNat 65 (c.val * 16 + i)) fun _ => {}

/-- Whether a halt cause is one of 80h to 82h. -/
def severeHalt (cause : Nat) : Bool := decide (0x80 ≤ cause)

/-- The event of a halt cause (Table 11.5). -/
def haltEvent (cause : Nat) : Nat := if cause = 0x80 then 0x0122 else 0x0100 + cause

/-- The halts with HCAUSE 11h within the last hour, of all cores (R233). -/
def State.halts11 (s : State) : Nat := allCores.foldl (fun n d => n + (within s.us (minutes 60) (s.core d).haltTimes11).length) 0

/-- Health and REPLACE_N after a halt (Table 11.5, R233, R412). -/
def State.haltHealth (s : State) (c : Core) (cause : Nat) : State :=
  if severeHalt cause then
    let recent := within s.us (hours 24) (s.core c).haltTimes80
    (s.modCore c fun x => { x with haltTimes80 := s.us :: recent }).healthNotice c.val .failed (!recent.isEmpty) (haltEvent cause)
  else if cause = 0x11 then
    let s := s.modCore c fun x => { x with haltTimes11 := s.us :: within s.us (minutes 60) x.haltTimes11 }
    if 3 ≤ s.halts11 then s.addCause .halts11 0x0111 else s
  else s

/-- The cores whose lines have come to be served by no core are logged (R411). -/
def State.noteOrphans (s : State) (before : List Core) : State :=
  s.each (allCores.filter fun d => orphaned s d && !before.contains d) fun s d => s.hlog 0x0191 sevNotice d.val []

/-- What Wellhead records of a halt (Table 11.5); one that sets the core FAILED, or is a cause of REPLACE_N, is an error (R764). -/
def State.haltNoted (s : State) (c : Core) (cause : Nat) : State :=
  let error := severeHalt cause || (decide (cause = 0x11) && decide (2 ≤ s.halts11))
  let s := s.hlog (haltEvent cause) (if error then sevError else sevNotice) c.val [BitVec.ofNat 8 cause]
  let s := s.haltHealth c cause
  if cause = 1 ∨ cause = 0x11 then s else s.modPower fun p => { p with trialBroken := true }

/-- FAULTINFO of a context takes an exception (R390, R391). -/
def State.writeFault (s : State) (c : Core) (k : Ctx) (e : Exc) : State :=
  let b (i : Nat) : Nat := (e.bytes.getD i 0).toNat
  let a := Reg.irqFi c.val k.val
  let s := s.setReg (a 0) (BitVec.ofNat 32 (e.ec + e.bytes.length * 2 ^ 8 + e.kind * 2 ^ 11 + e.la.toNat * 2 ^ 16))
  let s := s.setReg (a 1) (BitVec.ofNat 32 (b 0 + b 1 * 2 ^ 8 + b 2 * 2 ^ 16 + b 3 * 2 ^ 24))
  let s := s.setReg (a 2) (BitVec.ofNat 32 (b 4 + b 5 * 2 ^ 8 + e.src * 2 ^ 16 + e.chk * 2 ^ 24 + e.walk * 2 ^ 27))
  let s := s.setReg (a 3) (BitVec.ofNat 32 e.pa)
  s.setReg (a 4) (BitVec.ofNat 32 (e.kent.toNat + e.akey.toNat * 2 ^ 8 + e.num * 2 ^ 16 + e.fctx * 2 ^ 24))

/-- What context 0 captures of an EC 11h (R398). -/
def Ec11.info (e : Ec11) : Exc := { ec := 0x11, la := e.pc, num := e.failedEc, fctx := e.ctx.val }

/-- A core halts (R409): nothing of it runs on, its holders and LABs are empty, its contexts STOPPED, its open group discarded; an EC 11h
that context 0 has still to take is recorded in its FAULTINFO (R419); the lines that no core serves any more are logged (R411). -/
def State.coreHalt (s : State) (c : Core) (cause : Nat) : State :=
  if (s.core c).core = .halted then s
  else
    let before := allCores.filter (orphaned s)
    let s := match (s.core c).ec11 with | some e => s.writeFault c 0 e.info | none => s
    let s := s.modCore c fun x => { x with
      core := .halted, hcause := BitVec.ofNat 8 cause, held := none, head := none, taking := none, kept := [], ec11 := none, ilab := [],
      dlab := [], l2 := [], lineBuf := [], fills := [], oldRegs := [], oldKeys := [], lateRegs := [], lateInv := 0, pendInv := 0,
      fallbackOn := false, ctxs := x.ctxs.map fun y => { y with state := .stopped, shadow := none } }
    (((s.emptyHolders c).discardGroup c).haltNoted c cause).noteOrphans before

/-! ### Trap entry (R390, R394 to R398) -/

/-- The vector of an exception code for a context (R374, R394): handler PC and flags word, with the bus error captured; none when it
is unusable (R396). A vector in a side-effect block or region is unusable, since no instruction names the read (R366; log 23). A read that
reaches the frame sets its ACC (R370). -/
def State.readVector (s : State) (c : Core) (k : Ctx) (ec : Nat) : State × Option (Half × Half) :=
  let a := (field (effReg s c (Reg.lccVbase c.val)) 9 7 * 512 + ec * 4) % 65536
  match findPbr s c k a with
  | none => (s, none)
  | some b =>
    let pa := b.phys a
    if ¬ flagR b.flags ∨ flagSE b.flags ∨ seRegion pa then (s, none)
    else match coreReadBad s pa with
    | some kind => (s.busError (.lc c k true) pa false .word kind false, none)
    | none =>
      if (List.range 4).any fun i => s.eccBad (pa + i) then
        (if region pa = .sram then s else s.nvUncorrectable pa, none)
      else
        let v (i : Nat) : Byte := coreByte s c k (pa + i)
        let s' := match frameOf pa with | some f => s.touchFrame f false | none => s
        (s'.nvSoftRead pa, some (half (v 0) (v 1), half (v 2) (v 3)))

/-- CTX of a handler: S, SG, KEY and IM from the flags word, FS from its block, PH and CD 0 (R395). -/
def handlerCtx (flags : Half) (sForm : Bool) : Half := (flags &&& 0xFE00) ||| (if sForm then 0x0100 else 0)

/-- A trap entry fails for want of room (R398): the context is STOPPED at the resume point and EC 11h waits for context 0. -/
def State.entryFails (s : State) (c : Core) (k : Ctx) (pc ctx : Half) (ec : Nat) : State :=
  let s := s.modCtx c k fun x => { x with
    state := .stopped, shadow := none, regs := { x.regs with pc, ctx }, wdtPend := x.wdtPend || decide (ec = 0x17) }
  s.modCore c fun x => { x with ec11 := some { failedEc := ec, ctx := k, pc } }

/-- The entry proper, once there is room: push, FAULTINFO, vector, handler (R395); an unusable vector halts the core (R396). -/
def State.enterVector (s : State) (c : Core) (k : Ctx) (pc ctx : Half) (ec : Nat) (info : Option Exc) : State :=
  let s := s.modCtx c k fun x => { x with
    stack := { pc, ctx, t := true } :: x.stack, shadow := none, regs := { x.regs with pc, ctx } }
  let s := match info with | some e => s.writeFault c k e | none => s
  match s.readVector c k ec with
  | (s, none) => s.coreHalt c 0x0A
  | (s, some (h, flags)) =>
    if flags &&& 0x01FF ≠ 0 then s.coreHalt c 0x0A
    else
      let f := s.sForm c k h
      (s.modCtx c k fun x => { x with regs := { x.regs with pc := h, ctx := handlerCtx flags f } }).syncApply c

/-- TAKING A TRAP in a context (R209, R211, R395): `pc` and `ctx` are the resume point. With all 32 entries in use it fails (R398). -/
def State.takeTrap (s : State) (c : Core) (k : Ctx) (pc ctx : Half) (ec : Nat) (info : Option Exc) : State :=
  let s := s.modCore c fun x => { x with head := none, taking := none }
  if 32 ≤ (s.ctx c k).stack.length then s.entryFails c k pc ctx ec else s.enterVector c k pc ctx ec info

/-! ### Contexts (R199 to R202, R406) -/

/-- The watchdog period of a core in microseconds (Table 11.6). -/
def State.wdtPeriod (s : State) (c : Core) : Nat := max 1 (field (s.reg (Reg.irqWdt c.val)) 0 16) * 10

/-- A STOPPED context becomes READY (R202); its watchdog restarts (R406). -/
def State.ctxGo (s : State) (c : Core) (k : Ctx) : State :=
  if (s.ctx c k).state = .stopped ∧ (s.core c).core = .run then
    s.modCtx c k fun x => { x with state := .ready, image := x.regs, wdtLeft := s.wdtPeriod c, stopReq := false }
  else s

/-- A context enters STOPPED (R202). -/
def State.ctxStop (s : State) (c : Core) (k : Ctx) : State :=
  s.modCtx c k fun x => { x with state := .stopped, stopReq := false, shadow := none }

/-- A STOP of a context (R202, R230): one that runs stops at its next boundary, any other at once. -/
def State.askStop (s : State) (c : Core) (k : Ctx) : State :=
  match (s.ctx c k).state with
  | .stopped => s
  | .run => s.modCtx c k fun x => { x with stopReq := true }
  | _ => s.ctxStop c k

/-! ### Release (R234, R349, R388, R422, R666) -/

/-- The registers at addresses from `lo` up to `hi` take their reset values. -/
def State.resetRange (s : State) (lo hi : Nat) : State := { s with regs := s.regs.filter fun e => ¬ (lo ≤ e.1 ∧ e.1 < hi) }

/-- The registers of a core that a reset of it resets: LCC, XLT windows, FAULTINFO and IRQ_WDTc (R388, R422, R671). -/
def State.resetCoreRegs (s : State) (c : Core) : State :=
  let s := (s.resetRange (Reg.lcc c.val) (Reg.lcc c.val + 0x1000)).resetRange (Reg.xltWin c.val 0) (Reg.xltWin c.val 0 + 0x200)
  (s.resetRange (Reg.irqFi c.val 0 0) (Reg.irqFi c.val 0 0 + 0x100)).setReg (Reg.irqWdt c.val) 0

/-- A core as a reset leaves it, with the histories of its unit kept (R234, R349). -/
def CoreSt.afterReset (x : CoreSt) : CoreSt :=
  { haltTimes80 := x.haltTimes80, haltTimes11 := x.haltTimes11, resetUsed := x.resetUsed, parityTimes := x.parityTimes }

/-- The release set of a core (R666). -/
def State.releaseSet (s : State) (c : Core) : State :=
  let s := s.setReg (Reg.lccEntry c.val) (s.power.releaseEntry.setWidth 32)
  let s := (s.setReg (Reg.pbrL c.val 0 0) 0x1D080000).setReg (Reg.pbrP c.val 0 0) s.power.releasePbr
  s.each [1, 2, 3] fun s i => (s.setReg (Reg.pbrL c.val 0 i) 0).setReg (Reg.pbrP c.val 0 i) 0

/-- The registers of context 0 at release (R234). -/
def releaseRegs (entry : Half) (sForm : Bool) : CtxRegs := { pc := entry, ctx := if sForm then 0x8300 else 0x8200 }

/-- A core is released: context 0 runs, in deterministic mode with LCC_CACHE clear, with everything of the core empty (R234, R349). -/
def State.coreRelease (s : State) (c : Core) : State :=
  let entry : Half := (s.reg (Reg.lccEntry c.val)).setWidth 16
  let s := (((s.latched.emptyHolders c).setReg (Reg.krsn c.val 0) 0).setReg (Reg.lccCache c.val) 0).setReg (Reg.lccMode c.val) 1
  let s := s.modCore c fun x => { x.afterReset with core := .run }
  let r := releaseRegs entry (s.sForm c 0 entry)
  s.modCtx c 0 fun _ => { regs := r, image := r, state := .run, wdtLeft := s.wdtPeriod c }

/-- Whether a core can act: running, not gated by the ladder, no EC 11h waiting for its context 0 (R393, R624). -/
def State.coreActs (s : State) (c : Core) : Bool :=
  decide ((s.core c).core = .run) && decide (s.power.entry = 0) && (s.core c).ec11.isNone

end Sys2Proof.Machine
end

