-- ==== Sys2Proof/Machine/Tarn.lean ====
section
/-! DEFINITION. The Tarn partition (spec/03): increments, totalizers and pulses, sessions and signed records, the mailbox and its
commands, signed commands, seal, mesh and case, faults and the start. -/

namespace Sys2Proof.Machine

/-- The results of a TMB command (Table 3.7). -/
inductive TmbResult where
  | ok | busy | reserved | badCh | notIn | inSession | noSession | notFrozen | badDec | logFull | sealClosed | badSig
  | badNonce | noKey | nvFault | refused
  deriving DecidableEq, Repr

/-- RESULT (Table 3.7). -/
def tmbCode : TmbResult → Nat
  | .ok => 0 | .busy => 1 | .reserved => 2 | .badCh => 3 | .notIn => 4 | .inSession => 5 | .noSession => 6 | .notFrozen => 7
  | .badDec => 8 | .logFull => 9 | .sealClosed => 10 | .badSig => 11 | .badNonce => 12 | .noKey => 13 | .nvFault => 14 | .refused => 15

/-! ### Channel entries and records -/

/-- A change of what Tarn keeps of a channel beside its entry: UCNT does not move. -/
def State.modChanKept (s : State) (n : Chan) (f : TarnChan → TarnChan) : State :=
  s.modTarn fun t => { t with chans := t.chans.set n (f t.chans[n]) }

/-- TMB_EVT.AUTO of a channel: Tarn stopped or closed it on its own (Table 3.5). -/
def State.autoBit (s : State) (n : Chan) : State := s.setBits Reg.tmbEvt (BitVec.ofNat 32 (2 ^ (8 + n.val)))

/-- Whether Tarn takes part: it has left reset and TCLK runs. -/
def State.tarnOn (s : State) : Bool := s.tarn.running && !s.tarn.tclkStopped

/-- The status of a session record (Table 3.3). -/
def recordStatus (c : TarnChan) (code : Nat) (slot4 : Bool) : Nat :=
  code + b2n c.presetHit * 256 + b2n c.caseSeen * 512 + b2n slot4 * 1024

/-- The 64 bytes of a session record body (R73). -/
def recordBody (n : Chan) (c : TarnChan) (amount : List Byte) (code : Nat) (slot4 : Bool) : List Byte :=
  [0x53, 0x52, 0x01, BitVec.ofNat 8 n.val] ++ beBytes 4 c.session.toNat ++ beBytes 6 c.start.toNat ++ beBytes 6 c.endTime.toNat ++
    beBytes 8 (quantityWord c.qty).toNat ++ beBytes 6 c.uprice.toNat ++ amount ++ totalBytes c.before ++ totalBytes c.after ++
    beBytes 2 (recordStatus c code slot4)

/-- The amount of a record that ledger firmware did not price (R72). -/
def unpricedAmount : List Byte := [0, 0, 0, 0, 0, 0, 0, 0x0F]

/-- Close codes (Table 3.4). -/
def closeComplete : Nat := 0
def closeInterrupted : Nat := 1
def closeTamper : Nat := 2
def closePowerLost : Nat := 3

/-- The session is frozen at time `t` (R13, R69): the quantity is SES, the totalizer after is FWD or REV by DIR. -/
def State.freezeAt (s : State) (n : Chan) (t : Time) : State :=
  s.modChan n fun c => { c with sess := .frozen, endTime := t, qty := c.ses, after := if c.dir then c.rev else c.fwd }

/-- The data field of a close entry (R76). -/
def closeData (body : List Byte) : List Byte :=
  (body.drop 4).take 4 ++ (body.drop 0x14).take 8 ++ (body.drop 0x34).take 10 ++ (body.drop 0x3E).take 2 ++ (sha256 body).take 10

/-- Tarn serves the head of the sign queue: it writes the close entry, once, and starts signing (R71). -/
def State.serveQueue (s : State) : State :=
  match s.tarn.queue with
  | [] => s
  | n :: _ =>
    if s.tarn.signing || s.tarn.signStop || s.tarn.keyLost || s.power.pfail || !s.tarnOn then s
    else
      let s := if (s.chan n).closeLogged then s
        else (s.tlog 0x0410 n.val 0 (closeData (s.chan n).body)).modChanKept n fun c => { c with closeLogged := true }
      s.modTarn fun t => { t with signing := true }

/-- SIGN fixes and stores the body and queues the record (R70). -/
def State.queueRecord (s : State) (n : Chan) (amount : List Byte) (code : Nat) (slot4 : Bool) : State :=
  let s := s.modChan n fun c => { c with sess := .signing, body := recordBody n c amount code slot4, closeLogged := false }
  (s.modArea fun t => { t with queue := t.queue ++ [n] }).serveQueue

/-- Tarn closes an OPEN or STOPPED session on its own at time `t` with a close code (R72, R101); no other session changes (R97, R98). -/
def State.closeOwn (s : State) (n : Chan) (code : Nat) (t : Time) : State :=
  match (s.chan n).sess with
  | .open => (((s.freezeAt n t).queueRecord n unpricedAmount code false)).autoBit n
  | .stopped => (((s.freezeAt n t).queueRecord n unpricedAmount code false)).autoBit n
  | _ => s

/-! ### Increments, totalizers and pulses (R57 to R64) -/

/-- The largest totalizer value and one (R60). -/
def totalMod : Nat := 10 ^ 20

/-- A totalizer passes its largest value (R60): event 0412h with the totalizer kind, 0 FWD, 1 REV, 2 SES (log 8). -/
def State.wrapLog (s : State) (n : Chan) (kind : Nat) (passed : Bool) : State :=
  if passed then s.tlog 0x0412 n.val 0 [BitVec.ofNat 8 kind] else s

/-- Whether a session counts quanta into SES. -/
def Sess.counts : Sess → Bool
  | .open => true | .stopped => true | _ => false

/-- The pulses that a further count owes (R63); none while DIV is 0. -/
def pulsesOwed (c : TarnChan) (count : Nat) : Nat :=
  let div := field c.mpoCfg 0 16
  if div = 0 then 0 else (c.quanta + count) / div

/-- The channel after its totalizers, quanta outside a session and owed pulses take an increment (R58, R59, R63, R64). Quanta of both
directions outside a session go into the one count of 0411h, which has no direction: DESIGN CHOICE (log 79). -/
def TarnChan.addQuanta (c : TarnChan) (rev : Bool) (count : Nat) (now : Time) : TarnChan :=
  let div := field c.mpoCfg 0 16
  let owed := pulsesOwed c count
  let b := c.backlog.toNat + owed
  let inSes := c.sess.counts && decide (rev = c.dir)
  let c1 : TarnChan := { c with
    fwd := if rev then c.fwd else (c.fwd + count) % totalMod
    rev := if rev then (c.rev + count) % totalMod else c.rev
    ses := if inSes then (c.ses + count) % totalMod else c.ses
    quanta := if div = 0 then c.quanta else (c.quanta + count) % div
    backlog := BitVec.ofNat 16 (min 0xFFFF b)
    overrun := c.overrun + (b - 0xFFFF) }
  if c.sess.counts then c1
  else { c1 with outCount := c.outCount + count, outFirst := if c.outCount = 0 then now else c.outFirst, outLast := now }

/-- The digits of a preset (Table 3.2); 0 is none. -/
def presetValue (p : BitVec 64) : Nat := ((parsePacked (beBytes 8 p.toNat)).map fun x => x.2).getD 0

/-- SES reaching a nonzero PRESET stops the session (R68). -/
def State.presetCheck (s : State) (n : Chan) : State :=
  let c := s.chan n
  if c.sess = .open ∧ presetValue c.preset ≠ 0 ∧ presetValue c.preset ≤ c.ses then
    (s.modChan n fun c => { c with sess := .stopped, presetHit := true }).autoBit n
  else s

/-- MPO-OVERRUN is logged with the count, at most once per second per channel (R64). -/
def State.overrunLog (s : State) (n : Chan) : State :=
  let c := s.chan n
  if c.overrun ≠ 0 ∧ rateDue s.us (seconds 1) c.overrunAt then
    (s.tlog 0x0434 n.val 0 (beBytes 4 c.overrun)).modChanKept n fun c => { c with overrun := 0, overrunAt := some s.us }
  else s

/-- Tarn adds one good increment (R58). -/
def State.addIncrement (s : State) (n : Chan) (rev : Bool) (count : Nat) : State :=
  let c := s.chan n
  let inSes := c.sess.counts && decide (rev = c.dir)
  let s := s.modChan n fun c => c.addQuanta rev count s.rtc
  let s := s.wrapLog n (b2n rev) (decide (totalMod ≤ (if rev then c.rev else c.fwd) + count))
  let s := s.wrapLog n 2 (inSes && decide (totalMod ≤ c.ses + count))
  (s.presetCheck n).overrunLog n

/-- Tarn takes every increment that engine `n` has queued (R141, R770). -/
def State.takeAll (s : State) (n : Chan) : State :=
  ((s.eng n).incs.foldl (fun s i => s.addIncrement n i.rev i.count.toNat) s).modEng n fun e => { e with incs := [] }

/-- Writes the aggregated out-of-session record 0411h with the count and the first and last time (R59). Nothing is written, or given up,
while Tarn does not run. -/
def State.outsideRecord (s : State) (n : Chan) : State :=
  let c := s.chan n
  if c.outCount = 0 ∨ ¬ s.tarn.running then s
  else (s.tlog 0x0411 n.val 0 (beBytes 4 c.outCount ++ beBytes 6 c.outFirst.toNat ++ beBytes 6 c.outLast.toNat)).modChanKept n
    fun c => { c with outCount := 0, outLoggedAt := some s.us }

/-! ### Faults (R97, R101, R102) -/

/-- Tarn acts on a fault of a channel (R101): what is lost is logged, an OPEN or STOPPED session closes INTERRUPTED, the channel goes
OUT with the fault code and TMB_EVT.AUTO is set. -/
def State.chanFault (s : State) (n : Chan) (code : Byte) (lost : List Byte) : State :=
  let s := s.tlog 0x0413 n.val 0 (code :: lost)
  ((s.closeOwn n closeInterrupted s.rtc).chanOut n code).autoBit n

/-- Each OPEN or STOPPED session closes INTERRUPTED and each channel keeps its legal state; every lost sub-quantum is logged
(R659, R670). -/
def State.closeAllInterrupted (s : State) : State :=
  s.each allChans fun s n => (s.tlog 0x0413 n.val 0 [0]).closeOwn n closeInterrupted s.rtc

/-- A hard-fault notice of an engine: a second one within 24 h sets PERM (R102). -/
def State.engineNotice (s : State) (n : Chan) (code : Byte) : State :=
  let s := (s.takeAll n).chanFault n code []
  let recent := within s.us (hours 24) (s.chan n).faultTimes
  s.modChan n fun c => { c with perm := c.perm || !recent.isEmpty, faultTimes := s.us :: recent, reloadUsed := false, reloaded := false }

/-- A converter's fault notice: its four channels fault with 10h, and are PERM when it is permanent (R187, R189, R190). -/
def State.converterNotice (s : State) (u : Cnv) (perm : Bool) : State :=
  s.each (groupOf u) fun s n =>
    (s.chanFault n 0x10 []).modChan n fun c => { c with perm := c.perm || perm }

/-! ### Debug (R717) -/

/-- Debug ends: event 041Dh (R717). -/
def State.debugEnd (s : State) : State :=
  if s.tarn.debugLeft = 0 then s
  else (s.modArea fun t => { t with debugLeft := 0 }).tlog 0x041D 0xFF 0 []

/-! ### The mailbox (R82 to R86) -/

/-- An argument register of a slot. -/
def State.tmbArg (s : State) (slot : Slot) (i : Nat) : Word := s.reg (Reg.tmbArg slot.val i)

/-- The `n` bytes of a packed field that starts at ARGi, its most significant byte first (Table 3.5). -/
def State.argBytes (s : State) (slot : Slot) (i n : Nat) : List Byte :=
  (beBytes 4 (s.tmbArg slot i).toNat ++ beBytes 4 (s.tmbArg slot (i + 1)).toNat).take n

/-- Tarn answers a command: RDATA words that it gives, then RSP with DONE (R83). -/
def State.tmbAnswer (s : State) (slot : Slot) (tag : Nat) (r : TmbResult) (data : List Word) : State :=
  (s.each data.zipIdx fun s p => s.setReg (Reg.tmbRdata slot.val p.2) p.1).setReg (Reg.tmbRsp slot.val)
    (BitVec.ofNat 32 (2 ^ 30 + tag * 65536 + tmbCode r))

/-- Whether EXTEST, HIGHZ or CLAMP is the current TAP instruction (R716). -/
def State.boundaryOn (s : State) : Bool := decide (s.side.tap = 0 ∨ s.side.tap = 3 ∨ s.side.tap = 4)

/-- The refusal of an OPEN, in this order: the arguments, the device, the log, the channel (R79, R84, R86, R104, R716; log 14). ARG0[31:1],
which Table 3.6 neither uses nor calls reserved, is ignored, as CH is in a command that has none (log 80). -/
def State.openRefusal (s : State) (slot : Slot) (n : Chan) : Option TmbResult :=
  if (parsePacked (s.argBytes slot 1 6)).isNone ∨ (parsePacked (s.argBytes slot 3 8)).isNone then some .badDec
  else if s.tarn.signStop ∨ s.tarn.keyLost ∨ s.boundaryOn then some .refused
  else if 3008 ≤ s.tarn.unexported then some .logFull
  else if (s.chan n).legal ≠ .isIn then some .notIn
  else if (s.chan n).sess ≠ .none then some .inSession
  else none

/-- The entry of a channel whose session opens (R67). -/
def TarnChan.opened (c : TarnChan) (number : Word) (now : Time) (dir : Bool) (price preset : List Byte) : TarnChan :=
  { c with
    sess := .open, session := number, start := now, dir, uprice := BitVec.ofNat 48 (beNat price),
    preset := BitVec.ofNat 64 (beNat preset), ses := 0, before := if dir then c.rev else c.fwd,
    presetHit := false, caseSeen := false, endTime := 0, qty := 0, after := 0, body := [], closeLogged := false }

/-- OPEN on channel `n` (R66, R67): quanta outside a session are recorded first (R59). -/
def State.openSession (s : State) (slot : Slot) (n : Chan) : State × TmbResult × List Word :=
  match s.openRefusal slot n with
  | some r => (s, r, [])
  | none =>
    let s := s.outsideRecord n
    let number := s.tarn.sesCtr + 1
    let s := s.modArea fun t => { t with sesCtr := number }
    (s.modChan n fun c => c.opened number s.rtc (bit (s.tmbArg slot 0) 0) (s.argBytes slot 1 6) (s.argBytes slot 3 8), .ok, [number])

/-- FREEZE (R69, R86). -/
def State.freezeSession (s : State) (n : Chan) : State × TmbResult × List Word :=
  match (s.chan n).sess with
  | .none => (s, .noSession, [])
  | .open => (s.freezeAt n s.rtc, .ok, [(s.chan n).session])
  | .stopped => (s.freezeAt n s.rtc, .ok, [(s.chan n).session])
  | _ => (s, .notFrozen, [])

/-- The amount that a SIGN supplies, or the result that refuses its arguments (R72, R84, R86). -/
def State.signAmount (s : State) (slot : Slot) : Except TmbResult (List Byte) :=
  let am := s.argBytes slot 0 8
  let a2 := s.tmbArg slot 2
  if a2.toNat / 2 ≠ 0 then .error .reserved
  else if bit a2 0 then
    if s.tmbArg slot 0 = 0 ∧ s.tmbArg slot 1 = 0 then .ok unpricedAmount else .error .badDec
  else if (parsePacked am).isNone then .error .badDec
  else if signNibble am = 0xC ∨ signNibble am = 0xD then .ok am
  else .error .badDec

/-- SIGN (R70, R86). -/
def State.signSession (s : State) (slot : Slot) (n : Chan) : State × TmbResult × List Word :=
  match s.signAmount slot with
  | .error r => (s, r, [])
  | .ok am =>
    match (s.chan n).sess with
    | .none => (s, .noSession, [])
    | .frozen => (s.queueRecord n am closeComplete (decide (slot = 4)), .ok, [])
    | _ => (s, .notFrozen, [])

/-- SETOUT: IN to OUT, refused in session (Table 3.6). A channel that is not IN is answered NOTIN (log 14). -/
def State.setOutChan (s : State) (n : Chan) : State × TmbResult × List Word :=
  if (s.chan n).sess ≠ .none then (s, .inSession, [])
  else if (s.chan n).legal ≠ .isIn then (s, .notIn, [])
  else (s.modChan n fun c => { c with legal := .out }, .ok, [])

/-- Whether a fault of a channel is present: its engine does not run, or its converter has a fault (Table 3.6). -/
def State.chanFaultPresent (s : State) (n : Chan) : Bool :=
  !(s.eng n).runs || (!(s.chan n).src && (s.cnv (cnvOf n)).faulty)

/-- REEVAL that finds a channel IN, or returns it to IN, after a successful RELOAD makes its engine WORN (R146), also when the FAILED
notice is still under way. -/
def State.reevalHealth (s : State) (n : Chan) : State :=
  if (s.chan n).reloaded && (s.eng n).runs && s.failedNow (0x10 + n.val) then s.healthRecover (0x10 + n.val) 0x0211 else s

/-- REEVAL: OUT to IN when no fault is present and PERM is 0 (Table 3.6, R102); an IN channel is answered OK (R782). -/
def State.reevalChan (s : State) (n : Chan) : State × TmbResult × List Word :=
  match (s.chan n).legal with
  | .isIn => (s.reevalHealth n, .ok, [])
  | .sealedOut => (s, .refused, [])
  | .out =>
    if (s.chan n).perm ∨ s.chanFaultPresent n then (s, .refused, [])
    else ((s.modChan n fun c => { c with legal := .isIn }).reevalHealth n, .ok, [])

/-- NONCE: a new 8-byte nonce, a free value (Table 3.6). -/
def State.newNonce (s : State) : State × TmbResult × List Word :=
  let v := Config.nonce s.free
  let s := s.nextFree.modTarn fun t => { t with nonce := some v }
  (s, .ok, [(v >>> 32).setWidth 32, v.setWidth 32])

/-- LOGACK (R80). -/
def State.logAck (s : State) (q : Word) : State × TmbResult × List Word :=
  if q < s.tarn.logExp then (s, .ok, [])
  else if s.tarn.logHead < q then (s, .reserved, [])
  else (s.modArea fun t => { t with logExp := q + 1 }, .ok, [])

/-- The RTC takes a value; its second becoming equal to the alarm fires it (R761). -/
def State.rtcSet (s : State) (t : Time) : State :=
  let changed := decide ((t >>> 16) ≠ (s.rtc >>> 16))
  let s := { s with rtc := t }
  if bit (s.reg Reg.rtcActl) 0 && changed && decide ((t >>> 16).setWidth 32 = s.reg Reg.rtcAlarm) then
    ((s.setBits Reg.tmrEvt 4).clearBits Reg.rtcActl 1).wake .rtc
  else s

/-- TIMESET: event 0408h with the old and new times, then the RTC (R77, R78). -/
def State.timeSet (s : State) (slot : Slot) : State × TmbResult × List Word :=
  let a1 := s.tmbArg slot 1
  if a1.toNat / 65536 ≠ 0 then (s, .reserved, [])
  else
    let t : Time := BitVec.ofNat 48 ((s.tmbArg slot 0).toNat * 65536 + a1.toNat)
    ((s.tlog 0x0408 0xFF 0 (beBytes 6 s.rtc.toNat ++ beBytes 6 t.toNat)).rtcSet t, .ok, [])

/-! ### Signed commands (R88 to R90) -/

/-- A signed command in the NVLA (R89): type, key slot, nonce, payload, signature and the bytes it covers. -/
structure SignedCmd where
  type : Nat
  key : Nat
  nonce : BitVec 64
  payload : List Byte
  covered : List Byte
  sig : List Byte
  deriving DecidableEq, Repr

/-- Whether `n` bytes at `a` lie in the NVLA. -/
def inNvla (a n : Nat) : Bool := decide (0x01000000 ≤ a) && decide (a + n ≤ 0x01800000)

/-- The payload length of a listed type (Table 3.8). -/
def signedLength (t : Nat) : Option Nat :=
  match t with
  | 1 => some 33 | 2 => some 1 | 3 => some 38 | 4 => some 49 | 5 => some 1 | 6 => some 1 | 7 => some 0 | 8 => some 2
  | _ => none

/-- The type that the bytes at an address name; none when the address is not in the NVLA. -/
def State.signedType (s : State) (a : Nat) : Option Nat := if inNvla a 16 then some (beAt (nvlByte s) a 2) else none

/-- Whether a payload holds no reserved value (Table 3.8, Table 3.2). -/
def signedPayloadOk (t : Nat) (p : List Byte) : Bool :=
  let b (i : Nat) : Nat := (p.getD i 0).toNat
  match t with
  | 1 => decide (b 0 < 4)
  | 2 => decide (b 0 < 4)
  | 3 =>
    let cfg := beNat (p.drop 34)
    decide (b 1 < 2) && decide (cfg % 65536 ≠ 0) && decide (cfg / 65536 % 256 ≠ 0) && decide (cfg < 2 ^ 25)
  | 4 => decide (b 0 < 2)
  | 8 => decide (1 ≤ beNat p) && decide (beNat p ≤ 3600)
  | _ => true

/-- Whether a type's payload begins with a channel. -/
def signedOnChannel (t : Nat) : Bool := decide (t = 3 ∨ t = 5 ∨ t = 6)

/-- Reads a signed command (R89); a reserved value or an address outside the NVLA is RESERVED, an uncorrectable word NVFAULT, a
channel above 7 BADCH. A length within 0 to 64 that is not the type's own is RESERVED (log 80). -/
def State.readSigned (s : State) (a : Nat) : Except TmbResult SignedCmd :=
  let f := nvlByte s
  if ¬ inNvla a 16 then .error .reserved
  else if s.nvBad a 16 then .error .nvFault
  else match signedLength (beAt f a 2) with
  | none => .error .reserved
  | some n =>
    if beAt f (a + 2) 2 ≠ n ∨ beAt f (a + 5) 3 ≠ 0 ∨ ¬ inNvla a (80 + n) then .error .reserved
    else if s.nvBad a (80 + n) then .error .nvFault
    else
      let p := bytesAt f (a + 16) n
      if signedOnChannel (beAt f a 2) ∧ 8 ≤ (p.getD 0 0).toNat then .error .badCh
      else if ¬ signedPayloadOk (beAt f a 2) p then .error .reserved
      else .ok { type := beAt f a 2, key := beAt f (a + 4) 1, nonce := BitVec.ofNat 64 (beAt f (a + 8) 8), payload := p,
                 covered := bytesAt f a (16 + n), sig := bytesAt f (a + 16 + n) 64 }

/-- The public key that must have signed a command: the valid slot's, or with no valid slot the key that ENROLL-KEY enrolls. -/
def State.signedKey (s : State) (c : SignedCmd) : Option (BitVec 256) :=
  if s.tarn.keys.toList.any fun k => decide (k.state = .valid) then
    if c.key < 4 ∧ s.tarn.keys[Fin.ofNat 4 c.key].state = .valid then some s.tarn.keys[Fin.ofNat 4 c.key].pub else none
  else if c.type = 1 then some (BitVec.ofNat 256 (beNat (c.payload.drop 1)))
  else none

/-- The channel of a payload. -/
def payloadChan (c : SignedCmd) : Chan := Fin.ofNat 8 (c.payload.getD 0 0).toNat

/-- The condition beyond R88 of a signed command (Table 3.8), as the result that refuses it. -/
def State.signedCondition (s : State) (c : SignedCmd) : Option TmbResult :=
  let n := payloadChan c
  match c.type with
  | 2 =>
    let k := (c.payload.getD 0 0).toNat
    if k = c.key ∧ (s.tarn.keys.toList.filter fun x => decide (x.state = .valid)).length = 1 then some .refused else none
  | 3 => if s.inSession n then some .inSession else none
  | 4 => if s.groupInSession (Fin.ofNat 2 (c.payload.getD 0 0).toNat) then some .inSession else none
  | 5 => if (s.chan n).perm then some .refused else none
  | 6 => if s.inSession n then some .inSession else none
  | 7 => if s.tarn.meshBroken then some .refused else none
  | _ => none

/-- Verification of R88 in its order: seal, nonce, key, signature; then the condition of Table 3.8. The nonce that matches is
consumed (log 14). -/
def State.checkSigned (s : State) (c : SignedCmd) : State × Option TmbResult :=
  if ¬ s.tarn.sealOpen then (s, some .sealClosed)
  else if s.tarn.nonce ≠ some c.nonce then (s, some .badNonce)
  else
    let s := s.modTarn fun t => { t with nonce := none }
    match s.signedKey c with
    | none => (s, some .noKey)
    | some k => if Config.verify k c.covered c.sig then (s, s.signedCondition c) else (s, some .badSig)

/-- The factor words of a SET-CNV-FACTORS payload. -/
def factorWords (p : List Byte) (g : Nat) : Word × Word :=
  (BitVec.ofNat 32 (beNat ((p.drop (1 + 8 * g)).take 4)), BitVec.ofNat 32 (beNat ((p.drop (5 + 8 * g)).take 4)))

/-- Tarn writes a converter's LOFF and LGAIN registers from its legal factors (R169). -/
def State.copyFactors (s : State) (u : Cnv) : State :=
  s.each (List.range 6) fun s g =>
    let f := (s.tarn.factors[u])[Fin.ofNat 6 g]
    (s.setReg (Reg.cnvLoff u.val g) f.1).setReg (Reg.cnvLgain u.val g) f.2

/-- The effect of an accepted signed command (Table 3.8). -/
def State.applySigned (s : State) (c : SignedCmd) : State :=
  let p := c.payload
  let n := payloadChan c
  let k : Fin 4 := Fin.ofNat 4 (p.getD 0 0).toNat
  match c.type with
  | 1 => s.modTarn fun t => { t with keys := t.keys.set k { state := .valid, pub := BitVec.ofNat 256 (beNat (p.drop 1)) } }
  | 2 => s.modTarn fun t => { t with keys := t.keys.set k { t.keys[k] with state := .revoked } }
  | 3 =>
    let mc : Vector Word 8 := Vector.ofFn fun i => BitVec.ofNat 32 (beNat ((p.drop (2 + 4 * i.val)).take 4))
    (s.modChan n fun x => { x with src := decide (p.getD 1 0 = 1), mc, mpoCfg := BitVec.ofNat 32 (beNat (p.drop 34)), valid := true }).modEng n
      fun e => { e with mc }
  | 4 =>
    let u : Cnv := Fin.ofNat 2 (p.getD 0 0).toNat
    (s.modTarn fun t => { t with factors := t.factors.set u (Vector.ofFn fun g => factorWords p g.val) }).copyFactors u
  | 5 => s.modChan n fun x => { x with legal := if x.legal = .sealedOut then .isIn else x.legal }
  | 6 => s.modChan n fun x => { x with legal := .sealedOut }
  | 7 => s.modArea fun t => { t with meshLatched := false }
  | 8 => s.modArea fun t => { t with debugLeft := beNat p }
  | _ => s

/-- SIGNED (R88): the entry 0405h before the change, or 0407h with the result. A command that is refused while it is read writes no 0407h
and leaves the nonce; the counter at 0_4008h counts accepted commands: DESIGN CHOICE (log 80). -/
def State.signedCommand (s : State) (slot : Slot) : State × TmbResult × List Word :=
  match s.readSigned (s.tmbArg slot 0).toNat with
  | .error r => (s, r, [])
  | .ok c =>
    match s.checkSigned c with
    | (s, some r) => (s.tlog 0x0407 0xFF 0 [BitVec.ofNat 8 (tmbCode r)], r, [])
    | (s, none) =>
      let ch := if signedOnChannel c.type then (payloadChan c).val else 0xFF
      let s := s.tlog 0x0405 ch 0 (beBytes 2 c.type ++ [BitVec.ofNat 8 c.key] ++ c.payload)
      ((s.modTarn fun t => { t with signedCtr := t.signedCtr + 1 }).applySigned c, .ok, [])

/-! ### RELOAD (R102, R134, R135, R615, Table 4.12) -/

/-- Whether R102 forbids a RELOAD: one has been accepted since a hard fault of the last 24 h. -/
def State.reloadSpent (s : State) (n : Chan) : Bool :=
  (s.chan n).reloadUsed && !(within s.us (hours 24) (s.chan n).faultTimes).isEmpty

/-- The result for a verification reason (R615). -/
def reasonResult (r : Nat) : TmbResult := if r = 3 then .noKey else if r = 6 then .refused else .badSig

/-- RELOAD: what refuses it, or the engine in LOAD with its store written and the command BUSY. Queued increments are delivered
first (R134, Table 4.12). A RELOAD refused at its verification leaves the engine as it was (log 14). -/
def State.reloadEngine (s : State) (slot : Slot) (n : Chan) (tag : Nat) : State × Option TmbResult :=
  let a := (s.tmbArg slot 0).toNat
  let c := s.chan n
  if a ≠ mcodeCopy n false ∧ a ≠ mcodeCopy n true then (s, some .reserved)
  else if c.sess ≠ .none then (s, some .inSession)
  else if c.perm ∨ s.reloadSpent n then (s, some .refused)
  else
    let s := s.takeAll n
    if s.nvBad a 0x6200 then (s, some .nvFault)
    else match verifyImage s (nvlByte s) typeMcode a with
    | .error r => (s, some (reasonResult r))
    | .ok h =>
      let same := decide ((s.eng n).digest = some h.digest)
      if ¬ same ∧ ¬ s.tarn.sealOpen then (s, some .sealClosed)
      else
        let s := if same then s
          else s.tlog 0x0414 n.val 0 ([BitVec.ofNat 8 n.val, BitVec.ofNat 8 (b2n (decide (a = mcodeCopy n true)))] ++ h.digest.take 16)
        let s := s.modEng n fun e => { e with
          runst := .load, postMortem := false, pmLeft := 0, heldWord := none, loaded := false, checking := false,
          store := loadStore (nvlByte s) (a + 0xC0) h.load }
        let s := s.modChanKept n fun c => { c with reloadUsed := c.reloadUsed || !c.faultTimes.isEmpty }
        (s.modTarn fun t => { t with reload := some { slot, tag := BitVec.ofNat 8 tag, chan := n, addr := a, verified := false } }, none)

/-! ### Submission -/

/-- Runs a command that a slot has submitted: the state and its answer; none while it goes on (RELOAD). -/
def State.tmbRun (s : State) (slot : Slot) (cmd : Word) : State × Option (TmbResult × List Word) :=
  let n : Chan := Fin.ofNat 8 (field cmd 8 3)
  let done (x : State × TmbResult × List Word) : State × Option (TmbResult × List Word) := (x.1, some x.2)
  match field cmd 0 8 with
  | 1 => done (s.openSession slot n)
  | 2 => done (s.freezeSession n)
  | 3 => done (s.signSession slot n)
  | 4 => done (s.setOutChan n)
  | 5 => done (s.reevalChan n)
  | 6 => done s.newNonce
  | 7 => done (s.signedCommand slot)
  | 8 => done (s.logAck (s.tmbArg slot 0))
  | 9 => match s.reloadEngine slot n (field cmd 16 8) with
    | (s, some r) => (s, some (r, []))
    | (s, none) => (s, none)
  | 10 => done (s.timeSet slot)
  | _ => done (s, .reserved, [])

/-- Runs a command and answers it, or leaves RSP.BUSY set (R83). -/
def State.tmbServe (s : State) (slot : Slot) (cmd : Word) : State :=
  let tag := field cmd 16 8
  let s := s.modTarn fun t => { t with lastSlot := slot }
  if cmd &&& 0xFF00F800 ≠ 0 then s.tmbAnswer slot tag .reserved []
  else match s.tmbRun slot cmd with
  | (s, some (r, d)) => s.tmbAnswer slot tag r d
  | (s, none) => s.setReg (Reg.tmbRsp slot.val) (BitVec.ofNat 32 (2 ^ 31 + tag * 65536))

/-- Whether a command must wait: another slot's RELOAD is under way (R52), or it is an OPEN after Tarn's consent (R650). -/
def State.tmbHolds (s : State) (cmd : Word) : Bool := s.tarn.reload.isSome || (decide (field cmd 0 8 = 1) && s.consented)

/-- A command waits in its slot with RSP.BUSY set; its arguments are read when Tarn serves it (log 80). -/
def State.tmbHold (s : State) (slot : Slot) (cmd : Word) : State :=
  (s.setReg (Reg.tmbRsp slot.val) (BitVec.ofNat 32 (2 ^ 31 + field cmd 16 8 * 65536))).modTarn fun t => { t with
    waiting := t.waiting.set slot (some cmd) }

/-- The waiting slot that Tarn serves next: round robin from the one after the last served (R100). -/
def State.nextSlot (s : State) : Option (Slot × Word) :=
  (List.range 5).findSome? fun i =>
    let k : Slot := Fin.ofNat 5 (s.tarn.lastSlot.val + 1 + i)
    match s.tarn.waiting[k] with
    | some cmd => if s.tmbHolds cmd then none else some (k, cmd)
    | none => none

/-- Tarn serves one waiting slot. -/
def State.serveSlot (s : State) : State :=
  match s.nextSlot with
  | some (k, cmd) => (s.modTarn fun t => { t with waiting := t.waiting.set k none }).tmbServe k cmd
  | none => s

/-- The commit of a slot's CMD by its owner submits the command (R83). While RSP.BUSY is 1 it is answered BUSY. One that comes during a
RELOAD waits for its end (R52), and an OPEN that comes after Tarn's consent for the wake, which it asks for (R650); an OPEN on a
converter channel wakes the ladder from Still (Table 18.4). While Tarn does not run, a submission is dropped without an answer:
DESIGN CHOICE (log 80). -/
def State.tmbSubmit (s : State) (slot : Slot) (cmd : Word) : State :=
  let s := s.setReg (Reg.tmbCmd slot.val) (cmd &&& 0x00FF07FF)
  let s := if cmd &&& 0xFF00F800 ≠ 0 then s.setBits Reg.tmbStat 0x80000000 else s
  let tag := field cmd 16 8
  if ¬ s.tarnOn then s
  else if bit (s.reg (Reg.tmbRsp slot.val)) 31 then
    s.setReg (Reg.tmbRsp slot.val) (BitVec.ofNat 32 (2 ^ 31 + 2 ^ 30 + tag * 65536 + tmbCode .busy))
  else
    let asks := decide (field cmd 0 8 = 1) && (s.consented || !(s.chan (Fin.ofNat 8 (field cmd 8 3))).src)
    let s := if asks then s.wake .openCmd else s
    if s.tmbHolds cmd then s.tmbHold slot cmd else s.tmbServe slot cmd

/-- The owner of a slot (R82). -/
def tmbOwner (slot : Slot) (m : Master) : Bool :=
  match m with
  | .lc c _ _ => decide (c.val = slot.val)
  | .wellhead => decide (slot = 4)
  | _ => false

/-- A command row of the mailbox: the submission, when CMD carries the row's code. -/
def tmbRow (code : Nat) (slot : Slot) (cmd : Word) (s : State) : Host.Outcome State Fault Refusal :=
  if field cmd 0 8 = code then .next (s.tmbSubmit slot cmd) else .next s

/-- A row of a signed command: the submission, when CMD is SIGNED and the command in the NVLA has the row's type. -/
def signedRow (type : Nat) (slot : Slot) (cmd : Word) (s : State) : Host.Outcome State Fault Refusal :=
  if field cmd 0 8 = 7 ∧ s.signedType (s.tmbArg slot 0).toNat = some type then .next (s.tmbSubmit slot cmd) else .next s

/-! ### Seal, mesh and case (R87, R91 to R93) -/

/-- SEAL_N changes (R87); closing the seal ends debug (R717). -/
def State.sealSet (s : State) (isOpen : Bool) : State :=
  if s.tarn.sealOpen = isOpen then s
  else
    let s := (s.modArea fun t => { t with sealOpen := isOpen }).tlog (if isOpen then 0x0403 else 0x0404) 0xFF 0 []
    let s := s.setBits Reg.tmbEvt 0x20000
    if isOpen then s else s.debugEnd

/-- CASE_N opens or closes (R93); a session that sees it open keeps that for its record. -/
def State.caseSet (s : State) (isOpen late : Bool) : State :=
  if s.tarn.caseOpen = isOpen then s
  else
    let s := (s.modArea fun t => { t with caseOpen := isOpen }).tlog (if isOpen then 0x0421 else 0x0422) 0xFF (b2n late) []
    if isOpen then
      s.each allChans fun s n => match (s.chan n).sess with
        | .none => s
        | .signing => s
        | _ => s.modChanKept n fun c => { c with caseSeen := true }
    else s

/-- A mesh break is latched (R91): every channel SEALED-OUT, each OPEN or STOPPED session closed TAMPER; debug ends (R717). -/
def State.meshBreak (s : State) (late : Bool) : State :=
  if s.tarn.meshLatched then s
  else
    let s := (s.modArea fun t => { t with meshLatched := true }).tlog 0x0420 0xFF (b2n late) []
    let s := s.each allChans fun s n => s.modChan n fun c => { c with legal := .sealedOut }
    let s := s.each allChans fun s n => s.closeOwn n closeTamper s.rtc
    (s.setBits Reg.tmbEvt 0x40000).debugEnd

/-- Tarn logs what the low-power comparator latched, stamped late (R92). -/
def State.lateEvents (s : State) : State :=
  let s := if s.tarn.lateMesh then s.meshBreak true else s
  let s := if s.tarn.lateCase then s.caseSet true true else s
  s.modTarn fun t => { t with lateMesh := false, lateCase := false }

/-- Tarn compares the meshes: three mismatches in a row on either latch a break (R91). -/
def State.meshSample (s : State) (bad0 bad1 : Bool) : State :=
  let n0 := if bad0 then min 3 (s.tarn.meshBad0 + 1) else 0
  let n1 := if bad1 then min 3 (s.tarn.meshBad1 + 1) else 0
  let latched := s.tarn.meshLatched
  let s := s.modTarn fun t => { t with meshBad0 := n0, meshBad1 := n1, meshBroken := bad0 || bad1 }
  if (n0 = 3 ∨ n1 = 3) ∧ ¬ latched then (s.meshBreak false).wake .tamp else s

/-- Tarn acts on a pin event: a change of SEAL_N or CASE_N is also a wake source. -/
def State.pinServe (s : State) (e : PinEvent) : State :=
  match e with
  | .sealPin o => if s.tarn.sealOpen = o then s else (s.sealSet o).wake .tamp
  | .casePin o => if s.tarn.caseOpen = o then s else (s.caseSet o false).wake .tamp
  | .mesh b0 b1 => s.meshSample b0 b1

/-- A pin event reaches Tarn, or waits for the end of a RELOAD (R52). -/
def State.pinEvent (s : State) (e : PinEvent) : State :=
  if s.tarn.reload.isSome then s.modTarn fun t => { t with pins := t.pins ++ [e] } else s.pinServe e

/-- Tarn serves what waits once nothing stands before it: the pin events in their order, then the slots (R52, R100). A slot whose command
is a RELOAD makes the rest wait again. -/
def State.serveWaiting (s : State) : State :=
  if ¬ s.tarnOn ∨ s.tarn.reload.isSome then s
  else
    let s := s.tarn.pins.foldl State.pinServe (s.modTarn fun t => { t with pins := [] })
    s.each (List.range 5) fun s _ => s.serveSlot

/-- A RELOAD ends with its answer, and what has waited is served (R52, R83). -/
def State.reloadEnds (s : State) (r : Reload) (x : TmbResult) : State :=
  ((s.modTarn fun t => { t with reload := none }).tmbAnswer r.slot r.tag.toNat x []).serveWaiting

/-- Tarn answers REFUSED in every slot that a restart of Tarn finds BUSY (R83; log 80). -/
def State.slotsRefused (s : State) : State :=
  s.each [0, 1, 2, 3, 4] fun s (k : Slot) =>
    let rsp := s.reg (Reg.tmbRsp k.val)
    if bit rsp 31 then s.tmbAnswer k (field rsp 16 8) .refused [] else s

/-! ### Losses (R103, R106) -/

/-- Tarn acts on what it finds lost of its two copies (R103, Table 16.3). -/
def State.copyLost (s : State) (loss : CopyLoss) : State :=
  match loss with
  | .one => (s.tlog 0x0440 0xFF 0 []).healthNotice 0x50 .worn false 0x0440
  | .channel n => (s.modChan n fun c => { c with legal := .sealedOut, perm := true }).tlog 0x0441 n.val 0 []
  | .deviceKey =>
    let s := s.modArea fun t => { t with keyLost := true, signing := false }
    let s := s.each allChans fun s n => s.modChan n fun c => { c with legal := .sealedOut }
    (s.tlog 0x0442 0xFF 0 []).healthNotice 0x50 .failed true 0x0442

/-! ### Start (R106, R673) -/

/-- The 32 bytes of the start record (Table 19.5). -/
def startRecord (s : State) : List Byte :=
  let p := s.power
  let flags := b2n (decide (p.startCause ≠ 1)) + 2 * b2n (!s.tarn.cleanSave) + 4 * b2n (p.boot.getLsbD 0) + 8 * b2n (p.boot.getLsbD 1)
  beBytes 4 p.starts ++ [p.startCause, BitVec.ofNat 8 flags] ++ beBytes 6 s.rtc.toNat ++ [0, 0, 0, 0] ++
    beBytes 2 s.mesh.epoch.toNat ++ List.replicate 14 0

/-- Tarn writes the start record (R673). -/
def State.writeStart (s : State) : State := s.modArea fun t => { t with startRec := startRecord s }

/-- Tarn marks a core reset in the start record: byte c of CRESET, stopping at FFh (R673). -/
def State.countCoreReset (s : State) (c : Core) : State :=
  s.modArea fun t => { t with startRec := t.startRec.modify (12 + c.val) fun b => if b = 0xFF then b else b + 1 }

/-- The marked bank runs at a start when Tarn firmware was installed (R616). -/
def TarnSt.runMarked (t : TarnSt) : TarnSt :=
  match t.tfwMarked with
  | some d => { t with bank := !t.bank, tfwRuns := some d, tfwMarked := none }
  | none => t

/-- Tarn leaves reset and runs the steps of R106: its copies, the pins, the entries, the start entry, the sessions under R99, the factors
(R190) and the engines (R147 to R149), but for those that the ladder has switched off, which restart at the wake. Debug does not outlast
a start (R717). A case opening latched below is stamped late (R92). -/
def State.tarnBegin (s : State) (sealOpen caseOpen meshBroken : Bool) : State :=
  let losses := s.tarn.losses
  let s := s.modTarn fun t => { t.runMarked with
    running := true, tclkStopped := false, signing := false, retry := false, meshBroken, meshBad0 := 0, meshBad1 := 0,
    reload := none, waiting := Vector.replicate 5 none, pins := [], losses := [], tfwInstall := none, denTrip := Vector.replicate 8 false
    chans := s.tarn.chans.map fun c => { c with mpo := .rest, testPulse := false } }
  let s := losses.foldl State.copyLost s.slotsRefused
  let s := s.debugEnd.sealSet sealOpen
  let s := (if s.tarn.lateCase then s.caseSet true true else s).caseSet caseOpen s.tarn.lateCase
  let s := s.modTarn fun t => { t with lateCase := false }
  let s := s.each allChans fun s n =>
    if (s.chan n).valid then s else s.modChan n fun c => { c with legal := .sealedOut }
  let s := (s.tlog (if s.tarn.cleanSave then 0x0401 else 0x0431) 0xFF 0 []).writeStart
  let s := s.lateEvents
  let s := s.each allChans fun s n => s.takeAll n
  let s := s.each allChans fun s n =>
    s.closeOwn n closePowerLost (if (s.chan n).endTime = 0 then s.rtc else (s.chan n).endTime)
  let s := s.serveQueue
  let s := s.each allCnvs fun s u => s.copyFactors u
  if s.power.entry = 6 then s else s.startEngines

/-! ### The commands -/

/-- INCREMENT_TAKE (R58), which waits while a RELOAD is under way (R52); an increment that fails its parity is a fault 11h of the channel (R101, Table 16.3). -/
def execIncrementTake (n : Chan) (parityBad : Bool) (s : State) : Host.Outcome State Fault Refusal :=
  match (s.eng n).incs with
  | [] => .next s
  | i :: rest =>
    if ¬ s.tarnOn ∨ s.tarn.reload.isSome then .next s
    else
      let s := s.modEng n fun e => { e with incs := rest }
      if parityBad then
        let recent := within s.us (hours 24) s.well.chanParity[n]
        let s := s.chanFault n 0x11 [BitVec.ofNat 8 (b2n i.rev), BitVec.ofNat 8 i.count.toNat]
        let s := s.modWell fun w => { w with chanParity := w.chanParity.set n (s.us :: recent) }
        .next (s.healthNotice (0x70 + n.val) (if recent.isEmpty then .worn else .failed) (!recent.isEmpty) 0x0413)
      else .next (s.addIncrement n i.rev i.count.toNat)

/-- OUTSIDE_SESSION_RECORD: at most once per second per channel (R59). -/
def execOutsideSessionRecord (n : Chan) (s : State) : Host.Outcome State Fault Refusal :=
  if s.tarnOn && rateDue s.us (seconds 1) (s.chan n).outLoggedAt then .next (s.outsideRecord n) else .next s

/-- TOTALIZER_SAVE (R61). -/
def State.saveTotals (s : State) : State :=
  s.modTarn fun t => { t with chans := t.chans.map fun c => { c with savedFwd := c.fwd, savedRev := c.rev, savedSes := c.ses }, savedRtc := s.rtc }

def execTotalizerSave (s : State) : Host.Outcome State Fault Refusal :=
  if s.tarnOn then .next s.saveTotals else .next s

/-- MPO_PULSE_START: an owed pulse starts once the gap has ended (R63, R105). -/
def execMpoPulseStart (n : Chan) (s : State) : Host.Outcome State Fault Refusal :=
  let c := s.chan n
  if s.tarnOn ∧ c.mpo = .rest ∧ c.backlog ≠ 0 then
    .next (s.modChan n fun c => { c with mpo := .pulse, backlog := c.backlog - 1 })
  else .next s

/-- MPO_PULSE_END: the gap begins (R63). -/
def execMpoPulseEnd (n : Chan) (s : State) : Host.Outcome State Fault Refusal :=
  if (s.chan n).mpo = .pulse then .next (s.modChanKept n fun c => { c with mpo := .gap }) else .next s

/-- MPO_GAP_END (R63). -/
def execMpoGapEnd (n : Chan) (s : State) : Host.Outcome State Fault Refusal :=
  if (s.chan n).mpo = .gap then .next (s.modChanKept n fun c => { c with mpo := .rest }) else .next s

/-- OPEN (R67). -/
def execTmbOpen (slot : Slot) (cmd : Word) (s : State) : Host.Outcome State Fault Refusal := tmbRow 1 slot cmd s
/-- FREEZE (R69). -/
def execFreeze (slot : Slot) (cmd : Word) (s : State) : Host.Outcome State Fault Refusal := tmbRow 2 slot cmd s
/-- SIGN (R70). -/
def execSign (slot : Slot) (cmd : Word) (s : State) : Host.Outcome State Fault Refusal := tmbRow 3 slot cmd s
/-- SETOUT (R84). -/
def execSetout (slot : Slot) (cmd : Word) (s : State) : Host.Outcome State Fault Refusal := tmbRow 4 slot cmd s
/-- REEVAL (R84). -/
def execReeval (slot : Slot) (cmd : Word) (s : State) : Host.Outcome State Fault Refusal := tmbRow 5 slot cmd s
/-- NONCE (R84). -/
def execNonce (slot : Slot) (cmd : Word) (s : State) : Host.Outcome State Fault Refusal := tmbRow 6 slot cmd s
/-- LOGACK (R80). -/
def execLogack (slot : Slot) (cmd : Word) (s : State) : Host.Outcome State Fault Refusal := tmbRow 8 slot cmd s
/-- RELOAD (R134). -/
def execReload (slot : Slot) (cmd : Word) (s : State) : Host.Outcome State Fault Refusal := tmbRow 9 slot cmd s
/-- TIMESET (R77). -/
def execTimeset (slot : Slot) (cmd : Word) (s : State) : Host.Outcome State Fault Refusal := tmbRow 10 slot cmd s

/-- TMB_RESERVED_CODE: codes 00h and 0Bh to FFh (R84). -/
def execTmbReservedCode (slot : Slot) (cmd : Word) (s : State) : Host.Outcome State Fault Refusal :=
  if field cmd 0 8 = 0 ∨ 10 < field cmd 0 8 then .next (s.tmbSubmit slot cmd) else .next s

/-- SIGNATURE_DONE: the record is released when Tarn's own check passes (R71); a failed check is made once more, a second one stops
signing and leaves the record queued (R104). -/
def execSignatureDone (ok : Bool) (s : State) : Host.Outcome State Fault Refusal :=
  match s.tarn.queue with
  | [] => .next s
  | n :: rest =>
    if ¬ s.tarn.signing ∨ ¬ s.tarnOn then .next s
    else if ok then
      let s := s.modChan n fun c => { c with sess := .none, record := c.body ++ (List.range 64).map (Config.sign c.body) }
      let s := s.modArea fun t => { t with queue := rest, signing := false, retry := false }
      .next (s.setBits Reg.tmbEvt (BitVec.ofNat 32 (2 ^ n.val))).serveQueue
    else if ¬ s.tarn.retry then .next (s.modTarn fun t => { t with retry := true })
    else
      let s := (s.tlog 0x0443 n.val 0 []).modArea fun t => { t with signing := false, retry := false, signStop := true }
      .next (s.healthNotice 0x50 .failed true 0x0443)

/-- NONCE_EXPIRY (R84). -/
def execNonceExpiry (s : State) : Host.Outcome State Fault Refusal := .next (s.modTarn fun t => { t with nonce := none })

/-- A load fails: the engine stays HELD, its channel goes OUT with 05h, and 0212h is logged (R134, R135). -/
def State.loadFails (s : State) (n : Chan) : State :=
  ((s.modEng n fun e => { e with runst := .held, loaded := false, checking := false }).chanOut n 5).hlog 0x0212 sevNotice (0x10 + n.val) []

/-- LOAD_VERIFY_DONE: the engine has checked every word (R134). A mismatch, or a word with an ECC error, fails the load; a RELOAD then
answers NVFAULT (log 14). A start-up load that passes releases its engine (R148, R149). -/
def execLoadVerifyDone (n : Chan) (ok : Bool) (s : State) : Host.Outcome State Fault Refusal :=
  let good := ok && (s.eng n).storeGood
  if (s.eng n).checking then
    .next (if good then s.modEng n fun e => e.started (s.chan n).mc else s.loadFails n)
  else match s.tarn.reload with
  | none => .next s
  | some r =>
    if r.chan ≠ n ∨ r.verified then .next s
    else if good then .next (s.modTarn fun t => { t with reload := some { r with verified := true } })
    else .next ((s.loadFails n).reloadEnds r .nvFault)

/-- Tarn raises a rollback floor and logs 0416h with the type and both values (R608). -/
def State.raiseFloor (s : State) (type : Nat) (v : Half) : State :=
  let i : Fin 4 := Fin.ofNat 4 (type - 1)
  let old := s.tarn.floors[i]
  if old < v then
    (s.modArea fun t => { t with floors := t.floors.set i v }).tlog 0x0416 0xFF 0
      ([BitVec.ofNat 8 type] ++ beBytes 2 old.toNat ++ beBytes 2 v.toNat)
  else s

/-- RELOAD_DONE (R135, R608, R615). -/
def execReloadDone (n : Chan) (s : State) : Host.Outcome State Fault Refusal :=
  match s.tarn.reload with
  | none => .next s
  | some r =>
    if r.chan ≠ n ∨ ¬ r.verified then .next s
    else
      let h := imageHead (nvlByte s) r.addr
      let s := s.modEng n fun e => { e.started (s.chan n).mc with
        event := h.flags.getLsbD 0, qmode := BitVec.ofNat 2 (h.flags.toNat / 2),
        digest := some h.digest, copy1 := decide (r.addr = mcodeCopy n true) }
      let s := ((s.raiseFloor typeMcode h.rollback).hlog 0x0211 sevNotice (0x10 + n.val) []).modChanKept n fun c => { c with reloaded := true }
      .next (s.reloadEnds r .ok)

/-- ENROLL_KEY (R90). -/
def execEnrollKey (slot : Slot) (cmd : Word) (s : State) : Host.Outcome State Fault Refusal := signedRow 1 slot cmd s
/-- REVOKE_KEY (R90). -/
def execRevokeKey (slot : Slot) (cmd : Word) (s : State) : Host.Outcome State Fault Refusal := signedRow 2 slot cmd s
/-- SET_CONSTANTS (R90, R109). -/
def execSetConstants (slot : Slot) (cmd : Word) (s : State) : Host.Outcome State Fault Refusal := signedRow 3 slot cmd s
/-- SET_CNV_FACTORS (R90, R169). -/
def execSetCnvFactors (slot : Slot) (cmd : Word) (s : State) : Host.Outcome State Fault Refusal := signedRow 4 slot cmd s
/-- CHANNEL_IN (R90, R102). -/
def execChannelIn (slot : Slot) (cmd : Word) (s : State) : Host.Outcome State Fault Refusal := signedRow 5 slot cmd s
/-- CHANNEL_SEALED_OUT (R90). -/
def execChannelSealedOut (slot : Slot) (cmd : Word) (s : State) : Host.Outcome State Fault Refusal := signedRow 6 slot cmd s
/-- CLEAR_TAMPER (R90, R91). -/
def execClearTamper (slot : Slot) (cmd : Word) (s : State) : Host.Outcome State Fault Refusal := signedRow 7 slot cmd s
/-- DEBUG_ENABLE (R717). -/
def execDebugEnable (slot : Slot) (cmd : Word) (s : State) : Host.Outcome State Fault Refusal := signedRow 8 slot cmd s

/-- SIGNED_RESERVED_TYPE (R90): a type that Table 3.8 does not list, or an address outside the NVLA. -/
def execSignedReservedType (slot : Slot) (cmd : Word) (s : State) : Host.Outcome State Fault Refusal :=
  if field cmd 0 8 = 7 ∧ ((s.signedType (s.tmbArg slot 0).toNat).bind signedLength).isNone then .next (s.tmbSubmit slot cmd)
  else .next s

/-- SEAL_CHANGE (R87): also a wake source. -/
def execSealChange (isOpen : Bool) (s : State) : Host.Outcome State Fault Refusal :=
  .next (if s.tarnOn then s.pinEvent (.sealPin isOpen) else s)

/-- MESH_COMPARE: three mismatches in a row on either mesh latch a break (R91). -/
def execMeshCompare (bad0 bad1 : Bool) (s : State) : Host.Outcome State Fault Refusal :=
  .next (if ¬ s.tarnOn ∨ 4 ≤ s.power.ps then s else s.pinEvent (.mesh bad0 bad1))

/-- CASE_CHANGE (R93): also a wake source. -/
def execCaseChange (isOpen : Bool) (s : State) : Host.Outcome State Fault Refusal :=
  .next (if ¬ s.tarnOn ∨ 4 ≤ s.power.ps then s else s.pinEvent (.casePin isOpen))

/-- LOW_POWER_COMPARATOR_BREAK: in PS4 and PS5 the break is latched, to be logged at the wake (R92). -/
def execLowPowerComparatorBreak (src : LowPowerBreak) (s : State) : Host.Outcome State Fault Refusal :=
  if s.power.ps < 4 then .next s
  else match src with
  | .mesh => .next ((s.modTarn fun t => { t with lateMesh := true }).wake .tamp)
  | .caseChange => .next ((s.modTarn fun t => { t with lateCase := true }).wake .tamp)

/-- XDIAG_TEST_PULSE: honoured only while the channel is OUT with no session and its XDIAG bit is set (R94). -/
def execXdiagTestPulse (n : Chan) (on : Bool) (s : State) : Host.Outcome State Fault Refusal :=
  let c := s.chan n
  if on then
    if s.tarnOn ∧ bit (s.reg Reg.tmbXdiag) n.val ∧ c.legal = .out ∧ c.sess = .none then
      .next (s.modChanKept n fun c => { c with testPulse := true })
    else .next s
  else .next (s.modChanKept n fun c => { c with testPulse := false })

/-- FAULT_NOTICE: Tarn takes the oldest notice (R101, R187). -/
def execFaultNotice (s : State) : Host.Outcome State Fault Refusal :=
  match s.tarn.notices with
  | [] => .next s
  | x :: rest =>
    if ¬ s.tarnOn then .next s
    else
      let s := s.modTarn fun t => { t with notices := rest }
      match x with
      | .engine n code => .next (s.engineNotice n code)
      | .converter u perm => .next (s.converterNotice u perm)

/-- TARN_COPY_LOSS (R103, Table 16.3); while Tarn does not run, step 1 of its next start finds the loss (R106). -/
def execTarnCopyLoss (loss : CopyLoss) (s : State) : Host.Outcome State Fault Refusal :=
  .next (if s.tarnOn then s.copyLost loss else s.modTarn fun t => { t with losses := t.losses ++ [loss] })

/-- TCLK_WATCHDOG: every DEN is released and MPO held inactive until Tarn restarts (R105); disarmed in Ice (R637). -/
def execTclkWatchdog (s : State) : Host.Outcome State Fault Refusal :=
  if s.power.ps = 5 then .next s
  else .next (s.modTarn fun t => { t with tclkStopped := true, running := false })

/-- TARN_START (R106): Tarn leaves reset while the always-on domain has power. -/
def execTarnStart (sealOpen caseOpen meshBroken : Bool) (s : State) : Host.Outcome State Fault Refusal :=
  if s.tarnOn ∨ s.power.stage = .off then .next s
  else
    let s := s.tarnBegin sealOpen caseOpen meshBroken
    .next (if s.power.stage = .vcore then s.modPower fun p => { p with stage := .tarn } else s)

end Sys2Proof.Machine
end

