-- ==== Sys2Proof/Machine/Wellhead.lean ====
section
/-! DEFINITION. Wellhead (spec/16): sensors, health states, views, the state area, the `app` exchange, its start and restart. -/

namespace Sys2Proof.Machine

/-! ### Sensors (R572 to R576) -/

/-- The place of a sensor among the registers of Table 16.6; it is also the sensor number of its records (log 8). -/
def sensorIndex (i : Sensor) : Fin 12 :=
  match i with
  | .temp k => ⟨k.val, by omega⟩
  | .vin => 4 | .vcore => 5 | .avdd => 6
  | .vio b => ⟨7 + b.val, by omega⟩
  | .vref => 10 | .hold => 11

/-- A row of Table 16.1 in the units of Table 16.6: range, the limits of a warning and of a critical crossing, whether a limit itself
lies beyond, hysteresis, event and WMB_EVT bit. -/
structure SensorRow where
  low : Int
  high : Int
  warnLow : Option Int := none
  warnHigh : Option Int := none
  critLow : Option Int := none
  critHigh : Option Int := none
  closed : Bool := false
  hyst : Int
  event : Nat
  evt : Word := 0x20
  deriving DecidableEq, Repr

/-- The limits of an I/O bank around its nominal voltage (Table 16.1, R573). -/
def vioRow (nominal : Nat) : SensorRow :=
  let base : SensorRow := { low := 0, high := 4000, hyst := 20, event := 0x0754 }
  if nominal = 1 then { base with warnLow := some 1620, warnHigh := some 1980 }
  else if nominal = 2 then { base with warnLow := some 2970, warnHigh := some 3630 }
  else base

/-- Table 16.1. -/
def sensorRow (i : Sensor) (x : SensorSt) : SensorRow :=
  match i with
  | .temp _ =>
    { low := -880, high := 2400, warnHigh := some (if Config.gradeX then 2080 else 1840),
      critHigh := some (if Config.gradeX then 2240 else 2000), closed := true, hyst := 80, event := 0x0750, evt := 0x10 }
  | .vin => { low := 0, high := 40000, warnLow := some 5000, warnHigh := some 32000, critHigh := some 36000, hyst := 200, event := 0x0753 }
  | .vcore =>
    { low := 0, high := 1200, warnLow := some 810, warnHigh := some 890, critLow := some 780, critHigh := some 920, hyst := 10,
      event := 0x0754 }
  | .avdd =>
    { low := 0, high := 4000, warnLow := some 3135, warnHigh := some 3465, critLow := some 2970, critHigh := some 3630, hyst := 20,
      event := 0x0754 }
  | .vio _ => vioRow x.nominal
  | .vref => { low := 0, high := 30000, warnLow := some 24750, warnHigh := some 25250, hyst := 20, event := 0x0754 }
  | .hold =>
    { low := 0, high := 14000, warnLow := if x.charged then some 11500 else none, critLow := some 8000, hyst := 100, event := 0x0755 }

/-- The four limits of a row: warning low and high, critical low and high. -/
def SensorRow.limits (row : SensorRow) : Vector (Option Int) 4 := #v[row.warnLow, row.warnHigh, row.critLow, row.critHigh]

/-- Whether limit `k` of a row, at `l`, is a high one. -/
def highLimit (k : Fin 4) : Bool := decide (k.val % 2 = 1)

/-- Whether a reading lies beyond limit `k` of a row, at `l`. -/
def SensorRow.beyond (row : SensorRow) (k : Fin 4) (l r : Int) : Bool :=
  if highLimit k then (if row.closed then decide (l ≤ r) else decide (l < r)) else decide (r < l)

/-- Whether a reading lies inside limit `k` of a row, at `l`, by at least the hysteresis. -/
def SensorRow.inside (row : SensorRow) (k : Fin 4) (l r : Int) : Bool :=
  if highLimit k then decide (r ≤ l - row.hyst) else decide (l + row.hyst ≤ r)

/-- Two consecutive samples cross or clear a limit (R572): its tracking, and whether it was crossed or cleared now. -/
def LimitSt.track (x : LimitSt) (isBeyond isInside : Bool) : LimitSt × Option Bool :=
  if x.crossed then
    if isInside then (if 1 ≤ x.inside then ({}, some false) else ({ crossed := true, inside := 1 }, none)) else ({ crossed := true }, none)
  else if isBeyond then (if 1 ≤ x.beyond then ({ crossed := true }, some true) else ({ beyond := 1 }, none)) else ({}, none)

/-- Limit `k` of a sensor after a reading, with what happened; a limit that the row does not have stays. -/
def SensorSt.limitAfter (x : SensorSt) (row : SensorRow) (r : Int) (k : Fin 4) : LimitSt × Option Bool :=
  match row.limits[k] with
  | none => (x.limits[k], none)
  | some l => x.limits[k].track (row.beyond k l r) (row.inside k l r)

/-- The data of a sensor record: what happened, the sensor and the reading (R572). -/
def sensorData (kind : Nat) (i : Sensor) (r : Int) : List Byte :=
  [BitVec.ofNat 8 kind, BitVec.ofNat 8 (sensorIndex i).val] ++ beBytes 2 (BitVec.ofInt 16 r).toNat

/-- A crossing or clearing is logged; a crossing sets its WMB_EVT bit, and a HOLD warning NVL_EVT.HOLDLOW (R574). -/
def State.sensorEvent (s : State) (i : Sensor) (row : SensorRow) (r : Int) (critical : Bool) (ev : Option Bool) : State :=
  match ev with
  | none => s
  | some false => s.hlog row.event sevNotice 0xFF (sensorData 2 i r)
  | some true =>
    let s := (s.hlog row.event (if critical then sevCritical else sevWarning) 0xFF (sensorData (b2n critical) i r)).setBits Reg.wmbEvt row.evt
    if i = .hold ∧ ¬ critical then s.setBits Reg.nvlEvt 0x80 else s

/-- The state with a sensor's tracking set. -/
def State.setSensor (s : State) (i : Sensor) (x : SensorSt) : State :=
  s.modWell fun w => { w with sensors := w.sensors.set (sensorIndex i) x }

/-- SENSOR_SAMPLE (R572, R574, R576). -/
def execSensorSample (i : Sensor) (reading : Int) (selfTestFails : Bool) (s : State) : Host.Outcome State Fault Refusal :=
  if ¬ s.wellheadRuns then .next s
  else
    let x := s.well.sensors[sensorIndex i]
    let row := sensorRow i x
    let same := if x.valid ∧ x.reading = reading then x.same + 1 else 1
    if x.bad then .next s
    else if reading < row.low ∨ row.high < reading ∨ (1000 ≤ same ∧ selfTestFails) then
      .next ((s.setSensor i { x with reading, valid := false, bad := true, same }).hlog 0x0756 sevNotice 0xFF (sensorData 0 i reading))
    else
      let s := s.setSensor i { x with reading, valid := true, same, limits := Vector.ofFn fun k => (x.limitAfter row reading k).1 }
      .next (s.each [0, 1, 2, 3] fun s k => s.sensorEvent i row reading (decide (2 ≤ k.val)) (x.limitAfter row reading k).2)

/-- Wellhead classifies a bank; an unknown one is logged (R573). -/
def State.classifyBank (s : State) (b : Fin 3) : State :=
  let k := bankClass s.power.vioMilli[b]
  let x := s.well.sensors[sensorIndex (.vio b)]
  let s := s.setSensor (.vio b) { x with nominal := k }
  if k = 3 then s.hlog 0x0754 sevNotice 0xFF (sensorData 0 (.vio b) s.power.vioMilli[b]) else s

/-- The event codes of the clock monitors (Table 18.12) with their loss and restoration. -/
def State.clockEvent (s : State) (code : Nat) : State :=
  s.modWell fun w => { w with clkEvents := w.clkEvents ++ [code] }

/-- CLOCK_MONITOR_POLL: Wellhead logs what the clock monitors have seen since the last poll (R575, R655). -/
def execClockMonitorPoll (s : State) : Host.Outcome State Fault Refusal :=
  if ¬ s.wellheadRuns then .next s
  else
    let s' := s.each s.well.clkEvents fun s c => s.hlog c sevNotice 0xFF []
    .next (s'.modWell fun w => { w with clkEvents := [] })

/-- WMB_TAMP as Tarn's pins give it. -/
def tamperBits (t : TarnSt) : Nibble := BitVec.ofNat 4 (b2n t.sealOpen + 2 * b2n t.meshLatched + 4 * b2n t.caseOpen)

/-- TAMPER_STATUS_COPY: WMB_TAMP follows TMB_STAT; a change is logged (R575). -/
def execTamperStatusCopy (s : State) : Host.Outcome State Fault Refusal :=
  let t := tamperBits s.tarn
  if ¬ s.wellheadRuns ∨ t = s.well.tamp then .next s
  else .next ((s.modWell fun w => { w with tamp := t }).hlog 0x0757 sevNotice 0xFF [t.setWidth 8])

/-! ### Health (R577 to R583) -/

/-- The state with a unit's health set. -/
def State.setUnit (s : State) (u : Nat) (x : UnitSt) : State :=
  s.modWell fun w => { w with units := Sparse.set (fun _ => {}) w.units u x }

/-- Wellhead drives each channel's FAILED input to the interlock (R571, R579). -/
def State.driveFailed (s : State) : State :=
  s.modWell fun w => { w with failedIn := Vector.ofFn fun n => decide (chanHealth s n = .failed) }

/-- Whether a unit may take a health state (R578). -/
def healthAllowed (x : UnitSt) (n : HealthNotice) : Bool :=
  !(decide (x.health = .failed) && x.perm) &&
  (match n.health with
   | .failed => true
   | .worn => if n.recover then decide (x.health = .failed) else decide (x.health = .good)
   | .good => false)

/-- The events of an engine's or a converter's failure, which Wellhead logs with the change (R144, R187, R189, R146). -/
def State.failureEvent (s : State) (n : HealthNotice) : State :=
  let hi := n.event.toNat / 256
  let u := n.unit.toNat
  if n.health = .failed ∧ (hi = 2 ∨ hi = 3) then
    let code := if hi = 2 then (s.eng (Fin.ofNat 8 u)).fcode else BitVec.ofNat 8 (s.cnv (Fin.ofNat 2 u)).fcause
    let s := s.hlog n.event.toNat sevError u [code]
    if n.perm then s.hlog (if hi = 2 then 0x0213 else 0x0306) sevError u [code] else s
  else s

/-- A health change is applied, logged as 0710h with the unit, both states and the cause, and drives the latches (R580, R582). -/
def State.healthChange (s : State) (n : HealthNotice) : State :=
  let u := n.unit.toNat
  let x := unitOf s u
  if ¬ healthAllowed x n then s
  else
    let s := s.failureEvent n
    let s := s.setUnit u { x with health := n.health, perm := n.perm, cause := n.event }
    let s := s.hlog 0x0710 sevNotice u
      ([n.unit, BitVec.ofNat 8 x.health.code, BitVec.ofNat 8 n.health.code] ++ beBytes 2 n.event.toNat ++ [BitVec.ofNat 8 (b2n n.perm)])
    let s := (s.setBits Reg.wmbEvt 2).driveFailed
    if n.health = .failed then s.addCause (.unit n.unit) n.event.toNat
    else if x.health = .failed then s.endCause (.unit n.unit) n.event.toNat else s

/-- HEALTH_TRANSITION: Wellhead applies the oldest notice (R580). -/
def execHealthTransition (s : State) : Host.Outcome State Fault Refusal :=
  match s.well.notices with
  | [] => .next s
  | n :: rest =>
    if ¬ s.wellheadRuns then .next s
    else .next ((s.modWell fun w => { w with notices := rest }).healthChange n)

/-! ### Views (R589) -/

/-- Whether Tarn's legal state and Wellhead's health of a channel disagree (R589). -/
def viewsDisagree (s : State) (n : Chan) : Bool :=
  let c := s.chan n
  let h := chanHealth s n
  (decide (c.legal = .isIn) && decide (h = .failed)) || (decide (c.legal = .out) && decide (c.fault ≠ 0) && decide (h = .good))

/-- Both views as a record carries them. -/
def viewData (s : State) (n : Chan) : List Byte :=
  [BitVec.ofNat 8 n.val, BitVec.ofNat 8 (s.chan n).legal.code, (s.chan n).fault, BitVec.ofNat 8 (chanHealth s n).code]

/-- One comparison of a channel's views; the comparisons are 1 ms apart, so the twelfth in a row is the first that comes more than
10 ms after the first (R589). -/
def State.compareView (s : State) (n : Chan) : State :=
  let u := 0x70 + n.val
  let x := unitOf s u
  if viewsDisagree s n then
    if 11 ≤ x.disagree ∧ ¬ x.mismatch then
      ((s.setUnit u { x with disagree := 12, mismatch := true }).hlog 0x0720 sevNotice u (viewData s n)).setBits Reg.wmbEvt 8
    else s.setUnit u { x with disagree := min 12 (x.disagree + 1) }
  else if x.mismatch then (s.setUnit u { x with disagree := 0, mismatch := false }).hlog 0x0721 sevNotice u (viewData s n)
  else s.setUnit u { x with disagree := 0 }

/-- VIEW_COMPARE (R589). -/
def execViewCompare (s : State) : Host.Outcome State Fault Refusal :=
  if s.wellheadRuns then .next (s.each allChans fun s n => s.compareView n) else .next s

/-! ### The state area (R588) -/

/-- The generation of a copy; one that is not valid counts as the oldest. -/
def WellSt.genOf (w : WellSt) (i : Fin 2) : Nat := match w.copies[i] with | none => 0 | some c => c.gen

/-- The copy with the higher generation. -/
def WellSt.newer (w : WellSt) : Fin 2 := if w.genOf 0 < w.genOf 1 then 1 else 0

/-- What a start finds in the state area: the valid copy with the higher generation (R588). -/
def WellSt.saved (w : WellSt) : Option WellSave := w.copies[w.newer].map AreaCopy.data

/-- The older copy is written, with the next generation (R588). -/
def WellSt.save (w : WellSt) (v : WellSave) : WellSt :=
  { w with copies := w.copies.set (1 - w.newer) (some { gen := w.genOf w.newer + 1, data := v }) }

/-- What Wellhead keeps across a start (R588). -/
def State.toSave (s : State) : WellSave :=
  { units := s.well.units, chanParity := s.well.chanParity, causes := s.well.causes.filter fun c => decide (c.1 ≠ .testPin)
    node := s.mesh.node, epoch := s.mesh.epoch, tunnel := s.narga.tunnel, restarts := s.well.restarts }

/-- Wellhead writes the older copy of its state area (R588). -/
def State.saveArea (s : State) : State := s.modWell fun w => w.save s.toSave

/-- STATE_AREA_WRITE (R588). -/
def execStateAreaWrite (s : State) : Host.Outcome State Fault Refusal :=
  if s.wellheadRuns then .next s.saveArea else .next s

/-- Wellhead restores its state from the state area; without a valid copy every unit is GOOD, no cause is kept and RT_NODE.V is 0
(R588). The epoch then starts from 0 and the tunnel setting is any. A set TESTREPL is a cause again. -/
def State.restoreSaved (s : State) : State :=
  let v := s.well.saved.getD {}
  let causes := v.causes ++ (if bit (s.reg Reg.wmbXpin) 0 then [(.testPin, 0)] else [])
  let s := s.modWell fun w => { w with
    units := v.units, chanParity := v.chanParity, causes := causes, replN := !causes.isEmpty, release := none, restarts := v.restarts }
  let s := s.modMesh fun m => { m with node := v.node, epoch := v.epoch }
  (s.modNarga fun n => { n with tunnel := v.tunnel }).driveFailed

/-- The records that waited for Wellhead to run are written (R765). -/
def State.flushLatched (s : State) : State :=
  let l := s.well.latched
  let s := s.modWell fun w => { w with latched := [] }
  s.each l fun s r => s.hlog r.code r.sev r.unit r.data

/-- A second ends: the count of the records suppressed in it is logged (R586). -/
def State.secondEnds (s : State) : State :=
  let n := s.well.dropCount
  let s := s.modWell fun w => { w with secCount := 0, dropCount := 0 }
  if n = 0 then s else s.hlog 0x0731 sevNotice 0xFF (beBytes 4 n)

/-- LOG_SUPPRESS_SECOND (R586). -/
def execLogSuppressSecond (s : State) : Host.Outcome State Fault Refusal := .next s.secondEnds

/-! ### The `app` exchange (R592, R593) -/

/-- Words of text for WMB_AREQ, byte +k of word j the character 4j + k (Table 16.6). -/
def State.putText (s : State) (base : Nat) (text : List Byte) : State :=
  s.each (List.range 64) fun s j => s.setReg (base + 4 * j) (wordAt text (4 * j))

/-- Wellhead begins an exchange: the text, its length, a new SERIAL with PEND, then AREQ (R592). SERIAL moves by two, since its lowest
bit in WMB_APUT is also FINAL (log 19). -/
def State.appBegin (s : State) (text : List Byte) : State :=
  let s := s.putText (Reg.wmbAreq 0) text
  let s := s.modWell fun w => { w with
    appPend := true, appSerial := w.appSerial + 2, appLen := BitVec.ofNat 8 text.length, appReady := true, appClosed := false,
    appLines := 0, appPut := none }
  s.setBits Reg.wmbEvt 1

/-- The `app` job under way. -/
def State.appJob (s : State) : Option (Session × Option String) :=
  (s.narga.jobs.filterMap fun j => match j with | .app i t => some (i, t) | _ => none).head?

/-- The exchange ends with a status (R593): CLOSED set, PEND cleared. -/
def State.appEnd (s : State) (final : String) : State :=
  let job := s.appJob
  let s := s.modWell fun w => { w with appPend := false, appClosed := true, appReady := true, appPut := none }
  let s := s.modNarga fun n => { n with jobs := n.jobs.filter fun j => match j with | .app _ _ => false | _ => true }
  match job with
  | some (i, t) => s.respondLate i t final
  | none => s

/-- The status and code of each line of Table 15.1. -/
def responseCodes : List String :=
  ["OK 000", "OK 001", "ER 100", "ER 101", "ER 102", "ER 103", "ER 104", "ER 105", "ER 200", "ER 201", "ER 202", "ER 203",
   "ER 300", "ER 301", "ER 302", "ER 303", "ER 304", "ER 400", "ER 401", "ER 402", "BZ 500", "BZ 501"]

/-- Whether a line begins with a status and code of Table 15.1. -/
def startsWithCode (l : List Byte) : Bool := responseCodes.any fun c => decide (l.take 6 = asciiBytes c)

/-- The line that ledger firmware wrote to WMB_ALINE. -/
def State.appLine (s : State) (len : Nat) : List Byte :=
  ((List.range 55).flatMap fun j => leBytes 4 (s.reg (Reg.wmbAline j)).toNat).take len

/-- Whether a text holds only bytes 20h to 7Eh. -/
def printable (l : List Byte) : Bool := l.all fun b => decide (0x20 ≤ b.toNat ∧ b.toNat ≤ 0x7E)

/-- APP_LINE_TAKE: Wellhead takes a line and sets READY again (R592, R593). -/
def execAppLineTake (s : State) : Host.Outcome State Fault Refusal :=
  match s.well.appPut with
  | none => .next s
  | some v =>
    if ¬ s.wellheadRuns ∨ ¬ s.well.appPend then .next s
    else
      let line := s.appLine (field v 0 8)
      let final := bit v 8
      let s := s.modWell fun w => { w with appPut := none, appReady := true, appLines := w.appLines + b2n (!final) }
      if ¬ printable line ∨ (final ∧ ¬ startsWithCode line) ∨ 64 < s.well.appLines then .next (s.appEnd "ER 400 app reply")
      else if final then .next (s.appEnd (asciiText line))
      else match s.appJob with
        | some (i, t) => .next (s.respondPart i t ("= " ++ asciiText line))
        | none => .next s

/-- APP_TIMEOUT: no final line 1 s after AREQ (R593). -/
def execAppTimeout (s : State) : Host.Outcome State Fault Refusal :=
  if s.well.appPend then .next (s.appEnd "ER 401") else .next s

/-! ### Start and restart (R600, R602, R613) -/

/-- Whether the slot of sequence number `q` holds a valid record (R585). -/
def State.slotValid (s : State) (q : Word) : Bool :=
  let r := s.bytes (healthSlot q) 32
  decide (beNat (r.take 4) = q.toNat) && decide (beNat (r.drop 30) = (crc16 (r.take 30)).toNat)

/-- How many of the 16 records before the newest fail R585 (R602). -/
def State.tornCount (s : State) : Nat :=
  match s.well.logSeq with
  | none => 0
  | some q => ((List.range 16).filter fun i => decide (i < q.toNat) && !s.slotValid (q - BitVec.ofNat 32 (i + 1))).length

/-- The epoch after one start (R497). -/
def nextEpoch (e : Half) : Half := if e = 0xFFFF then 1 else e + 1

/-- Wellhead treats a type's directory entry at a start (R613). -/
def State.startEntry (s : State) (t : Fin 3) : State :=
  let e := s.directory.entries[t]
  match s.power.slotsRun[t] with
  | some b =>
    if b ≠ e.active then
      (s.writeDirectory fun v => v.set t { active := b, state := 2, tries := 0 }).hlog 0x0A05 sevNotice 0xFF
        [BitVec.ofNat 8 (t.val + 1), BitVec.ofNat 8 (b2n b)]
    else if e.state = 1 then s.writeDirectory fun v => v.set t { e with tries := e.tries + 1 } else s
  | none => if e.state = 1 then s.writeDirectory fun v => v.set t { e with tries := e.tries + 1 } else s

/-- Wellhead runs and logs what waited for it. -/
def State.wellRuns (s : State) (lost : Bool) : State :=
  let s := s.modWell fun w => { w with running := true, restarting := false, secCount := 0, dropCount := 0 }
  let s := if lost then s.hlog 0x0704 sevCritical 0x60 [] else s
  s.flushLatched

/-- WELLHEAD_START: the steps of R602 in order, once Spring has verified its image. The discharge test of step 5 is its own command. -/
def execWellheadStart (s : State) : Host.Outcome State Fault Refusal :=
  if s.power.stage ≠ .spring ∨ (s.power.slotsRun[(0 : Fin 3)]).isNone then .next s
  else
    let s := (s.restoreSaved.wellRuns s.well.saved.isNone)
    let s := s.hlog 0x0730 sevNotice 0xFF [BitVec.ofNat 8 s.tornCount]
    let s := s.modMesh fun m => { m with epoch := nextEpoch m.epoch }
    let s := s.modWell fun w => { w with sensors := Vector.replicate 12 {}, tamp := tamperBits s.tarn, appPend := false, appReady := true, appClosed := false, appPut := none }
    let s := s.each [0, 1, 2] fun s b => s.classifyBank b
    let s := s.each s.power.springLog fun s r => s.hlog r.1 (if r.1 = 0x0A03 then sevCritical else sevNotice) 0xFF r.2
    let s := s.modPower fun p => { p with springLog := [], stage := .wellhead }
    let s := s.each [0, 1, 2] fun s t => s.startEntry t
    let s := s.hlog 0x0701 sevNotice 0x60 [s.power.startCause]
    .next (s.nargaLost.emptyStaging.nargaReady)

/-- WELLHEAD_WATCHDOG: Wellhead firmware restarts (R600): the latches hold, sessions and commands are lost, the exchange is CLOSED. -/
def execWellheadWatchdog (s : State) : Host.Outcome State Fault Refusal :=
  if ¬ s.wellheadRuns then .next s
  else
    let s := s.each [0, 1, 2, 3, 4, 5, 6, 7, 8] fun s i => s.expertEnd i 3
    let s := s.modWell fun w => { w with restarting := true, appPend := false, appClosed := true, appPut := none }
    .next ((s.modPower fun p => { p with trialBroken := true }).nargaLost)

/-- WELLHEAD_RESTART_DONE: Wellhead runs again, restores its state, logs 0703h and sets EVT.WRST; a third restart within 1 h makes
unit 60h permanent FAILED (R600). -/
def execWellheadRestartDone (s : State) : Host.Outcome State Fault Refusal :=
  if ¬ s.well.restarting then .next s
  else
    let times := s.us :: within s.us (minutes 60) s.well.restarts
    let node := s.mesh
    let s := (s.restoreSaved.modMesh fun _ => node).wellRuns s.well.saved.isNone
    let s := s.modWell fun w => { w with restarts := times }
    let third := decide (3 ≤ times.length)
    let s := (s.hlog 0x0703 (if third then sevError else sevNotice) 0x60 []).setBits Reg.wmbEvt 0x80
    let s := s.emptyStaging.nargaReady
    if third then .next (s.healthNotice 0x60 .failed true 0x0703) else .next s

end Sys2Proof.Machine
end

