-- ==== Sys2Proof/Machine/Update.lean ====
section
/-! DEFINITION. Updates (spec/17): rollback floors, the Tarn firmware install, the confirmation of a trial. -/

namespace Sys2Proof.Machine

/-- The digest of the Tarn firmware that runs (R616). -/
def TarnSt.runDigest (t : TarnSt) : List Byte := t.tfwRuns.getD ((List.range 32).map Config.tarnDigest)

/-- The slot that runs of a type: Spring's pick, or for Tarn firmware the active slot when Tarn runs its image (R608; log 18). -/
def State.runningSlot (s : State) (t : Fin 3) : Option Bool :=
  if t = 1 then
    let b := (s.directory.entries[t]).active
    if (imageHead (flashByte s) (imgAddr typeTfw b)).digest = s.tarn.runDigest then some b else none
  else s.power.slotsRun[t]

/-- Tarn takes a type whose entry is CONFIRMED or REVERTED and raises its floor to the running header's ROLLBACK (R608). -/
def State.floorCheck (s : State) (t : Fin 3) : State :=
  let e := s.directory.entries[t]
  match s.runningSlot t with
  | none => s
  | some b =>
    let a := imgAddr (t.val + 1) b
    if e.state ≠ 1 ∧ headerSigned s (flashByte s) (t.val + 1) a then
      s.raiseFloor (t.val + 1) (imageHead (flashByte s) a).rollback
    else s

/-- Whether the ledger cores have been released since the start. -/
def State.released (s : State) : Bool := decide (s.power.stage = .released)

/-- ROLLBACK_FLOOR_CHECK: at every start, after the release (R608). -/
def execRollbackFloorCheck (s : State) : Host.Outcome State Fault Refusal :=
  if s.tarnOn ∧ s.released then .next (s.each [0, 1, 2] fun s t => s.floorCheck t) else .next s

/-- TFW_INSTALL: an active Tarn firmware slot that differs from what runs and verifies is copied into the other bank (R616). -/
def execTfwInstall (s : State) : Host.Outcome State Fault Refusal :=
  if ¬ (s.tarnOn ∧ s.released) ∨ s.tarn.tfwInstall.isSome then .next s
  else match verifyImage s (flashByte s) typeTfw (imgAddr typeTfw (s.directory.entries[(1 : Fin 3)]).active) with
  | .error _ => .next s
  | .ok h =>
    if h.digest = s.tarn.runDigest ∨ s.tarn.tfwMarked = some h.digest then .next s
    else .next (s.modTarn fun t => { t with tfwInstall := some h.digest })

/-- TFW_INSTALL_DONE: the copy is checked by digest and marked; Tarn logs 0415h (R616). -/
def execTfwInstallDone (ok : Bool) (s : State) : Host.Outcome State Fault Refusal :=
  match s.tarn.tfwInstall with
  | none => .next s
  | some d =>
    if ¬ s.tarnOn then .next s
    else
      let s := s.modTarn fun t => { t with tfwInstall := none, tfwMarked := if ok then some d else t.tfwMarked }
      if ok then .next (s.tlog 0x0415 0xFF 0 (d.take 16)) else .next s

/-- TRIAL_CONFIRM: a TRIAL image whose 10 minutes have run without a restart, a halt or a reset is CONFIRMED (R613). -/
def execTrialConfirm (t : Fin 3) (s : State) : Host.Outcome State Fault Refusal :=
  let e := s.directory.entries[t]
  if s.wellheadRuns ∧ s.released ∧ ¬ s.power.trialBroken ∧ e.state = 1 then
    .next ((s.writeDirectory fun v => v.set t { e with state := 0, tries := 0 }).hlog 0x0A06 sevNotice 0xFF [BitVec.ofNat 8 (t.val + 1)])
  else .next s

/-- The type and address of what an `img` verb names. -/
def imageAt (r : ImageRef) : Nat × Nat :=
  match r with
  | .wfw b => (typeWfw, imgAddr typeWfw b)
  | .tfw b => (typeTfw, imgAddr typeTfw b)
  | .lfw b => (typeLfw, imgAddr typeLfw b)
  | .mcode n => (typeMcode, mcodeSource n.val)

/-- The verification of what an `img` verb names (R604, R614). -/
def State.imageCheck (s : State) (r : ImageRef) : Except Nat ImageHead :=
  verifyImage s (flashByte s) (imageAt r).1 (imageAt r).2

/-- A verified slot becomes ACTIVE in TRIAL (R614). -/
def State.activateSlot (s : State) (t : Fin 3) (b : Bool) : State :=
  (s.writeDirectory fun v => v.set t { active := b, state := 1, tries := 0 }).hlog 0x0A04 sevNotice 0xFF
    [BitVec.ofNat 8 (t.val + 1), BitVec.ofNat 8 (b2n b)]

/-- The copy of engine `n`'s microcode that Tarn has not recorded as loaded (R614). -/
def State.spareCopy (s : State) (n : Chan) : Bool := (s.eng n).digest.isSome && !(s.eng n).copy1

/-- Wellhead copies an image of `len` bytes from the flash into a microcode copy, in words of eight bytes (R614, R425). -/
def State.copyMicrocode (s : State) (n : Chan) (src len : Nat) : State :=
  let dst := mcodeCopy n (s.spareCopy n)
  s.each (List.range ((len + 7) / 8)) fun s i =>
    s.nvWrite (dst / 8 + i) 0xFF (BitVec.ofNat 64 (leNat (bytesAt (flashByte s) (src + 8 * i) 8)))

end Sys2Proof.Machine
end

