-- ==== Sys2Proof/Machine/Ladder.lean ====
section
/-! DEFINITION. The power ladder: requests, refusals, entry and wakes (spec/18). -/

namespace Sys2Proof.Machine

/-! ### Requests (R625 to R627) -/

/-- How many steps of Table 18.3 a target needs. -/
def stepsTo (target : Nat) : Nat :=
  match target with
  | 1 => 1 | 2 => 2 | 3 => 5 | 4 => 6 | 5 => 7 | _ => 0

/-- The wake sources with an enable that Table 18.4 marks for a state. -/
def enabledSources : List Wake := [.waken, .rtc, .trig, .ts1, .con, .gp, .tamp, .line, .req]

/-- The refusal condition of Table 18.2 found first for a target (R626). -/
def State.ladderRefusal (s : State) (target : Nat) : Option Nat :=
  let deep := decide (3 ≤ target)
  if (deep && s.anySession) || (decide (target = 2) && allChans.any fun n => s.inSession n && !(s.chan n).src) then some 1
  else if deep && ((s.mesh.tags.toList.any fun t => decide (t.state = .wait ∨ t.state = .sent)) ||
      s.mesh.cache.toList.any fun e => decide (e.state = .pending)) then some 2
  else if deep && decide (s.openGroups ≠ 0) then some 3
  else if deep && (s.narga.updateLock || s.tarn.tfwInstall.isSome) then some 4
  else if decide (target = 5) && s.power.rtcRco then some 5
  else if deep && !(enabledSources.any fun w => wakeMarked w target && s.wakeEnabled w) then some 6
  else if decide (target = 5) && allChans.any fun n => decide ((s.chan n).backlog ≠ 0) then some 7
  else none

/-- A request is refused: REFUSE, EVT.REFUSED and no pending request; 0803h at most once per minute per reason (R626). -/
def State.ladderRefuse (s : State) (r : Nat) : State :=
  let s := (s.modPower fun p => { p with refuse := BitVec.ofNat 8 r, pend := 0 }).setBits Reg.pwrEvt 4
  s.hlogKey r 0x0803 sevNotice 0xFF (minutes 1) [BitVec.ofNat 8 r]

/-- Whether the part is outside Surface, or on its way out of it. -/
def State.outsideSurface (s : State) : Bool := decide (s.power.entry ≠ 0)

/-- A commit of PWR_REQ with its reserved bits 0 (R625): a request, a cancellation or a wake with cause REQ. -/
def State.pwrRequest (s : State) (m : Master) (v : Word) : State :=
  let t := field v 0 3
  let allowed : Bool := match m with | .lc _ _ _ => true | .wellhead => true | _ => false
  if ¬ allowed ∨ 6 ≤ t then s.setBits Reg.cpStat 0x80000000
  else
    let s := s.setReg Reg.pwrReq v
    if m = .wellhead ∧ s.outsideSurface ∧ t < entryDepth s.power.entry then s.wake .req
    else if t = 0 then s.modPower fun p => { p with pend := 0 }
    else match s.ladderRefusal t with
    | some r => s.ladderRefuse r
    | none => s.modPower fun p => { p with pend := t }

/-- Whether the cores are quiet (R627): no context READY or RUN, every store buffer empty. -/
def State.coresQuiet (s : State) : Bool :=
  allCores.all fun c => (s.core c).buf.isEmpty &&
    allCtxs.all fun k => match effState s c k with | .ready => false | .run => false | _ => true

/-! ### Entry (R628) -/

/-- Whether both converters have ended their running entry and their queued urgent entries (step 4). -/
def State.cnvsIdle (s : State) : Bool :=
  allCnvs.all fun u =>
    let c := s.cnv u
    c.urgents.isEmpty && (match c.work with | some (.seqEntry _ _ _, _) => false | some (.urgent _ _, _) => false | _ => true)

/-- A converter stops for Shallows (step 4): its pending start is dropped with SMISS, what is left of a sequence and a background
conversion are dropped, and a calibration step begins again at the wake (log 24). -/
def State.cnvStop (s : State) (u : Cnv) : State :=
  let s := if (s.cnv u).pendingStart.isSome then s.startMiss u else s
  s.modCnv u fun c => ({ c with
    pendingStart := none, seq := none, trigDelay := false, work := none, calConv := if c.state = .cal then 0 else c.calConv } : CnvSt).settle

/-- A port loses its power in Deep (step 6): it keeps its registers and what Wellhead knows of it. -/
def PortSt.powerLost (x : PortSt) : PortSt :=
  { state := if x.state = .failed then .failed else .dry, fails := x.fails, stuck := x.stuck, stuckAt := x.stuckAt,
    eccTimes := x.eccTimes, clockFails := x.clockFails }

/-- Ledger-SRAM bank `b` loses its power: what it held is gone, and each byte is a free value until it is written. -/
def State.loseBank (s : State) (b : Fin 16) : State :=
  { s with
    mem := s.mem.filter fun e => ¬ (b.val * 0x20000 ≤ e.1 ∧ e.1 < (b.val + 1) * 0x20000)
    sramLost := s.sramLost.set b (some s.free) }.nextFree

/-- Every bank outside PWR_RET loses its power (step 6). -/
def State.loseBanks (s : State) : State :=
  s.each (List.range 16) fun s b => if bit (s.reg Reg.pwrRet) b then s else s.loseBank (Fin.ofNat 16 b)

/-- The action of entry step `n` (Table 18.3). Step 1 gates the cores, step 2 arms the slow sequences and step 5 changes clocks: these
act through how far the entry has come. -/
def State.entryStep (s : State) (n : Nat) : State :=
  let s :=
    if n = 3 then (s.saveTotals.tlog 0x0417 0xFF 0 [])
    else if n = 4 then
      let s := s.each allChans fun s n => s.takeAll n
      let s := s.each allCnvs fun s u => s.cnvStop u
      s.each allPorts fun s p => s.toDry p false
    else if n = 6 then
      let s := if s.wellheadRuns then s.saveArea else s
      let s := s.modPower fun p => { p with spll := false, cpll := false }
      let s := s.each allChans fun s n => s.modEng n fun e => { e with runst := .held, heldWord := none, wq := [] }
      let s := s.each allPorts fun s p => s.modPort p PortSt.powerLost
      s.loseBanks
    else if n = 7 then
      (s.modTarn fun t => { t with running := false, cleanSave := true }).modPower fun p => { p with xin := false, rco := false, tpll := false }
    else s
  s.modPower fun p => { p with entry := n }

/-- The end of an entry: PS shows the target, EVT.ENTERED is set and 0801h logged (R628). -/
def State.entered (s : State) (target : Nat) : State :=
  let s := (s.modPower fun p => { p with ps := target, pend := 0 }).setBits Reg.pwrEvt 1
  s.hlog 0x0801 sevNotice 0xFF [BitVec.ofNat 8 target]

/-! ### Back to Surface (R630 to R634) -/

/-- What a wake from Deep restarts (R632): the cores are released empty, each engine whose store holds a loaded image restarts at word
0000h with the store it kept (R143, R148, Table 18.1), and Wellhead restores its state area. A core that was HALTED stays so (R412; log 24). -/
def State.deepWake (s : State) : State :=
  let s := s.modPower fun p => { p with spll := true, cpll := true }
  let s := s.each allCores fun s c => if (s.core c).core = .run then s.coreRelease c else s
  let s := s.each allChans fun s n =>
    if (s.eng n).loaded then s.modEng n fun e => e.started (s.chan n).mc else s
  if s.well.running then s.restoreSaved.nargaLost.emptyStaging.nargaReady else s

/-- The ladder returns to Surface from entry step `e`, in the reverse order of Table 18.3 (R630, R631): 0418h before any increment, what
the lowest states latched, the engines, converters and ports. -/
def State.toSurface (s : State) (e : Nat) : State :=
  let s := s.modPower fun p => { p with ps := 0, pend := 0, entry := 0, waking := none }
  let s := if 3 ≤ e then s.tlog 0x0418 0xFF 0 [] else s
  let s := s.lateEvents
  let s := if 6 ≤ e then s.deepWake else s
  let s := if 2 ≤ e then s.each allCnvs fun s u => s.cnvNext u else s
  if 4 ≤ e then s.each allPorts fun s p => s.beginAttempt p else s

/-- LADDER_ENTRY: once the cores are quiet the ladder takes its next step (R626 to R628; one step a command, log 24), or finds a refusal
and returns to Surface. A wake source under way ends the entry (R648, R649). -/
def execLadderEntry (s : State) : Host.Outcome State Fault Refusal :=
  let p := s.power
  if p.pend = 0 ∨ p.waking.isSome ∨ p.pfail ∨ p.stage = .off ∨ (p.entry = 0 ∧ ¬ s.coresQuiet) then .next s
  else match s.ladderRefusal p.pend with
  | some r => .next (if p.entry = 0 then s.ladderRefuse r else (s.ladderRefuse r).toSurface p.entry)
  | none =>
    let n := p.entry + 1
    if stepsTo p.pend < n then .next (s.entered p.pend)
    else if n = 4 ∧ ¬ s.cnvsIdle then .next s
    else
      let s := s.entryStep n
      .next (if n = stepsTo p.pend then s.entered p.pend else s)

/-- WAKE_N_LOW (R630). -/
def execWakeNLow (s : State) : Host.Outcome State Fault Refusal := .next (s.wake .waken)

/-- Whether a line is pending to an IDLE context with IM = 0: a wake of its own (Table 18.4). -/
def State.lineWakes (s : State) : Bool :=
  allCores.any fun c => allCtxs.any fun k => decide ((s.ctx c k).state = .idle) && decide (effState s c k = .ready)

end Sys2Proof.Machine
end

