-- ==== Sys2Proof/Machine/Clocks.lean ====
section
/-! DEFINITION. The clocks and their losses (R639 to R641, R646, R655 to R660, R739). -/

namespace Sys2Proof.Machine

/-- A clock loss: its bit of CLK_LOSS, PWR_EVT.CLOCK and the monitor's event (R645, R655). -/
def State.clkLost (s : State) (k code : Nat) : State :=
  ((s.setBits Reg.clkLoss (BitVec.ofNat 32 (2 ^ k))).setBits Reg.pwrEvt 8).clockEvent code

/-- A clock's restoration: PWR_EVT.CLOCK and its event (R645, R655). -/
def State.clkBack (s : State) (code : Nat) : State := (s.setBits Reg.pwrEvt 8).clockEvent code

/-- The failover of SPLL to RCO (R656): CCLK stops and both converters fault, the ports fall to Dry without a failure, FOVR is set and
0419h logged. -/
def State.failover (s : State) : State :=
  let s := s.modPower fun p => { p with cpll := false }
  let s := s.each allCnvs fun s u => s.cnvFault u 4
  let s := s.each allPorts fun s p => s.toDry p false
  (s.modPower fun p => { p with fovr := true }).tlog 0x0419 0xFF 0 []

/-- SPLL moves back to XIN (R657): FOVR is cleared, 041Ah logged and the ports begin attempts. CPLL's lock is its own command. -/
def State.failback (s : State) : State :=
  let s := (s.modPower fun p => { p with fovr := false }).tlog 0x041A 0xFF 0 []
  s.each allPorts fun s p => s.beginAttempt p

/-- A commit that CLK_XFORCE accepts (R646): [0] moves SPLL onto RCO while XIN is valid, [1] moves the RTC. -/
def State.clkForce (s : State) (v : Word) : State :=
  let s := s.setReg Reg.clkXforce v
  let s := s.modPower fun p => { p with rtcRco := bit v 1 || !p.xrtc }
  if bit v 0 then (if s.power.xin ∧ ¬ s.power.fovr ∧ s.power.spllOnce then s.failover else s)
  else if s.power.fovr ∧ s.power.xin then s.failback else s

/-- At CPLL lock REFIN selects the reference (R739), and the converters that have left reset calibrate (R190). -/
def State.cpllLock (s : State) (refinMilli : Nat) : State :=
  let s := s.modPower fun p => { p with cpll := true }
  if 500 ≤ refinMilli ∧ refinMilli < 2000 then
    (s.modPower fun p => { p with refFault := true }).each allCnvs fun s u => s.cnvFault u 3
  else
    let s := s.modPower fun p => { p with refInt := decide (refinMilli < 500) }
    s.each allCnvs fun s u => if (s.cnv u).state = .off then s.calBegin u else s

/-- PLL_LOCK (R639, R640): SPLL's lock shows that XIN runs. -/
def execPllLock (pll : Pll) (refinMilli : Nat) (s : State) : Host.Outcome State Fault Refusal :=
  if s.power.stage = .off ∨ 6 ≤ s.power.entry then .next s
  else match pll with
  | .spll => .next (s.modPower fun p => { p with spll := true, spllOnce := true, xin := true, xinAbsent := false })
  | .cpll => .next (if s.power.cpll ∨ s.power.fovr then s else s.cpllLock refinMilli)
  | .tpll => .next (s.modPower fun p => { p with tpll := true })

/-- XIN_LOSS: no failover before SPLL has first locked (R656, R661). -/
def execXinLoss (s : State) : Host.Outcome State Fault Refusal :=
  if ¬ s.power.xin then .next s
  else
    let s := (s.modPower fun p => { p with xin := false }).clkLost 0 0x0810
    .next (if s.power.spllOnce ∧ ¬ s.power.fovr then s.failover else s)

/-- XIN_RESTORE: XIN valid for 100 ms (R657); CLK_XFORCE[0] keeps SPLL on RCO (R646). -/
def execXinRestore (s : State) : Host.Outcome State Fault Refusal :=
  if s.power.xin ∨ s.power.stage = .off ∨ 7 ≤ s.power.entry then .next s
  else
    let s := s.modPower fun p => { p with xin := true }
    if ¬ s.power.fovr then .next s
    else
      let s := s.clkBack 0x0811
      .next (if bit (s.reg Reg.clkXforce) 0 then s else s.failback)

/-- XRTC_LOSS (R641). -/
def execXrtcLoss (s : State) : Host.Outcome State Fault Refusal :=
  if ¬ s.power.xrtc then .next s
  else .next ((s.modPower fun p => { p with xrtc := false, rtcRco := true }).clkLost 1 0x0812)

/-- XRTC_RESTORE: XRTC valid for 1 s (R641). -/
def execXrtcRestore (s : State) : Host.Outcome State Fault Refusal :=
  if s.power.xrtc then .next s
  else .next ((s.modPower fun p => { p with xrtc := true, rtcRco := bit (s.reg Reg.clkXforce) 1 }).clkBack 0x0813)

/-- CPLL_UNLOCK: with XIN valid both converters fault with CLOCK (R658). -/
def execCpllUnlock (s : State) : Host.Outcome State Fault Refusal :=
  if s.power.stage = .off ∨ 4 ≤ s.power.entry then .next s
  else
    let s := (s.modPower fun p => { p with cpll := false }).clkLost 4 0x0816
    .next (if s.power.xin then s.each allCnvs fun s u => s.cnvFault u 4 else s)

/-- TPLL_UNLOCK: Tarn restarts; its outputs are held until TARN_START (R105, R658). -/
def execTpllUnlock (s : State) : Host.Outcome State Fault Refusal :=
  if s.power.stage = .off ∨ 7 ≤ s.power.entry then .next s
  else
    let s := (s.modPower fun p => { p with tpll := false }).clkLost 5 0x0817
    .next (s.modTarn fun t => { t with tclkStopped := true, running := false })

/-- RCO_RANGE: logged; an RCO that stops stops TCLK, and the TCLK watchdog follows (R660). -/
def execRcoRange (stopped : Bool) (s : State) : Host.Outcome State Fault Refusal :=
  if ¬ s.power.rco then .next s
  else
    let s := (s.modPower fun p => { p with rco := false, tpll := p.tpll && !stopped }).clkLost 2 0x0814
    .next (if stopped then s.modTarn fun t => { t with tclkStopped := true } else s)

/-- ECLK_STOP: every DEN is released, sessions close INTERRUPTED and each sub-quantum is logged; legal states stay (R659). -/
def execEclkStop (s : State) : Host.Outcome State Fault Refusal :=
  if s.power.eclkStopped ∨ ¬ s.power.spll ∨ 4 ≤ s.power.entry then .next s
  else .next (s.modPower fun p => { p with eclkStopped := true }).closeAllInterrupted

end Sys2Proof.Machine
end

