-- ==== Sys2Proof/Machine/RegInfo.lean ====
section
/-! DEFINITION. The access codes of every device register (spec/22 Table 22.1 and the tables it names): which bits are RW, W1C, WO,
RO, TO or SO, and which registers are expert or cleared by reading. Every other bit is reserved, every other offset too. -/

namespace Sys2Proof.Machine

/-- The bits of a register by access code (spec/00); `tso` are the TO and SO bits, `rc` says that a read clears it. -/
structure RegInfo where
  rw : Word := 0
  w1c : Word := 0
  wo : Word := 0
  ro : Word := 0
  tso : Word := 0
  rc : Bool := false
  expert : Bool := false
  deriving DecidableEq, Repr

/-- The reserved bits of a register. -/
def RegInfo.reserved (i : RegInfo) : Word := ~~~ (i.rw ||| i.w1c ||| i.wo ||| i.ro ||| i.tso)

/-- CTRL with EXP alone (R28). -/
def ctrlInfo : RegInfo := { rw := 0x80000000 }
/-- STAT with RESW and TOW and the given read-only bits (R28). -/
def statInfo (ro : Word) : RegInfo := { w1c := 0xC0000000, ro }
def rwInfo (v : Word) : RegInfo := { rw := v }
def roInfo (v : Word) : RegInfo := { ro := v }
def w1cInfo (v : Word) : RegInfo := { w1c := v }
def woInfo (v : Word) : RegInfo := { wo := v }
def tsoInfo (v : Word) : RegInfo := { tso := v }
def rcInfo (v : Word) : RegInfo := { ro := v, rc := true }
def expertInfo (v : Word) : RegInfo := { rw := v, expert := true }
/-- All 32 bits. -/
def all32 : Word := 0xFFFFFFFF

/-- SYS (Table 2.5). -/
def sysInfo (o : Nat) : Option RegInfo :=
  match o with
  | 0 => ctrlInfo
  | 4 => some { w1c := 0xC000011F, ro := 0x00FF0000 }
  | 0x08 => roInfo all32 | 0x0C => roInfo 0x7FFF | 0x10 => roInfo all32 | 0x14 => roInfo 0xFFFC0000
  | 0x18 => roInfo all32 | 0x1C => roInfo all32 | 0x20 => roInfo 0xFE000000
  | _ => none

/-- CLK/PWR with the NVLA registers (Tables 18.9 and 12.2, R646). -/
def pwrInfo (o : Nat) : Option RegInfo :=
  match o with
  | 0 => ctrlInfo | 4 => statInfo 0x0003FF77
  | 0x10 => rwInfo 7 | 0x14 => rwInfo 0xBF | 0x18 => roInfo 0x70FBF | 0x1C => rwInfo 0xFFFF
  | 0x20 => w1cInfo 0xF | 0x24 => rwInfo 0xF
  | 0x100 => roInfo 0xF3F | 0x104 => w1cInfo 0x3F | 0x110 => roInfo all32 | 0x114 => roInfo all32 | 0x118 => roInfo all32
  | 0x200 => expertInfo 3
  | 0x8000 => rwInfo 7 | 0x8004 => roInfo 0xFFFF | 0x8008 => w1cInfo 0xFF | 0x800C => rwInfo 0xFF | 0x8010 => roInfo all32
  | _ =>
    if 0x8100 ≤ o ∧ o < 0x8180 then
      match o % 0x20 with
      | 0 => woInfo 3 | 4 => roInfo 0xFF73 | 8 => roInfo all32 | _ => none
    else none

/-- A core's window (Table 6.3, R226). -/
def lccInfo (u : Nat) : Option RegInfo :=
  match u with
  | 0 => ctrlInfo
  | 4 => some { w1c := 0xE0000000, ro := 0x0307FF00 }
  | 0x08 => rwInfo 1
  | 0x0C => some { rw := 0xF, wo := 0x700 }
  | 0x10 => rwInfo 0xB | 0x14 => rwInfo 0xFE00 | 0x18 => rwInfo 0xFFFF | 0x1C => woInfo 0xFFFF
  | 0x200 => expertInfo 0x3F
  | _ =>
    if 0x100 ≤ u ∧ u < 0x200 then
      match u % 0x20 with
      | 0 => some { rw := 0x700, ro := 0x3F0007 }
      | 4 => rwInfo all32 | 8 => rwInfo 0xFFFCFFFC | 0x0C => rwInfo all32 | 0x10 => rwInfo 0xFFFF
      | 0x14 => rwInfo 0xFFFF00FF | 0x18 => rwInfo all32 | _ => rwInfo 0xFFFF
    else none

/-- XLT (Table 10.4, R379). -/
def xltInfo (o : Nat) : Option RegInfo :=
  if o = 0 then ctrlInfo else if o = 4 then statInfo 0 else if o = 0x10 then expertInfo 3
  else if 0x100 ≤ o ∧ o < 0x900 then
    let w := o % 0x40
    if w = 0 then rwInfo 0x1FFFF0 else if w = 4 then rwInfo 0x3F
    else if 0x10 ≤ w ∧ w < 0x30 then rwInfo all32 else none
  else if 0x1000 ≤ o ∧ o < 0x2400 then some { w1c := 0x03030303, ro := 0xFCFCFCFC }
  else none

/-- A channel engine's window (Table 4.13, R138). -/
def ceInfo (u : Nat) : Option RegInfo :=
  match u with
  | 0 => rwInfo 0x8000000F
  | 4 => some { w1c := 0xC0000038, ro := 0x3F00FFC0 }
  | 8 => some { w1c := 0xF, ro := 0xFF00 }
  | 0x0C => rwInfo all32 | 0x10 => roInfo 0x87FF07FF | 0x14 => roInfo 0x07FFFFFF | 0x18 => roInfo 0x01FF07FF
  | 0x140 => roInfo all32 | 0x200 => expertInfo 0xFFFF | 0x204 => expertInfo 0x017F07FF
  | _ => if 0x100 ≤ u ∧ u < 0x140 then roInfo all32 else none

/-- A converter's window (Table 5.7, R179). -/
def cnvInfo (u : Nat) : Option RegInfo :=
  match u with
  | 0 => rwInfo 0x800007FF
  | 4 => some { w1c := 0xC000F038, ro := 0x3FC00000 }
  | 8 => woInfo 0xF | 0x0C => w1cInfo 0x7F | 0x10 => rwInfo 0x7F | 0x14 => rwInfo 0xFFFF | 0x18 => rwInfo 0x1FFF
  | 0x1C => rwInfo 0xFFFFFF | 0x20 => roInfo all32 | 0x24 => roInfo 0xFFFF | 0x28 => woInfo 0xFF | 0x2C => roInfo 0xFFFF01FF
  | 0x30 => rwInfo 0xFFFF000F | 0x200 => expertInfo 1 | 0x204 => expertInfo 1
  | _ =>
    if 0x40 ≤ u ∧ u < 0x80 then rwInfo 0x003FFF7F
    else if (0x80 ≤ u ∧ u < 0xB0) ∨ (0xC0 ≤ u ∧ u < 0xF0) then tsoInfo all32 else none

/-- A port's window (Table 13.9, R486). -/
def usdInfo (u : Nat) : Option RegInfo :=
  match u with
  | 0 => some { rw := 0x8000001F, wo := 0x20 }
  | 4 => statInfo 0x3FFF0FFF
  | 8 => w1cInfo 0xFF | 0x0C => rwInfo 0xFF | 0x10 => rwInfo 0xFFFFF | 0x14 => rwInfo all32
  | 0x18 => roInfo all32 | 0x1C => roInfo 0xFFFFF | 0x20 => roInfo 0xFFFF
  | 0x200 => expertInfo 0xFFFF | 0x204 => expertInfo 0xFFFF
  | 0x208 => some { rw := 3, ro := 0xFFFF0000, expert := true }
  | _ =>
    if 0x40 ≤ u ∧ u < 0x60 then rcInfo 0xFFFF
    else if 0x60 ≤ u ∧ u < 0x7C then rcInfo all32 else none

/-- The routing window, offsets from 4000h (Table 14.4). -/
def rtInfo (u : Nat) : Option RegInfo :=
  match u with
  | 0 => ctrlInfo | 4 => statInfo 0xF | 8 => rwInfo 0x80000FFF | 0x0C => roInfo 0xFFFF | 0x10 => roInfo 0xFFF
  | 0x14 => w1cInfo 7 | 0x18 => rwInfo 7
  | _ => if 0x20 ≤ u ∧ u < 0x34 then rcInfo all32 else if 0x800 ≤ u ∧ u < 0x1000 then rwInfo all32 else none

/-- The transaction window, offsets from 5000h (Table 14.5). -/
def txnInfo (u : Nat) : Option RegInfo :=
  match u with
  | 0 => ctrlInfo | 4 => statInfo 0x7F01FF | 8 => rwInfo 0xFF3FFF | 0x0C => w1cInfo 0xF | 0x10 => rwInfo 0xF
  | 0x14 => rcInfo all32 | 0x18 => w1cInfo all32 | 0x1C => w1cInfo all32 | 0x20 => rwInfo all32 | 0x24 => rwInfo all32
  | 0x30 => rwInfo 0xFF1FFFF0 | 0x34 => roInfo 0xFF | 0x38 => rwInfo 0xFF
  | 0x180 => roInfo 0x8001FFFF | 0x184 => roInfo 0xFFF | 0x188 => rwInfo 0xFFFF0000 | 0x18C => woInfo 0x00FF000F
  | 0x190 => roInfo 0x800000FF
  | _ =>
    if 0x100 ≤ u ∧ u < 0x180 then
      match u % 0x20 with
      | 0 => rwInfo 0x1FFFFF | 4 => rwInfo 0x1FFFFF | 8 => rwInfo 0xFFFF3FFF | 0x0C => woInfo 0x00FF3F0F
      | 0x10 => roInfo 0x80003FFF | _ => none
    else if 0x200 ≤ u ∧ u < 0x300 then rwInfo all32
    else if 0x300 ≤ u ∧ u < 0x400 then roInfo all32
    else if 0x400 ≤ u ∧ u < 0x600 then roInfo (if u % 8 = 0 then 0x0FFF1F37 else all32)
    else if 0x800 ≤ u ∧ u < 0xC00 then roInfo 0xFFF3 else none

/-- The CON block (Table 20.1). -/
def conInfo (o : Nat) : Option RegInfo :=
  if o = 0 then ctrlInfo else if o = 4 then statInfo 0
  else if 0x100 ≤ o ∧ o < 0x300 then
    match o % 0x100 with
    | 0 => rwInfo (if o = 0x100 then 0x070FFFFF else 0x1F0FFFFF)
    | 4 => some { w1c := 0x7C, ro := 3 }
    | 8 => rwInfo 0x7F
    | 0x0C => some { rw := 0x7F7F0000, ro := 0x7F7F }
    | 0x10 => woInfo 0xFF | 0x14 => rcInfo 0x87FF
    | 0x18 => if o = 0x218 then rwInfo 0xFFFF else none
    | _ => none
  else none

/-- The IIC block (Table 20.3). -/
def iicInfo (o : Nat) : Option RegInfo :=
  if o = 0 then ctrlInfo else if o = 4 then statInfo 3
  else if 0x100 ≤ o ∧ o < 0x300 then
    match o % 0x100 with
    | 0 => rwInfo 0xF | 4 => woInfo 3 | 8 => rwInfo 0x7FFFFF | 0x0C => roInfo 0xC000FF0F | 0x10 => w1cInfo 0xF
    | 0x14 => rwInfo 0xF | 0x18 => woInfo 0xFF | 0x1C => rcInfo 0x80FF | _ => none
  else none

/-- The PIO block (Table 20.6). -/
def pioInfo (o : Nat) : Option RegInfo :=
  match o with
  | 0 => ctrlInfo | 4 => statInfo 0 | 0x200 => roInfo 0xFFFF | 0x204 => rwInfo 0xFFFF | 0x208 => woInfo 0xFFFF | 0x20C => woInfo 0xFFFF
  | 0x210 => rwInfo 0xFFFF | 0x214 => rwInfo 0xFFFF | 0x260 => w1cInfo 0xFFFF | 0x264 => rwInfo 0xFFFF
  | _ =>
    if 0x100 ≤ o ∧ o < 0x120 then rwInfo 0xFFFF
    else if 0x140 ≤ o ∧ o < 0x160 then roInfo all32
    else if 0x220 ≤ o ∧ o < 0x260 then rwInfo 7 else none

/-- The TMB block (Table 3.5). -/
def tmbInfo (o : Nat) : Option RegInfo :=
  if o = 0 then ctrlInfo else if o = 4 then some { w1c := 0xC0000000, tso := 0x700 }
  else if o = 8 then w1cInfo 0x7FFFF else if o = 0x0C then rwInfo 0x7FFFF else if o = 0x10 then expertInfo 0xFF
  else if 0x100 ≤ o ∧ o < 0x240 then
    let u := o % 0x40
    if u = 0 then rwInfo 0x00FF07FF else if u < 0x20 then rwInfo all32 else if u = 0x20 then tsoInfo 0xC0FF00FF
    else if u < 0x30 then tsoInfo all32 else if u = 0x3C then woInfo 1 else none
  else none

/-- The unit codes of Table 16.2. -/
def unitCode (u : Nat) : Bool :=
  decide (u < 4 ∨ (0x10 ≤ u ∧ u < 0x18) ∨ (0x20 ≤ u ∧ u < 0x22) ∨ (0x30 ≤ u ∧ u < 0x34) ∨ u = 0x40 ∨ u = 0x50 ∨ u = 0x60 ∨
    (0x70 ≤ u ∧ u < 0x78))

/-- The WMB block (Table 16.6, R594). -/
def wmbInfo (o : Nat) : Option RegInfo :=
  match o with
  | 0 => rwInfo 0x80000007
  | 4 => some { w1c := 0xC0000800, ro := 0x700 }
  | 8 => w1cInfo 0xFF | 0x0C => rwInfo 0xFF | 0x10 => roInfo all32 | 0x14 => roInfo 0xFFFF00FF | 0x50 => roInfo 7
  | 0x200 => roInfo 0x1FFFF | 0x204 => woInfo 0xFFFF | 0x208 => roInfo 3 | 0x600 => expertInfo 1
  | _ =>
    if 0x20 ≤ o ∧ o < 0x50 then roInfo (if 0x3C ≤ o ∧ o < 0x48 then 0x7FFFF else 0x1FFFF)
    else if 0x100 ≤ o ∧ o < 0x200 then roInfo all32
    else if 0x300 ≤ o ∧ o < 0x3DC then rwInfo all32
    else if 0x400 ≤ o ∧ o < 0x600 ∧ unitCode ((o - 0x400) / 4) then roInfo 0xFFFF001F else none

/-- The IRQ block (Table 11.6, R414). -/
def irqInfo (o : Nat) : Option RegInfo :=
  match o with
  | 0 => ctrlInfo | 4 => statInfo 0xF | 8 => roInfo all32 | 0x0C => roInfo 0xFFFF | 0x10 => woInfo 0xF | 0x14 => w1cInfo 0xF
  | 0x18 => woInfo 0xFF03 | 0x200 => expertInfo 0x13F
  | _ =>
    if 0x20 ≤ o ∧ o < 0x30 then rwInfo 0xFFFFFF
    else if 0x100 ≤ o ∧ o < 0x1C0 then some { rw := 0x1FF, ro := 0xE00 }
    else if 0x400 ≤ o ∧ o < 0x800 then
      match o % 0x20 with
      | 0 => roInfo 0xFFFF1FFF | 4 => roInfo all32 | 8 => roInfo 0x3FFFFFFF | 0x0C => roInfo all32 | 0x10 => roInfo 0x07FF0FFF
      | _ => none
    else none

/-- The TMR and RTC block (Table 22.2). -/
def tmrInfo (o : Nat) : Option RegInfo :=
  match o with
  | 0 => ctrlInfo | 4 => statInfo 0 | 8 => w1cInfo 7 | 0x0C => rwInfo 7 | 0x10 => tsoInfo all32 | 0x14 => tsoInfo 0xFFFF
  | 0x18 => rwInfo all32 | 0x1C => rwInfo 1
  | 0x100 => rwInfo 3 | 0x104 => rwInfo all32 | 0x108 => roInfo all32 | 0x110 => rwInfo 3 | 0x114 => rwInfo all32 | 0x118 => roInfo all32
  | _ => none

/-- The QSPI block (Table 20.4). -/
def qspiInfo (o : Nat) : Option RegInfo :=
  match o with
  | 0 => ctrlInfo | 4 => statInfo 7 | 8 => roInfo 0x307FF | 0x10 => rwInfo all32 | 0x14 => woInfo 0x01FF000F | 0x18 => roInfo 0x8000FF0F
  | 0x1C => w1cInfo 7 | 0x20 => rwInfo 7
  | _ => if 0x400 ≤ o ∧ o < 0x500 then rwInfo all32 else none

/-- The register at an aligned address of the device-register region; none at a reserved offset (R27, R43, R756). -/
def regInfo (a : Nat) : Option RegInfo :=
  let o := a % 0x10000
  let u := a % 0x1000
  match a / 0x10000 with
  | 0x0400 => sysInfo o
  | 0x0401 => pwrInfo o
  | 0x0402 => if o < 0x4000 then lccInfo u else none
  | 0x0403 => xltInfo o
  | 0x0404 => if o < 0x8000 then ceInfo u else none
  | 0x0405 => if o < 0x2000 then cnvInfo u else none
  | 0x0406 => if o < 0x4000 then usdInfo u else if o < 0x5000 then rtInfo u else if o < 0x6000 then txnInfo u else none
  | 0x0407 => conInfo o
  | 0x0408 => iicInfo o
  | 0x0409 => pioInfo o
  | 0x040A => tmbInfo o
  | 0x040B => wmbInfo o
  | 0x040C => irqInfo o
  | 0x040D => tmrInfo o
  | 0x040E => qspiInfo o
  | _ => none

/-- The STAT register that takes RESW and TOW for an address: that of its unit window, or of the block's first one (R43). -/
def statOf (a : Nat) : Nat :=
  let o := a % 0x10000
  let k := o / 0x1000
  match a / 0x10000 with
  | 0x0402 => Reg.lccStat (if k < 4 then k else 0)
  | 0x0404 => Reg.ceStat (if k < 8 then k else 0)
  | 0x0405 => Reg.cnvStat (if k < 2 then k else 0)
  | 0x0406 => if k < 4 then Reg.usdStat k else if k = 4 then Reg.rtStat else if k = 5 then Reg.txnStat else Reg.usdStat 0
  | b => b * 0x10000 + 4

/-- The CTRL register beside it. -/
def ctrlOf (a : Nat) : Nat := statOf a - 4

/-- The health unit of a register: its core, engine, converter or port; FFh where none (R764). -/
def regUnit (a : Nat) : Nat :=
  let k := a % 0x10000 / 0x1000
  match a / 0x10000 with
  | 0x0402 => if k < 4 then k else 0xFF
  | 0x0404 => if k < 8 then 0x10 + k else 0xFF
  | 0x0405 => if k < 2 then 0x20 + k else 0xFF
  | 0x0406 => if k < 4 then 0x30 + k else 0xFF
  | 0x040A => 0x50
  | 0x040B => 0x60
  | _ => 0xFF

end Sys2Proof.Machine
end

