-- ==== Sys2Proof/Machine/Side.lean ====
section
/-! DEFINITION. The side ports (spec/20), the timers (spec/22) and the pins of spec/21: what commits, bytes, edges and ends do. -/

namespace Sys2Proof.Machine

/-- `n` bytes that the spec does not state: free values. -/
def State.freeBytes (s : State) (n : Nat) : List Byte := (List.range n).map fun i => (Config.freeWord (s.free + i)).setWidth 8

/-- Memory from `a` takes `n` bytes that the spec does not state. -/
def State.loseBytes (s : State) (a n : Nat) : State :=
  let s' := s.setBytes a (s.freeBytes n)
  { s' with free := s'.free + n }

/-! ### Console UARTs (R689 to R694) -/

/-- The rates of autobaud (R692). -/
def autoRates : List Nat := [9600, 19200, 38400, 57600, 115200, 230400, 460800, 921600]

/-- CONu_CFG. -/
def State.conCfg (s : State) (u : Uart) : Word := s.reg (Reg.conCfg u.val)

/-- The counts of event 0901h, logged at most once per minute per UART (R694). -/
def State.rxErrorLog (s : State) (u : Uart) : State :=
  let x := s.side.uarts[u]
  s.hlogKey u.val 0x0901 sevNotice 0xFF (minutes 1) (BitVec.ofNat 8 u.val :: beBytes 2 x.rxErr ++ beBytes 2 x.rxOvf ++ beBytes 2 x.txOvf)

/-- A received byte enters the receive FIFO with its flags, or is lost (R694). -/
def State.uartPush (s : State) (u : Uart) (b : RxByte) : State :=
  let bad := b.fe || b.pe || b.brk
  let full := decide (64 ≤ (s.side.uarts[u]).rx.length)
  let s := s.modUart u fun x => { x with
    rx := if full then x.rx else x.rx ++ [{ b := b.b, fe := b.fe, pe := b.pe, brk := b.brk }]
    evt := x.evt ||| (if full then 0x10 else 0) ||| (if bad && !full then 8 else 0)
    rxErr := x.rxErr + b2n bad, rxOvf := x.rxOvf + b2n full }
  if bad || full then s.rxErrorLog u else s

/-- The rate that an autobaud byte sets: AUTO on, a rate other than the current one measured, the byte 0Dh (R692). -/
def State.autobaud (s : State) (u : Uart) (b : RxByte) : Option Nat :=
  match b.rate with
  | none => none
  | some r =>
    let rate := autoRates.getD r.val 0
    if bit (s.conCfg u) 25 ∧ rate ≠ field (s.conCfg u) 0 20 ∧ b.b = 0x0D then some rate else none

/-- UART_RX_BYTE (R689, R692 to R694); a start bit on CON0 also wakes from Shallows (Table 18.4). While CON1_DE is active the receiver
discards what it receives unless ECHO is 1; while the bank's supply is out of its ranges the byte is lost (R753). -/
def execUartRxByte (u : Uart) (b : RxByte) (s : State) : Host.Outcome State Fault Refusal :=
  if ¬ s.bankDrives 1 then .next s
  else
  let s := if u = 0 then s.wake .con else s
  let x := s.side.uarts[u]
  if ¬ bit (s.conCfg u) 26 ∨ (u = 1 ∧ x.de ∧ ¬ bit (s.conCfg u) 28) then .next s
  else match s.autobaud u b with
  | some rate =>
    let cfg := BitVec.ofNat 32 ((s.conCfg u).toNat / 2 ^ 20 * 2 ^ 20 + rate)
    let s := (s.setReg (Reg.conCfg u.val) cfg).modUart u fun x => { x with evt := x.evt ||| 0x40 }
    .next (s.hlog 0x0902 sevNotice 0xFF (BitVec.ofNat 8 u.val :: beBytes 4 rate))
  | none => .next (s.uartPush u b)

/-- The oldest received byte is popped (Table 20.1); Wellhead gives a byte of CON0 to Narga. -/
def State.uartPop (s : State) (u : Uart) : State :=
  match (s.side.uarts[u]).rx with
  | [] => s
  | e :: rest =>
    let s := s.modUart u fun x => { x with rx := rest }
    if u = 0 then s.nargaByte e.b (e.fe || e.pe || e.brk) else s

/-- The next byte of the transmit FIFO goes on the line; CON1 first makes DE active for LEAD bit times (R693). -/
def State.uartStart (s : State) (u : Uart) : State :=
  let x := s.side.uarts[u]
  match x.tx with
  | [] => s
  | b :: rest =>
    if x.sending.isSome ∨ x.lead ∨ ¬ bit (s.conCfg u) 26 then s
    else if u = 1 ∧ ¬ x.de then s.modUart u fun x => { x with de := true, lead := true, tail := false }
    else s.modUart u fun x => { x with tx := rest, sending := some b, tail := false }

/-- A byte is pushed to the transmit FIFO, or discarded with TXOVF when it is full (R694). -/
def State.uartSend (s : State) (u : Uart) (b : Byte) : State :=
  if 64 ≤ (s.side.uarts[u]).tx.length then
    (s.modUart u fun x => { x with evt := x.evt ||| 0x20, txOvf := x.txOvf + 1 }).rxErrorLog u
  else (s.modUart u fun x => { x with tx := x.tx ++ [b] }).uartStart u

/-- UART_TX_DONE: the stop bit of a byte ends; after the last byte of the FIFO TXDONE is set and, on CON1, TAIL begins (R693). -/
def execUartTxDone (u : Uart) (s : State) : Host.Outcome State Fault Refusal :=
  let x := s.side.uarts[u]
  if x.sending.isNone then .next s
  else
    let s := s.modUart u fun x => { x with sending := none }
    if x.tx.isEmpty then
      .next (s.modUart u fun x => { x with evt := x.evt ||| 4, tail := decide (u = 1) && x.de })
    else .next (s.uartStart u)

/-- DE_LEAD_END (R693). -/
def execDeLeadEnd (s : State) : Host.Outcome State Fault Refusal :=
  if (s.side.uarts[(1 : Uart)]).lead then .next ((s.modUart 1 fun x => { x with lead := false }).uartStart 1) else .next s

/-- DE_TAIL_END (R693). -/
def execDeTailEnd (s : State) : Host.Outcome State Fault Refusal :=
  if (s.side.uarts[(1 : Uart)]).tail then .next (s.modUart 1 fun x => { x with tail := false, de := false }) else .next s

/-! ### I²C controllers (R695 to R700) -/

/-- Result codes (Table 20.3). -/
def iicOk : Nibble := 0
def iicNackAddr : Nibble := 1
def iicNackData : Nibble := 2
def iicSclTo : Nibble := 3
def iicLost : Nibble := 4
def iicStuck : Nibble := 5
def iicAborted : Nibble := 6
def iicBadReq : Nibble := 7

/-- A transfer ends with its result; DONE and EVT.DONE are set (R696). -/
def State.iicEnd (s : State) (i : Iic) (code : Nibble) (nack : Byte) : State :=
  (s.modIic i fun x => { x with busy := false, done := true, code, nack }).setBits (Reg.iicEvt i.val) 1

/-- IICi_CFG. -/
def State.iicCfg (s : State) (i : Iic) : Word := s.reg (Reg.iicCfg i.val)

/-- A commit of XFER (R696, R697). While the bus clear runs no transfer is accepted: COLL (R699). A disabled controller starts none. -/
def State.iicXfer (s : State) (i : Iic) (v : Word) : State :=
  let x := s.side.iics[i]
  if x.busy ∨ x.clearing then s.setBits (Reg.iicEvt i.val) 8
  else
    let s := s.setReg (Reg.iicXfer i.val) (v &&& 0x007FFFFF)
    if ¬ bit (s.iicCfg i) 3 then s
    else if x.stuck then s.iicEnd i iicStuck 0
    else if 32 < field v 11 6 ∨ 32 < field v 17 6 ∨ x.wfifo.length < field v 11 6 ∨ (¬ bit v 10 ∧ 0x7F < field v 0 10) then
      s.iicEnd i iicBadReq 0
    else s.modIic i fun x => { x with busy := true, done := false, code := 0, nack := 0 }

/-- IIC_XFER_DONE: the transfer ends on the bus (R695, R696). The bytes sent leave the transmit FIFO; LOST is logged 0907h. -/
def execIicXferDone (i : Iic) (r : IicResult) (s : State) : Host.Outcome State Fault Refusal :=
  let x := s.side.iics[i]
  if ¬ x.busy then .next s
  else
    let v := s.reg (Reg.iicXfer i.val)
    match r with
    | .ok data =>
      let s := s.modIic i fun x => { x with
        wfifo := x.wfifo.drop (field v 11 6), rfifo := (x.rfifo ++ data.take (field v 17 6)).take 32 }
      .next (s.iicEnd i iicOk 0)
    | .nackAddr => .next (s.iicEnd i iicNackAddr 0)
    | .nackData k => .next ((s.modIic i fun x => { x with wfifo := x.wfifo.drop (k.toNat + 1) }).iicEnd i iicNackData k)
    | .lost => .next ((s.iicEnd i iicLost 0).hlogKey i.val 0x0907 sevNotice 0xFF (minutes 1) [BitVec.ofNat 8 i.val])

/-- A controller reset (R698, R721): a transfer ends ABORTED, a bus clear stops, both FIFOs are emptied. -/
def State.iicReset (s : State) (i : Iic) : State :=
  let s := if (s.side.iics[i]).busy then s.iicEnd i iicAborted 0 else s
  s.modIic i fun x => { x with wfifo := [], rfifo := [], clearing := false }

/-- The bus clear begins (R699); an enabled controller only. -/
def State.iicClear (s : State) (i : Iic) : State :=
  if bit (s.iicCfg i) 3 ∧ ¬ (s.side.iics[i]).busy then s.modIic i fun x => { x with clearing := true } else s

/-- A commit of CFG (R698, R699): clearing EN resets the controller, setting it runs the bus clear. -/
def State.iicCfgSet (s : State) (i : Iic) (v : Word) : State :=
  let old := bit (s.iicCfg i) 3
  let s := s.setReg (Reg.iicCfg i.val) (v &&& 0xF)
  if old ∧ ¬ bit v 3 then s.iicReset i else if ¬ old ∧ bit v 3 then s.iicClear i else s

/-- IIC_BUS_CLEAR_DONE (R699). -/
def execIicBusClearDone (i : Iic) (foundLow : Bool) (pulses : Nat) (endsHigh : Bool) (s : State) : Host.Outcome State Fault Refusal :=
  if ¬ (s.side.iics[i]).clearing then .next s
  else
    let s := s.modIic i fun x => { x with clearing := false, stuck := !endsHigh }
    if endsHigh then
      let s := s.setBits (Reg.iicEvt i.val) 4
      .next (if foundLow then s.hlog 0x0905 sevNotice 0xFF [BitVec.ofNat 8 i.val, BitVec.ofNat 8 pulses] else s)
    else .next ((s.setBits (Reg.iicEvt i.val) 2).hlog (0x0903 + i.val) sevNotice 0xFF [BitVec.ofNat 8 i.val])

/-- SMBUS_TIMEOUT (R700). -/
def execSmbusTimeout (i : Iic) (s : State) : Host.Outcome State Fault Refusal :=
  if (s.side.iics[i]).busy ∧ bit (s.iicCfg i) 2 then
    .next ((s.iicEnd i iicSclTo 0).hlogKey i.val 0x0906 sevNotice 0xFF (minutes 1) [BitVec.ofNat 8 i.val])
  else .next s

/-! ### QSPI (R704 to R706) -/

/-- Results (Table 20.4). -/
def qspiOk : Byte := 0
def qspiProtected : Byte := 1
def qspiTimeout : Byte := 2
def qspiVerify : Byte := 3
def qspiBadReq : Byte := 4
def qspiHeld : Byte := 5

/-- An operation ends with a result (R704). -/
def State.qspiEnd (s : State) (r : Byte) : State :=
  (s.modQspi fun q => { q with op := none, res := r }).setBits Reg.qspiEvt 1

/-- The flash bytes that an operation touches: offset and length. -/
def qspiRange (code addr len : Nat) : Nat × Nat :=
  if code = 1 then (addr, len) else if code = 2 then (addr / 4096 * 4096, 4096) else if code = 3 then (addr / 65536 * 65536, 65536) else (addr, 0)

/-- Whether an operation is a bad request (R705). -/
def State.qspiBadRequest (s : State) (code addr len : Nat) : Bool :=
  let q := s.side.qspi
  if code = 4 then false
  else decide (2 ^ q.log2 ≤ addr) || (decide (code = 1) && decide (len = 0 ∨ 256 < len ∨ 256 < addr % 256 + len)) ||
    (decide (code = 3) && !q.erase64)

/-- Whether an operation touches an active slot, or the directory without being Wellhead's (R607, R705). -/
def State.qspiIsProtected (s : State) (m : Master) (code addr len : Nat) : Bool :=
  let (a, n) := qspiRange code addr len
  decide (n ≠ 0) && (s.inActiveSlot (0x05000000 + a) || s.inActiveSlot (0x05000000 + a + n - 1) ||
    (decide (m ≠ .wellhead) && decide (a < 0x2000)))

/-- The bytes of QSPI_BUF. -/
def State.qspiBufBytes (s : State) (n : Nat) : List Byte :=
  ((List.range 64).flatMap fun j => leBytes 4 (s.reg (Reg.qspiBuf j)).toNat).take n

/-- A started operation writes the flash; window reads wait until it ends, so that none sees the bytes before it (R703, R704). -/
def State.qspiWrite (s : State) (code addr len : Nat) : State :=
  let (a, n) := qspiRange code addr len
  if code = 1 then s.setBytes (0x05000000 + a) (s.qspiBufBytes n)
  else s.setBytes (0x05000000 + a) (List.replicate n 0xFF)

/-- A commit of QSPI_OP by a master: the checks of R705 in order, then the operation (R704). -/
def State.qspiOp (s : State) (m : Master) (v : Word) : State :=
  let code := field v 0 4
  let len := field v 16 9
  let addr := (s.reg Reg.qspiAddr).toNat
  if code = 0 ∨ 4 < code then s.setBits Reg.qspiStat 0x80000000
  else if 2 ≤ s.power.boot.toNat then s.qspiEnd qspiHeld
  else if s.side.qspi.op.isSome then s.setBits Reg.qspiEvt 4
  else if s.qspiBadRequest code addr len then s.qspiEnd qspiBadReq
  else if s.qspiIsProtected m code addr len then
    ((s.qspiEnd qspiProtected).setBits Reg.qspiEvt 2).hlogLim 0x0910 sevNotice 0xFF (minutes 1)
      (beBytes 4 addr ++ [BitVec.ofNat 8 (masterCode m)])
  else (s.qspiWrite code addr len).modQspi fun q => { q with op := some (code, addr, len) }

/-- The bytes of an operation that did not complete are unknown: free values. -/
def State.qspiLost (s : State) : State :=
  match s.side.qspi.op with
  | none => s
  | some (code, addr, len) => let (a, n) := qspiRange code addr len; s.loseBytes (0x05000000 + a) n

/-- QSPI_OP_DONE (R704, R706). -/
def execQspiOpDone (status : Byte) (readBackOk : Bool) (s : State) : Host.Outcome State Fault Refusal :=
  match s.side.qspi.op with
  | none => .next s
  | some (code, _, _) =>
    if code = 4 then .next ((s.modQspi fun q => { q with statusByte := status }).qspiEnd qspiOk)
    else if code = 1 ∧ ¬ readBackOk then .next ((s.qspiLost.qspiEnd qspiVerify).hlog 0x0913 sevNotice 0xFF [])
    else .next (s.qspiEnd qspiOk)

/-- QSPI_TIMEOUT (R706). -/
def execQspiTimeout (s : State) : Host.Outcome State Fault Refusal :=
  if s.side.qspi.op.isSome then .next ((s.qspiLost.qspiEnd qspiTimeout).hlog 0x0912 sevNotice 0xFF []) else .next s

/-! ### General-purpose pins, pulse counters and bank supplies -/

/-- GP_EDGE: the pin's level changes; a matching edge sets GP_EVT; the mode's edge or level also wakes (R711, R712, Table 18.4). -/
def execGpEdge (i : Fin 16) (rising : Bool) (s : State) : Host.Outcome State Fault Refusal :=
  let s := s.lineEvent fun s => s.modSide fun x => { x with
    gpIn := if rising then x.gpIn ||| BitVec.ofNat 16 (2 ^ i.val) else x.gpIn &&& ~~~ BitVec.ofNat 16 (2 ^ i.val) }
  let mode := field (s.reg (Reg.gpCfg i.val)) 0 3
  let edge := decide (mode = 3 ∨ (mode = 1 ∧ rising) ∨ (mode = 2 ∧ ¬ rising))
  let level := decide ((mode = 4 ∧ rising) ∨ (mode = 5 ∧ ¬ rising))
  let s := if edge then s.setBits Reg.gpEvt (BitVec.ofNat 32 (2 ^ i.val)) else s
  .next (if edge || level then s.wake .gp else s)

/-- VIO_BANK_CHANGE: the supply of a bank takes a value; the pins of the bank drive only within its ranges (R733). -/
def execVioBankChange (bank : Fin 3) (milli : Nat) (s : State) : Host.Outcome State Fault Refusal :=
  .next (s.lineEvent fun s => s.modPower fun p => { p with vioMilli := p.vioMilli.set bank milli })

/-- DEN_OVERCURRENT: a sinking DEN pin is released; 0930h at most once per second per pin (R754). -/
def execDenOvercurrent (n : Chan) (s : State) : Host.Outcome State Fault Refusal :=
  if s.den n then
    .next ((s.modTarn fun t => { t with denTrip := t.denTrip.set n true }).hlogKey n.val 0x0930 sevNotice (0x70 + n.val) (seconds 1)
      [BitVec.ofNat 8 n.val])
  else .next s

/-- DEN_RETRY: the release ends (R751, R754). -/
def execDenRetry (n : Chan) (s : State) : Host.Outcome State Fault Refusal :=
  .next (s.modTarn fun t => { t with denTrip := t.denTrip.set n false })

/-! ### Test access (R714 to R718) -/

/-- EXTEST, HIGHZ or CLAMP becomes the current instruction: each OPEN or STOPPED session closes INTERRUPTED, and the first one after
a start is logged 041Eh (R716). -/
def State.boundaryScan (s : State) (op : Byte) : State :=
  let s := s.modSide fun x => { x with tap := op }
  let s := if s.side.scanLogged then s else (s.modSide fun x => { x with scanLogged := true }).tlog 0x041E 0xFF 0 []
  s.each allChans fun s n => s.closeOwn n closeInterrupted s.rtc

/-- An instruction that leaves the pins alone. -/
def State.tapSet (s : State) (op : Byte) : State := s.modSide fun x => { x with tap := op }

/-- TAP_RESET selects IDCODE (R714). -/
def execTapReset (s : State) : Host.Outcome State Fault Refusal := .next (s.tapSet 2)
/-- TAP_EXTEST (R716). -/
def execTapExtest (s : State) : Host.Outcome State Fault Refusal := .next (s.boundaryScan 0)
/-- TAP_SAMPLE_PRELOAD (Table 20.7). -/
def execTapSamplePreload (s : State) : Host.Outcome State Fault Refusal := .next (s.tapSet 1)
/-- TAP_IDCODE (Table 20.7). -/
def execTapIdcode (s : State) : Host.Outcome State Fault Refusal := .next (s.tapSet 2)
/-- TAP_HIGHZ (R716). -/
def execTapHighz (s : State) : Host.Outcome State Fault Refusal := .next (s.boundaryScan 3)
/-- TAP_CLAMP (R716). -/
def execTapClamp (s : State) : Host.Outcome State Fault Refusal := .next (s.boundaryScan 4)

/-- TAP_BYPASS: FFh, or an opcode that Table 20.7 does not list (R714). -/
def execTapBypass (opcode : Byte) (s : State) : Host.Outcome State Fault Refusal :=
  if opcode.toNat ∈ [0, 1, 2, 3, 4, 0x80, 0x81] then .next s else .next (s.tapSet opcode)

/-- DEBUG_EXPIRY: the window's seconds have run out (R717). -/
def execDebugExpiry (s : State) : Host.Outcome State Fault Refusal := .next s.debugEnd

/-! ### Timers and the RTC (R759 to R763) -/

/-- The period of a timer; 0 acts as 1 (Table 22.2). -/
def State.tmrPeriod (s : State) (t : Fin 2) : Word := if s.reg (Reg.tmrLoad t.val) = 0 then 1 else s.reg (Reg.tmrLoad t.val)

/-- A commit of TMRt_CFG (R762): EN from 0 to 1 loads COUNT from LOAD. -/
def State.tmrCfgSet (s : State) (t : Fin 2) (v : Word) : State :=
  let old := bit (s.reg (Reg.tmrCfg t.val)) 0
  let s := s.setReg (Reg.tmrCfg t.val) (v &&& 3)
  if ¬ old ∧ bit v 0 then s.setReg (Reg.tmrCount t.val) (s.tmrPeriod t) else s

/-- TMR_EXPIRY: COUNT reaches 0 (R762). -/
def State.tmrExpire (s : State) (t : Fin 2) : State :=
  let cfg := s.reg (Reg.tmrCfg t.val)
  if ¬ bit cfg 0 then s
  else
    let s := s.setBits Reg.tmrEvt (BitVec.ofNat 32 (2 ^ t.val))
    if bit cfg 1 then s.setReg (Reg.tmrCount t.val) (s.tmrPeriod t)
    else (s.setReg (Reg.tmrCfg t.val) (cfg &&& 2)).setReg (Reg.tmrCount t.val) 0

/-- Whether the timers count: PS0 to PS2 (R763). -/
def State.timersRun (s : State) : Bool := decide (s.power.ps ≤ 2) && !decide (s.power.stage = .off)

def execTmrExpiry (t : Fin 2) (s : State) : Host.Outcome State Fault Refusal :=
  if s.timersRun then .next (s.tmrExpire t) else .next s

/-- RTC_ALARM: by counting, the RTC second becomes equal to RTC_ALARM (R761). -/
def execRtcAlarm (s : State) : Host.Outcome State Fault Refusal :=
  if bit (s.reg Reg.rtcActl) 0 then
    let s := { s with rtc := (s.reg Reg.rtcAlarm).setWidth 48 <<< 16 }
    .next (((s.setBits Reg.tmrEvt 4).clearBits Reg.rtcActl 1).wake .rtc)
  else .next s

end Sys2Proof.Machine
end

