-- ==== Sys2Proof/Machine/Commits.lean ====
section
/-! DEFINITION. A commit to a device register (R29, R34 to R39, R43): access codes, expert registers, owners, reserved values, and
the effect that each register's own rule gives. -/

namespace Sys2Proof.Machine

/-! ### What every commit shares -/

/-- A write that a register does not accept: no effect, STAT.RESW of its unit window (R29, R43). -/
def State.refuseWrite (s : State) (a : Nat) : State := s.setBits (statOf a) 0x80000000

/-- Whether the clock domain of a register's block is gated for a master (Table 18.3, R635; log 43): in Still an engine that waits; from
step 5 on engines and converters, and the fabric for every master but Wellhead and Tarn; from step 6 on every block but CLK/PWR, TMB
and the RTC's. -/
def State.gated (s : State) (m : Master) (a : Nat) : Bool :=
  let b := a / 0x10000
  (decide (2 ≤ s.power.entry ∧ b = 0x0404 ∧ a % 0x10000 < 0x8000) && s.waitGated (Fin.ofNat 8 (a % 0x10000 / 0x1000))) ||
    decide (5 ≤ s.power.entry ∧ ((b = 0x0404 ∨ b = 0x0405) ∨ (m ≠ .wellhead ∧ m ≠ .tarn))) ||
    decide (6 ≤ s.power.entry ∧ b ≠ 0x0401 ∧ b ≠ 0x040A ∧ b ≠ 0x040D)

/-- Whether a register's block answers a master: from the moment Spring starts, unless its clock domain is gated (R50). -/
def State.answers (s : State) (m : Master) (a : Nat) : Bool :=
  (match s.power.stage with | .spring => true | .wellhead => true | .released => true | _ => false) && !s.gated m a

/-- The value that a commit leaves in the stored bits of a register: RW bits replaced, W1C bits cleared where it has 1 (R37). -/
def storedAfter (old v : Word) (i : RegInfo) : Word := (old &&& ~~~ (i.rw ||| (v &&& i.w1c))) ||| (v &&& i.rw)

/-- The plain effect of a commit (R37). -/
def State.storeReg (s : State) (a : Nat) (v : Word) (i : RegInfo) : State := s.setReg a (storedAfter (s.reg a) v i)

/-- The core whose own write this is. -/
def ownCore (m : Master) (c : Nat) : Bool :=
  match m with | .lc d _ _ => decide (d.val = c) | _ => false

/-- The old value of a register goes on in use by core `c` until its SYNC (R222). -/
def State.keepOld (s : State) (c : Core) (a : Nat) : State :=
  s.modCore c fun x => if x.oldRegs.any fun e => decide (e.1 = a) then x else { x with oldRegs := (a, s.reg a) :: x.oldRegs }

/-- A register of core `c` listed in R221 takes a value: the core's own write waits for its SYNC (R222), another master's for its next
boundary or checkpoint (R338, R361). -/
def State.storeSynced (s : State) (m : Master) (c : Core) (a : Nat) (v : Word) (i : RegInfo) : State :=
  (if ownCore m c.val then s.keepOld c a else s.useNew c a).storeReg a v i

/-! ### LCC (R202, R203, R219, R224, R226, R338) -/

/-- A new value of LCC_MODE. A core's own write from its store buffer has been counted at its instruction (R219); any other
starts its count here: it applies from the third instruction completed after. -/
def State.lccModeSet (s : State) (buffered : Bool) (m : Master) (c : Core) (v : Word) : State :=
  let s := s.setReg (Reg.lccMode c.val) (v &&& 1)
  if buffered && ownCore m c.val then s else s.modCore c fun x => { x with modeCounts := x.modeCounts ++ [(2, bit v 0)] }

/-- LCC_CACHE: a core's own write waits for its SYNC, another master's for the core's next boundary (R338). -/
def State.lccCacheSet (s : State) (m : Master) (c : Core) (v : Word) (i : RegInfo) : State :=
  let inv : BitVec 3 := BitVec.ofNat 3 (field v 8 3)
  (s.storeSynced m c (Reg.lccCache c.val) v i).modCore c fun x =>
    if ownCore m c.val then { x with pendInv := x.pendInv ||| inv }
    else if x.held.isSome then { x with lateInv := x.lateInv ||| inv }
    else x.invalidate inv

/-- LCC_CTXGO: a context named by GO and STOP ends STOPPED (R202, R230). -/
def State.ctxGoStop (s : State) (c : Core) (v : Word) : State :=
  s.each allCtxs fun s k => if bit v (8 + k.val) then s.askStop c k else if bit v k.val then s.ctxGo c k else s

/-- The registers of a STOPPED context take a commit of LCC_KPC, LCC_KAX, LCC_KYL or LCC_KDP (R203, R224); CTX.FS, which is read-only, keeps
its value (Table 6.2). -/
def CtxRegs.commit (r : CtxRegs) (o : Nat) (v : Word) : CtxRegs :=
  let lo : Half := v.setWidth 16
  let hi : Half := (v >>> 16).setWidth 16
  match o with
  | 4 => { r with pc := lo, ctx := (hi &&& 0xFEFF) ||| (r.ctx &&& 0x0100) }
  | 0x14 => { r with a := v.setWidth 8, x := hi }
  | 0x18 => { r with y := lo, l := hi }
  | _ => { r with dp := lo }

/-- A commit within a context's window (R203): KBW when the context is not STOPPED. The stack registers wait for the core's next boundary
(R225). -/
def State.kwinSet (s : State) (c : Core) (k : Ctx) (a o : Nat) (v : Word) (i : RegInfo) : State :=
  if o = 4 ∨ o = 0x14 ∨ o = 0x18 ∨ o = 0x1C then
    if (s.ctx c k).state = .stopped then s.modCtx c k fun x => { x with regs := x.regs.commit o v }
    else s.modCore c fun x => { x with kbw := true }
  else (s.useNew c a).storeReg a v i

def State.commitLcc (s : State) (buffered : Bool) (m : Master) (a : Nat) (v : Word) (i : RegInfo) : State :=
  let c : Core := Fin.ofNat 4 (a % 0x10000 / 0x1000)
  let u := a % 0x1000
  match u with
  | 4 => (s.storeReg a v i).modCore c fun x => { x with kbw := x.kbw && !bit v 29 }
  | 8 => s.lccModeSet buffered m c v
  | 0x0C => s.lccCacheSet m c v i
  | 0x10 => (s.storeReg a v i).noteOrphans (allCores.filter (orphaned s))
  | 0x14 => s.storeSynced m c a v i
  | 0x1C => s.ctxGoStop c v
  | 0x200 => if 4 ≤ field v 0 6 ∧ field v 0 6 ≤ 28 then s.storeReg a v i else s.refuseWrite a
  | _ => if 0x100 ≤ u then s.kwinSet c (Fin.ofNat 8 ((u - 0x100) / 0x20)) a (u % 0x20) v i else s.storeReg a v i

/-! ### XLT (R371, R372, R376 to R379) -/

/-- XLT_XDIAG acts on each core at its next boundary and empties the LABs that it turns off (R379). -/
def State.xdiagSet (s : State) (v : Word) : State :=
  let s := (s.each allCores fun s c => s.useNew c Reg.xltXdiag).setReg Reg.xltXdiag (v &&& 3)
  s.each allCores fun s c => if (s.core c).held.isSome then s else s.dropDiag c

/-- A commit to the window of core `c`, context `k` (R360, R361, R376, R377): reserved values are refused; the core's own write waits for
its SYNC, another master's for the core's next boundary or checkpoint. -/
def State.xltWinSet (s : State) (m : Master) (c : Core) (k : Ctx) (a : Nat) (raw v : Word) (i : RegInfo) : State :=
  let o := a % 0x40
  let bdt := decide (o < 8)
  let j := (o - 0x10) / 8
  let bad : Bool :=
    if o = 0 then decide (raw ≠ v)
    else if o = 4 then decide (raw ≠ v) || decide (32 < field v 0 6)
    else if o % 8 = 0 then descBad v (s.reg (Reg.pbrP c.val k.val j))
    else descBad (s.reg (Reg.pbrL c.val k.val j)) v
  if bad then s.refuseWrite a
  else
    let s := s.storeSynced m c a v i
    if bdt && !ownCore m c.val && (s.core c).held.isNone then s.dropLabs c k else s

/-- Clearing ACC and MOD bits of four key entries (R376, R378); the writing core keeps their old values until its SYNC. -/
def State.keyClear (s : State) (m : Master) (a : Nat) (v : Word) (i : RegInfo) : State :=
  let j := (a % 0x10000 - 0x1000) / 4
  let s := s.keyCheck a
  let s := match m with
    | .lc c _ _ => s.modCore c fun x => { x with
        oldKeys := x.oldKeys ++ ((List.range 4).filterMap fun b =>
          let f := 4 * j + b
          if (byteOf v b &&& 3) = 0 ∨ (x.oldKeys.any fun e => decide (e.1 = f)) then none else some (f, s.keyEntry f)) }
    | _ => s
  s.storeReg a v i

def State.commitXlt (s : State) (m : Master) (a : Nat) (raw v : Word) (i : RegInfo) : State :=
  let o := a % 0x10000
  if o = 0x10 then s.xdiagSet v
  else if 0x1000 ≤ o then s.keyClear m a v i
  else if 0x100 ≤ o then
    let w := (o - 0x100) / 0x40
    s.xltWinSet m (Fin.ofNat 4 (w / 8)) (Fin.ofNat 8 (w % 8)) a raw v i
  else s.storeReg a v i

/-! ### CE and CNV (R138, R154, R173, R178, R179) -/

/-- CE_XINJ with ARM flips the named stored bit once, while the channel is OUT with no session (R138). -/
def State.xinj (s : State) (n : Chan) (a : Nat) (v : Word) (i : RegInfo) : State :=
  if 103 < field v 16 7 then s.refuseWrite a
  else if ¬ ((s.chan n).legal = .out ∧ (s.chan n).sess = .none) then s
  else
    let w : BitVec 11 := BitVec.ofNat 11 (field v 0 11)
    let s := s.storeReg a v i
    if bit v 24 then s.modEng n fun e => let x := e.word w; e.setWord w { x with flips := x.flips ^^^ BitVec.ofNat 104 (2 ^ field v 16 7) }
    else s

/-- A commit in an engine's window; CE_HPARAM makes HOSTP true (Table 4.4, R142). -/
def State.commitCe (s : State) (a : Nat) (v : Word) (i : RegInfo) : State :=
  let n : Chan := Fin.ofNat 8 (a % 0x10000 / 0x1000)
  if a % 0x1000 = 0x204 then s.xinj n a v i
  else if a % 0x1000 = 0x0C then (s.storeReg a v i).modEng n fun e => { e with hostp := true }
  else s.storeReg a v i

/-- The masters that set up a converter: the engines of its group and Tarn (R154). -/
def groupMaster (u : Cnv) (m : Master) : Bool :=
  match m with | .ce n => decide (cnvOf n = u) | .tarn => true | _ => false

/-- Whether a sequence entry holds a reserved value (R153). -/
def seqBad (v : Word) : Bool :=
  decide (field v 8 8 < 4) || decide (6 ≤ field v 4 3) || decide (field v 18 2 = 3) || decide (field v 20 2 = 3) ||
    (decide (field v 20 2 ≠ 0) && decide (8 ≤ field v 0 4))

/-- A set-up register of a converter takes a value from its own masters only; a commit of another that would change it is refused
(R154). -/
def State.setupReg (s : State) (u : Cnv) (m : Master) (a : Nat) (v : Word) (i : RegInfo) (bad : Bool) : State :=
  if groupMaster u m then (if bad then s.refuseWrite a else s.storeReg a v i)
  else if v &&& i.rw = s.reg a &&& i.rw then s else s.refuseWrite a

/-- CNV_CTRL: EXP is open to every master, the rest to the converter's own (R154). -/
def State.cnvCtrlSet (s : State) (u : Cnv) (m : Master) (a : Nat) (v : Word) (i : RegInfo) : State :=
  if groupMaster u m then (if field v 8 2 = 3 then s.refuseWrite a else s.storeReg a v i)
  else
    let kept := s.reg a &&& 0x7FF
    let s := if v &&& 0x7FF = kept then s else s.refuseWrite a
    s.setReg a ((v &&& 0x80000000) ||| kept)

def State.commitCnv (s : State) (m : Master) (a : Nat) (v : Word) (i : RegInfo) : State :=
  let u : Cnv := Fin.ofNat 2 (a % 0x10000 / 0x1000)
  let o := a % 0x1000
  match o with
  | 0 => s.cnvCtrlSet u m a v i
  | 8 => if field v 0 4 = 1 then s.cnvStart u .soft else if field v 0 4 = 2 then s.calFull u else s.refuseWrite a
  | 0x14 => s.setupReg u m a v i false
  | 0x18 => s.setupReg u m a v i (decide (6 ≤ field v 10 3))
  | 0x1C => s.setupReg u m a v i false
  | 0x28 =>
    match m with
    | .ce n => if cnvOf n = u ∧ field v 0 8 = 0xA5 then s.cnvFault u 5 else s.refuseWrite a
    | _ => s.refuseWrite a
  | 0x30 => s.setupReg u m a v i false
  | 0x200 => if s.groupInSession u then s else s.storeReg a v i
  | 0x204 => if s.groupInSession u then s else (let s := s.storeReg a v i; if bit v 0 then s.surgeFire u else s)
  | _ => if 0x40 ≤ o ∧ o < 0x80 then s.setupReg u m a v i (seqBad v) else s.storeReg a v i

/-! ### USD, routing and transactions (R484, R486, R495, R498, R520 to R523) -/

def State.commitUsd (s : State) (a : Nat) (v : Word) (i : RegInfo) : State :=
  let p : Port := Fin.ofNat 4 (a % 0x10000 / 0x1000)
  match a % 0x1000 with
  | 0 => if field v 1 3 = 0 then s.refuseWrite a else s.usdCtrlSet p v
  | 0x10 =>
    let ackt := field v 0 8
    let rep := field v 8 12
    if 1 ≤ ackt ∧ ackt ≤ 64 ∧ 4 ≤ rep ∧ rep ≤ 1000 then s.storeReg a v i else s.refuseWrite a
  | 0x14 => if (List.range 4).all fun c => decide (5 ≤ field v (8 * c) 8) then s.storeReg a v i else s.refuseWrite a
  | 0x200 => (s.storeReg a v i).holdCheck p
  | 0x204 => if 512 ≤ field v 0 16 ∧ field v 0 16 ≤ 8192 then (s.storeReg a v i).holdCheck p else s.refuseWrite a
  | 0x208 => if ¬ s.usdEn p ∧ (s.port p).state = .dry then s.storeReg a v i else s.refuseWrite a
  | _ => s.storeReg a v i

/-- A commit in the routing window. -/
def State.commitRt (s : State) (a : Nat) (v : Word) (i : RegInfo) : State :=
  let u := a % 0x1000
  if u = 8 then s.rtNodeSet v else if 0x800 ≤ u then s.rtRouteSet ((u - 0x800) / 4) v else s.storeReg a v i

/-- A commit in the transaction window: slot c belongs to core c (R521), the Wellhead slot to Wellhead (R523). -/
def State.commitTxn (s : State) (m : Master) (a : Nat) (raw v : Word) (i : RegInfo) : State :=
  let u := a % 0x1000
  let c : Core := Fin.ofNat 4 ((u - 0x100) / 0x20)
  if 0x100 ≤ u ∧ u < 0x180 then
    if ¬ ownCore m c.val then s.refuseWrite a
    else if u % 0x20 = 0x0C then s.txnCommand c raw
    else s.storeReg a v i
  else if 0x180 ≤ u ∧ u < 0x300 then
    if m ≠ .wellhead then s.refuseWrite a
    else if u = 0x18C then s.wCommand raw
    else s.storeReg a v i
  else if u = 8 then
    if 1 ≤ field v 0 14 ∧ field v 0 14 ≤ 10000 ∧ 1 ≤ field v 16 8 ∧ field v 16 8 ≤ 100 then s.storeReg a v i else s.refuseWrite a
  else s.storeReg a v i

def State.commitMesh (s : State) (m : Master) (a : Nat) (raw v : Word) (i : RegInfo) : State :=
  let o := a % 0x10000
  if o < 0x4000 then s.commitUsd a v i else if o < 0x5000 then s.commitRt a v i else s.commitTxn m a raw v i

/-! ### Side ports (R691, R696, R704, R710, R711) -/

def State.commitCon (s : State) (m : Master) (a : Nat) (v : Word) (i : RegInfo) : State :=
  let o := a % 0x10000
  let u : Uart := Fin.ofNat 2 (o / 0x100 - 1)
  if o < 0x100 then s.storeReg a v i
  else if u = 0 ∧ m ≠ .wellhead then s.refuseWrite a
  else match o % 0x100 with
  | 0 =>
    if 1200 ≤ field v 0 20 ∧ field v 0 20 ≤ 921600 then (s.storeReg a v i).uartStart u else s.refuseWrite a
  | 4 => s.modUart u fun x => { x with evt := x.evt &&& ~~~ (v.setWidth 8 &&& 0x7C) }
  | 0x0C => if 1 ≤ field v 16 7 ∧ field v 16 7 ≤ 64 ∧ field v 24 7 ≤ 63 then s.storeReg a v i else s.refuseWrite a
  | 0x10 => s.uartSend u (v.setWidth 8)
  | _ => s.storeReg a v i

/-- A byte is pushed to an I²C transmit FIFO of 32 bytes; one that finds it full is lost. -/
def State.iicPush (s : State) (i : Iic) (b : Byte) : State :=
  s.modIic i fun x => if 32 ≤ x.wfifo.length then x else { x with wfifo := x.wfifo ++ [b] }

def State.commitIic (s : State) (a : Nat) (v : Word) (i : RegInfo) : State :=
  let o := a % 0x10000
  let k : Iic := Fin.ofNat 2 (o / 0x100 - 1)
  if o < 0x100 then s.storeReg a v i
  else match o % 0x100 with
  | 0 => if field v 0 2 = 3 then s.refuseWrite a else s.iicCfgSet k v
  | 4 =>
    let s := if bit v 0 then s.iicReset k else s
    if bit v 1 then s.iicClear k else s
  | 8 => s.iicXfer k v
  | 0x18 => s.iicPush k (v.setWidth 8)
  | _ => s.storeReg a v i

def State.commitPio (s : State) (m : Master) (a : Nat) (v : Word) (i : RegInfo) : State :=
  let o := a % 0x10000
  if 0x100 ≤ o ∧ o < 0x120 then
    let own : Bool := match m with | .ce n => decide (n.val = (o - 0x100) / 4) | .tarn => true | _ => false
    if own then (if field v 4 2 = 3 ∨ field v 6 2 = 3 then s.refuseWrite a else s.storeReg a v i)
    else if v &&& i.rw = s.reg a then s else s.refuseWrite a
  else if o = 0x208 then s.setReg Reg.gpOut (s.reg Reg.gpOut ||| (v &&& 0xFFFF))
  else if o = 0x20C then s.setReg Reg.gpOut (s.reg Reg.gpOut &&& ~~~ (v &&& 0xFFFF))
  else if 0x220 ≤ o ∧ o < 0x260 ∧ 6 ≤ field v 0 3 then s.refuseWrite a
  else s.storeReg a v i

/-! ### TMB, WMB, IRQ, TMR, QSPI and CLK/PWR -/

/-- A commit in a slot (R82, R83): CMD submits, ACK clears RSP.DONE. Tarn writes the TO fields alone. -/
def State.commitTmb (s : State) (m : Master) (a : Nat) (raw v : Word) (i : RegInfo) : State :=
  let o := a % 0x10000
  if o = 0x10 then (match m with | .lc _ _ _ => s.storeReg a v i | _ => s.refuseWrite a)
  else if o < 0x100 then s.storeReg a v i
  else
    let slot : Slot := Fin.ofNat 5 ((o - 0x100) / 0x40)
    if m = .tarn ∧ i.tso ≠ 0 then s
    else if ¬ tmbOwner slot m then s.refuseWrite a
    else match o % 0x40 with
    | 0 => s.tmbSubmit slot raw
    | 0x3C => if bit v 0 then s.clearBits (Reg.tmbRsp slot.val) 0x40000000 else s
    | _ => s.storeReg a v i

/-- APUT (R592, R593): one line handed over, or APERR. FINAL is bit [8] and SERIAL is compared on bits [15:9] (log 19). -/
def State.appPutLine (s : State) (a : Nat) (v : Word) : State :=
  let w := s.well
  if ¬ (1 ≤ field v 0 8 ∧ field v 0 8 ≤ 220) then s.refuseWrite a
  else if w.appPend ∧ w.appReady ∧ ¬ w.appClosed ∧ field v 9 7 = w.appSerial.toNat / 2 then
    s.modWell fun w => { w with appPut := some v, appReady := false }
  else s.modWell fun w => { w with aperr := true }

/-- WMB_XPIN.TESTREPL is a cause of REPLACE_N (R594). -/
def State.xpinSet (s : State) (v : Word) : State :=
  let s := s.setReg Reg.wmbXpin (v &&& 1)
  if bit v 0 then s.addCause .testPin 0 else s.endCause .testPin 0

def State.commitWmb (s : State) (a : Nat) (v : Word) (i : RegInfo) : State :=
  match a % 0x10000 with
  | 0 => if 5 ≤ field v 0 3 then s.refuseWrite a else s.storeReg a v i
  | 4 => (s.storeReg a v i).modWell fun w => { w with aperr := w.aperr && !bit v 11 }
  | 0x204 => s.appPutLine a v
  | 0x600 => s.xpinSet v
  | _ => s.storeReg a v i

/-- The RTI of a trap whose entry is discarded never comes: what waited for it is dropped, but for entries that are spilled (R399, R418). -/
def CoreSt.dropReturns (x : CoreSt) (k : Ctx) : CoreSt :=
  { x with
    ec11Back := if k = 0 then x.ec11Back.filter fun e => decide (e.1 < 0) else x.ec11Back
    kept := x.kept.filter fun e => !(decide (e.2.1 = k) && decide (0 ≤ e.2.2)) }

/-- IRQ_RSDROP: the entries held for each named STOPPED context are discarded (R400). -/
def State.rsDrop (s : State) (v : Word) : State :=
  let c : Core := Fin.ofNat 4 (field v 0 2)
  s.each allCtxs fun s k =>
    if bit v (8 + k.val) ∧ (s.ctx c k).state = .stopped then
      (s.modCtx c k fun x => { x with stack := [] }).modCore c fun x => x.dropReturns k
    else s

/-- IRQ_WDTc: a watchdog that becomes enabled restarts from its period (R406); an expiry stays one to be followed by WDR (R407). -/
def State.wdtSet (s : State) (c : Core) (a : Nat) (v : Word) (i : RegInfo) : State :=
  let old := s.reg a
  let s := s.storeReg a v i
  s.each allCtxs fun s k =>
    if bit v (16 + k.val) && !bit old (16 + k.val) then s.modCtx c k fun x => { x with wdtLeft := s.wdtPeriod c } else s

/-- A line that is given another target while a core takes its entry waits for that handler's RTI (R418). -/
def State.lineMoves (s : State) (a : Nat) (v : Word) : State :=
  if field (s.reg a) 0 5 = field v 0 5 then s
  else s.each allCores fun s c =>
    match (s.core c).taking with
    | some t => if Reg.irqLine t.1 = a then s.modCore c fun x => { x with kept := t :: x.kept, taking := none } else s
    | none => s

/-- IRQ_LINEn (R403, R404): a core's own commit to a line routed to itself, before or after, waits for its SYNC; it reaches every other core
at that core's next boundary or checkpoint. -/
def State.irqLineSet (s : State) (m : Master) (a : Nat) (v : Word) (i : RegInfo) : State :=
  let own := fun c : Core => decide (field (s.reg a) 0 2 = c.val ∨ field v 0 2 = c.val)
  let s := (s.lineMoves a v).each allCores fun s c =>
    if ownCore m c.val then (if own c then s.keepOld c a else s) else s.useNew c a
  s.storeReg a v i

def State.commitIrq (s : State) (m : Master) (a : Nat) (v : Word) (i : RegInfo) : State :=
  let o := a % 0x10000
  if o = 0x10 then s.setBits Reg.irqDb (v &&& 0xF)
  else if o = 0x18 then s.rsDrop v
  else if 0x20 ≤ o ∧ o < 0x30 then s.wdtSet (Fin.ofNat 4 ((o - 0x20) / 4)) a v i
  else if 0x100 ≤ o ∧ o < 0x1C0 then s.irqLineSet m a v i
  else if o = 0x200 ∧ 48 ≤ field v 0 6 then s.refuseWrite a
  else s.storeReg a v i

/-- RTC_SEC and RTC_FRAC change only by Tarn (R760). -/
def State.commitTmr (s : State) (m : Master) (a : Nat) (v : Word) (i : RegInfo) : State :=
  match a % 0x10000 with
  | 0x10 => if m = .tarn then s.rtcSet ((v.setWidth 48 <<< 16) ||| (s.rtc &&& 0xFFFF)) else s
  | 0x14 => if m = .tarn then s.rtcSet (((s.rtc >>> 16) <<< 16) ||| (v.setWidth 48 &&& 0xFFFF)) else s
  | 0x100 => s.tmrCfgSet 0 v
  | 0x110 => s.tmrCfgSet 1 v
  | _ => s.storeReg a v i

/-- NVL_CGc_CMD (R426, R434): core c alone; the CODE acts for the context that commits. -/
def State.cgCommand (s : State) (m : Master) (c : Core) (a : Nat) (v : Word) : State :=
  match m with
  | .lc d k _ =>
    if d ≠ c then s.refuseWrite a
    else match field v 0 2 with
    | 1 => s.cgOpen c k
    | 2 => s.cgClose c k
    | 3 => s.cgAbort c k
    | _ => s.refuseWrite a
  | _ => s.refuseWrite a

def State.commitPwr (s : State) (m : Master) (a : Nat) (v : Word) (i : RegInfo) : State :=
  let o := a % 0x10000
  if o = 0x10 then s.pwrRequest m v
  else if o = 0x200 then (if s.anySession then s.refuseWrite a else s.clkForce v)
  else if o = 0x8000 then (if 5 ≤ field v 0 3 then s.refuseWrite a else (s.storeReg a v i).gmaxRecompute)
  else if 0x8100 ≤ o then s.cgCommand m (Fin.ofNat 4 ((o - 0x8100) / 0x20)) a v
  else s.storeReg a v i

/-- The effect of a commit whose reserved bits are 0 in `v`; `raw` has them as committed. -/
def State.commitEffect (s : State) (buffered : Bool) (m : Master) (a : Nat) (raw v : Word) (i : RegInfo) : State :=
  match a / 0x10000 with
  | 0x0400 =>
    let s := s.storeReg a v i
    if a = Reg.sysStat ∧ bit v 8 then { s with berrCnt := 0 } else s
  | 0x0401 => s.commitPwr m a v i
  | 0x0402 => s.commitLcc buffered m a v i
  | 0x0403 => s.commitXlt m a raw v i
  | 0x0404 => s.commitCe a v i
  | 0x0405 => s.commitCnv m a v i
  | 0x0406 => s.commitMesh m a raw v i
  | 0x0407 => s.commitCon m a v i
  | 0x0408 => s.commitIic a v i
  | 0x0409 => s.commitPio m a v i
  | 0x040A => s.commitTmb m a raw v i
  | 0x040B => s.commitWmb a v i
  | 0x040C => s.commitIrq m a v i
  | 0x040D => s.commitTmr m a v i
  | _ => if a = Reg.qspiOp then s.qspiOp m v else s.storeReg a v i

/-- Wellhead logs a write that an expert register has accepted (R29; the record's layout is log 8). -/
def State.expertLog (s : State) (a : Nat) (v : Word) : State :=
  s.hlog 0x0742 sevNotice (regUnit a) ([0xFF, 0] ++ beBytes 4 a ++ beBytes 4 v.toNat)

/-- Whether an expert register accepts the value: the conditions of R138, R179, R226, R379, R414, R486, R594, R646 and R94. -/
def State.expertAccepts (s : State) (m : Master) (a : Nat) (v : Word) : Bool :=
  let b := a / 0x10000
  let o := a % 0x1000
  if b = 0x0401 then !s.anySession
  else if b = 0x0402 then decide (4 ≤ field v 0 6 ∧ field v 0 6 ≤ 28)
  else if b = 0x0404 ∧ o = 0x204 then
    let c := s.chan (Fin.ofNat 8 (a % 0x10000 / 0x1000))
    decide (field v 16 7 ≤ 103 ∧ c.legal = .out ∧ c.sess = .none)
  else if b = 0x0405 then !s.groupInSession (Fin.ofNat 2 (a % 0x10000 / 0x1000))
  else if b = 0x0406 ∧ o = 0x204 then decide (512 ≤ field v 0 16 ∧ field v 0 16 ≤ 8192)
  else if b = 0x0406 ∧ o = 0x208 then
    let p : Port := Fin.ofNat 4 (a % 0x10000 / 0x1000)
    !s.usdEn p && decide ((s.port p).state = .dry)
  else if b = 0x040A then (match m with | .lc _ _ _ => true | _ => false)
  else if b = 0x040C then decide (field v 0 6 < 48)
  else true

/-- What a COMMIT of `raw` by master `m` to the register at aligned address `a` does (R29, R37, R43, R50). -/
def State.commitReg (s : State) (buffered : Bool) (m : Master) (a : Nat) (raw : Word) : State :=
  if ¬ s.answers m a then s
  else match regInfo a with
  | none => s.refuseWrite a
  | some i =>
    if i.expert ∧ ¬ bit (s.reg (ctrlOf a)) 31 then s.refuseWrite a
    else
      let v := raw &&& ~~~ i.reserved
      let s := if raw &&& i.reserved ≠ 0 then s.refuseWrite a else s
      let s := if m ≠ .tarn ∧ i.tso ≠ 0 ∧ (raw &&& i.tso ≠ 0 ∨ regView s m a &&& i.tso ≠ 0) then s.setBits (statOf a) 0x40000000 else s
      if i.expert ∧ s.expertAccepts m a v then (s.commitEffect buffered m a raw v i).expertLog a v
      else
        let s := s.commitEffect buffered m a raw v i
        if m = .tarn ∧ i.tso ≠ 0 ∧ a / 0x10000 ≠ 0x040D then s.setReg a ((s.reg a &&& ~~~ i.tso) ||| (raw &&& i.tso)) else s

/-- A COMMIT of `raw` by master `m` to the register at aligned address `a`, with the interrupt lines that it may take away (R200, R418).
`buffered` marks a ledger core's store that drains. -/
def State.commitWord (s : State) (buffered : Bool) (m : Master) (a : Nat) (raw : Word) : State :=
  s.lineEvent fun s => s.commitReg buffered m a raw

end Sys2Proof.Machine
end

