-- ==== Sys2Proof/Machine/Bus.lean ====
section
/-! DEFINITION. Register access as the masters make it: rights, widths, the byte snapshot and the staging holder (R22, R30 to R42), and
the commands that are one commit or one read of a register. -/

namespace Sys2Proof.Machine

/-! ### Rights (Table 2.2) -/

/-- Whether a master may read a region (Table 2.2). -/
def mayRead (m : Master) (r : Region) : Bool :=
  match m, r with
  | _, .unmapped => false
  | _, .ctlStore => false
  | _, .dev => true
  | .lc _ _ _, _ => true
  | .ce _, .tarnWin => true
  | .ce _, _ => false
  | .tarn, .sram => false
  | .tarn, .tarnWin => false
  | _, _ => true

/-- The device registers that a channel engine may write: its own window, its converter's, PIO and TMR. -/
def ceMayWrite (n : Chan) (a : Nat) : Bool :=
  decide (a / 0x1000 = Reg.ce n.val / 0x1000 ∨ a / 0x1000 = Reg.cnv (cnvOf n).val / 0x1000 ∨ a / 0x10000 = 0x0409 ∨ a / 0x10000 = 0x040D)

/-- The registers of a converter that R154 names: CNV_CTRL, TRIG, TDAC, SURGE, SLOW and the sequence entries. -/
def setupOffset (o : Nat) : Bool := decide (o = 0 ∨ o = 0x14 ∨ o = 0x18 ∨ o = 0x1C ∨ o = 0x30 ∨ (0x40 ≤ o ∧ o < 0x80))

/-- The device registers that Tarn may write: TO and SO fields, TMB, the converters' registers of R154 and PIO_QCFGn. -/
def tarnMayWrite (a : Nat) : Bool :=
  decide (a / 0x10000 = 0x040A ∨ (0x04050000 ≤ a ∧ a < 0x04052000 ∧ setupOffset (a / 4 * 4 % 0x1000)) ∨ (0x04090100 ≤ a ∧ a < 0x04090120)) ||
    (match regInfo (a / 4 * 4) with | some i => decide (i.tso ≠ 0) | none => false)

/-- Whether a master may write an address (Table 2.2). -/
def mayWrite (m : Master) (a : Nat) : Bool :=
  match m, region a with
  | .lc _ _ _, r => decide (r = .sram ∨ r = .nvla ∨ r = .dev)
  | .ce n, .dev => ceMayWrite n a
  | .wellhead, r => decide (r = .image ∨ r = .hlog ∨ r = .dev)
  | .tarn, .dev => tarnMayWrite a
  | .test, r => decide (r = .sram ∨ r = .dev)
  | _, _ => false

/-- Whether an access has a width and alignment that R30 and R31 allow on a device register. -/
def widthOk (m : Master) (a : Nat) (w : Width) : Bool :=
  match m, w with
  | .lc _ _ _, .byte => true
  | .lc _ _ _, .half => decide (a % 2 = 0)
  | .test, .byte => true
  | .test, .half => decide (a % 2 = 0)
  | .lc _ _ _, .word => false
  | .test, .word => false
  | _, .word => decide (a % 4 = 0)
  | _, _ => false

/-- The kind of bus error that a read gives, if any (R42); the flash beyond its density or silent is unmapped (R703, R727). -/
def State.readError (s : State) (m : Master) (a : Nat) (w : Width) : Option Nat :=
  match region a with
  | .unmapped => some 0
  | .ctlStore => some 2
  | .dev => if widthOk m a w then none else some 4
  | .qspi => if ¬ mayRead m .qspi then some 3 else if qspiBad s a then some 0 else none
  | r => if mayRead m r then none else some 3

/-- Whether an engine's control-store window is in Tarn's load mode (Table 2.2). -/
def State.loadMode (s : State) (a : Nat) : Bool := decide ((s.eng (Fin.ofNat 8 ((a - 0x06000000) / 0x6800))).runst = .load)

/-- The kind of bus error that a write gives, if any (R42). -/
def State.writeError (s : State) (m : Master) (a : Nat) (w : Width) : Option Nat :=
  match region a with
  | .unmapped => some 0
  | .tarnWin => some 1
  | .ctlStore => if ¬ s.loadMode a then some 5 else if m = .tarn then none else some 3
  | .dev => if ¬ mayWrite m a then some 3 else if widthOk m a w then none else some 4
  | _ => if mayWrite m a then none else some 3

/-! ### Reads (R32, R33) -/

/-- Whether a read of CON0_RXD by a master other than Wellhead (R691). -/
def hiddenRead (m : Master) (a : Nat) : Bool := decide (a = Reg.conRxd 0 ∧ m ≠ .wellhead)

/-- The live value of a register, with no side effect; 0 at a reserved offset and in a block that does not answer (R43, R50). -/
def State.liveWord (s : State) (m : Master) (a : Nat) : Word :=
  if ¬ s.answers m a ∨ hiddenRead m a then 0
  else match regInfo a with
  | none => 0
  | some _ => regView s m a

/-- The read side effects of a whole register (R32, R760): RC counts clear, a receive FIFO pops, RTC_SEC latches RTC_FRAC. -/
def State.readEffect (s : State) (m : Master) (a : Nat) : State :=
  if ¬ s.answers m a ∨ hiddenRead m a then s
  else if a = Reg.rtcSec then s.modSide fun x => { x with fracLatch := s.rtc.setWidth 16 }
  else if a = Reg.conRxd 0 then s.lineEvent fun s => s.uartPop 0
  else if a = Reg.conRxd 1 then s.lineEvent fun s => s.uartPop 1
  else if a = Reg.iicRdata 0 then s.modIic 0 fun x => { x with rfifo := x.rfifo.drop 1 }
  else if a = Reg.iicRdata 1 then s.modIic 1 fun x => { x with rfifo := x.rfifo.drop 1 }
  else match regInfo a with
  | some i => if i.rc then s.setReg a 0 else s
  | none => s

/-- A read of the whole register; one of storage keys finds a bad entry (R387). -/
def State.readWhole (s : State) (m : Master) (a : Nat) : State × Word := ((s.keyCheck a).readEffect m a, (s.keyCheck a).liveWord m a)

/-- The holder pair of a master: one per context and privilege of a core, one for test access (R31). -/
def holderOf (m : Master) : Fin 65 :=
  match m with
  | .lc c k sup => Fin.ofNat 65 (c.val * 16 + k.val * 2 + b2n sup)
  | _ => 64

/-- The bytes of a register that an access of byte or 16-bit width at `a` carries. -/
def piece (v : Word) (a : Nat) (w : Width) : Half :=
  match w with
  | .byte => (byteOf v (a % 4)).setWidth 16
  | _ => half (byteOf v (a % 4)) (byteOf v (a % 4 + 1))

/-- A byte or 16-bit read by a ledger core or test access (R32, R33). -/
def State.readPiece (s : State) (m : Master) (a : Nat) (w : Width) : State × Half :=
  let base := a / 4 * 4
  let h := s.holders[holderOf m]
  if a % 4 = 0 then
    let (s, v) := s.readWhole m base
    (s.modHolder (holderOf m) fun h => { h with snapAddr := some base, snap := v }, piece v a w)
  else if h.snapAddr = some base then (s, piece h.snap a w)
  else (s.keyCheck base, piece ((s.keyCheck base).liveWord m base) a w)

/-! ### Staged writes and commits (R34 to R36) -/

/-- The capture value (R34): RW, TO and SO fields as they stand, W1C and WO fields 0. -/
def State.captureValue (s : State) (m : Master) (a : Nat) : Word :=
  match regInfo a with
  | none => 0
  | some i => s.liveWord m a &&& (i.rw ||| i.ro ||| i.tso)

/-- An abandoned staging holder sets SABN of its core, or TABN (R36). -/
def State.abandon (s : State) (m : Master) : State :=
  match m with
  | .lc c _ _ => s.setBits Reg.sysStat (BitVec.ofNat 32 (2 ^ c.val))
  | _ => s.setBits Reg.sysStat 0x10

/-- A word with the bytes from `k` replaced. -/
def setPiece (v : Word) (k : Nat) (w : Width) (d : Half) : Word :=
  let put (v : Word) (k : Nat) (b : Byte) : Word :=
    (v &&& ~~~ BitVec.ofNat 32 (0xFF * 2 ^ (8 * k))) ||| BitVec.ofNat 32 (b.toNat * 2 ^ (8 * k))
  match w with
  | .byte => put v k (lowByte d)
  | _ => put (put v k (lowByte d)) (k + 1) (highByte d)

/-- A byte or 16-bit write by a ledger core or test access: captured, replaced, and committed with byte +3 or the 16-bit at +2
(R34 to R36). -/
def State.writePiece (s : State) (buffered : Bool) (m : Master) (a : Nat) (w : Width) (d : Half) : State :=
  let base := a / 4 * 4
  let i := holderOf m
  let h := s.holders[i]
  let s := if h.stageAddr.isSome && decide (h.stageAddr ≠ some base) then s.abandon m else s
  let v := setPiece (if h.stageAddr = some base then h.stage else s.captureValue m base) (a % 4) w d
  if a % 4 + widthBytes w = 4 then
    (s.modHolder i fun h => { h with stageAddr := none, stage := 0, mask := 0 }).commitWord buffered m base v
  else
    let bits : Nibble := BitVec.ofNat 4 ((2 ^ widthBytes w - 1) * 2 ^ (a % 4))
    s.modHolder i fun h => { h with
      stageAddr := some base, stage := v, mask := (if h.stageAddr = some base then h.mask else 0) ||| bits }

/-! ### Debug access (R717, R718) -/

/-- Debug is refused: logged at most once per minute (R718). -/
def State.debugRefused (s : State) : State := s.hlogLim 0x0920 sevNotice 0xFF (minutes 1) []

/-- Whether debug is allowed (R717). -/
def State.debugOn (s : State) : Bool := s.tarn.running && decide (0 < s.tarn.debugLeft)

/-- Whether test access asks while debug is off: Table 2.2 gives it its rights with debug on only. -/
def State.testShut (s : State) (m : Master) : Bool := decide (m = .test) && !s.debugOn

/-! ### The commands of the register file -/

/-- A commit of 32 bits by a master at the bus, or its bus error outside Table 2.2. -/
def State.busCommit (s : State) (m : Master) (a : Nat) (v : Word) : State :=
  if s.testShut m then s.debugRefused
  else if mayWrite m a then s.commitWord false m a v
  else s.busError m a true (match m with | .lc _ _ _ => .byte | .test => .byte | _ => .word) 3 false

/-- SNAPSHOT_READ (R32, R33); a master of R30 reads the whole register. -/
def execSnapshotRead (m : Master) (a : Nat) (w : Width) (s : State) : Host.Outcome State Fault Refusal :=
  if s.testShut m then .next s.debugRefused
  else match s.readError m a w with
  | some kind => .next (s.busError m a false w kind false)
  | none =>
    if region a ≠ .dev then .next s
    else match m with
    | .lc _ _ _ => .next (s.readPiece m a w).1
    | .test => .next (s.readPiece m a w).1
    | _ => .next (s.readWhole m a).1

/-- A byte of a control-store window is written (R129, R133, "Load mode" of spec/04): bytes 0 to 11 of a word are its data, most significant
first, byte 12 its check bits. Check bits that are not those the Basbel generates stand as flips of bits 103 to 96. -/
def EngineSt.putStoreByte (e : EngineSt) (o : Nat) (b : Byte) : EngineSt :=
  let w : BitVec 11 := BitVec.ofNat 11 (o / 13)
  let x := e.word w
  let data := x.data ^^^ x.flips.setWidth 96
  let check : Byte := Config.checkBits x.data ^^^ (x.flips >>> 96).setWidth 8
  let i := o % 13
  let sh := 8 * (11 - i)
  let data' : BitVec 96 := if i = 12 then data else (data &&& ~~~ BitVec.ofNat 96 (0xFF * 2 ^ sh)) ||| BitVec.ofNat 96 (b.toNat * 2 ^ sh)
  let check' : Byte := if i = 12 then b else check
  e.setWord w { data := data', flips := BitVec.ofNat 104 ((check' ^^^ Config.checkBits data').toNat * 2 ^ 96) }

/-- Tarn writes the low bytes of a value from address `a` in a control-store window. -/
def State.storeWrite (s : State) (a : Nat) (w : Width) (v : Word) : State :=
  let o := a - 0x06000000
  s.modEng (Fin.ofNat 8 (o / 0x6800)) fun e =>
    (List.range (widthBytes w)).foldl (fun e i => e.putStoreByte (o % 0x6800 + i) (byteOf v i)) e

/-- A write by a master in one of the widths it has: a register, or the bytes of a memory that it may write. -/
def State.writeAt (s : State) (m : Master) (a : Nat) (w : Width) (v : Word) : State :=
  if s.testShut m then s.debugRefused
  else match s.writeError m a w with
  | some kind => s.busError m a true w kind false
  | none =>
    if region a = .ctlStore then s.storeWrite a w v
    else if region a ≠ .dev then
      match m with
      | .lc _ _ _ => s
      | _ => s.putBytes a ((List.range (widthBytes w)).map (byteOf v))
    else match m with
    | .lc _ _ _ => s.writePiece false m a w (v.setWidth 16)
    | .test => s.writePiece false m a w (v.setWidth 16)
    | _ => s.commitWord false m a v

/-- STAGED_WRITE (R34, R36). -/
def execStagedWrite (m : Master) (a : Nat) (w : Width) (v : Word) (s : State) : Host.Outcome State Fault Refusal :=
  .next (s.writeAt m a w v)

/-- COMMIT (R35, R37, R39). -/
def execCommit (m : Master) (a : Nat) (w : Width) (v : Word) (s : State) : Host.Outcome State Fault Refusal :=
  .next (s.writeAt m a w v)

/-- SYS_STAT_CLEAR (R44). -/
def execSysStatClear (m : Master) (v : Word) (s : State) : Host.Outcome State Fault Refusal := .next (s.busCommit m Reg.sysStat v)
/-- TMB_ACK (R83). -/
def execTmbAck (m : Master) (slot : Slot) (v : Word) (s : State) : Host.Outcome State Fault Refusal :=
  .next (s.busCommit m (Reg.tmbAck slot.val) v)
/-- TMB_XDIAG_WRITE (R94). -/
def execTmbXdiagWrite (m : Master) (v : Word) (s : State) : Host.Outcome State Fault Refusal := .next (s.busCommit m Reg.tmbXdiag v)
/-- CE_HPARAM_WRITE (R142). -/
def execCeHparamWrite (m : Master) (n : Chan) (v : Word) (s : State) : Host.Outcome State Fault Refusal :=
  .next (s.busCommit m (Reg.ceHparam n.val) v)
/-- CE_XINJ_WRITE (R138). -/
def execCeXinjWrite (m : Master) (n : Chan) (v : Word) (s : State) : Host.Outcome State Fault Refusal :=
  .next (s.busCommit m (Reg.ceXinj n.val) v)
/-- CNV_START: the commit of CODE 1h (R156). -/
def execCnvStart (m : Master) (u : Cnv) (s : State) : Host.Outcome State Fault Refusal := .next (s.busCommit m (Reg.cnvCmd u.val) 1)
/-- CALFULL: the commit of CODE 2h (R164). -/
def execCalfull (m : Master) (u : Cnv) (s : State) : Host.Outcome State Fault Refusal := .next (s.busCommit m (Reg.cnvCmd u.val) 2)
/-- CNV_DECLARE_WRITE (R173). -/
def execCnvDeclareWrite (m : Master) (u : Cnv) (v : Word) (s : State) : Host.Outcome State Fault Refusal :=
  .next (s.busCommit m (Reg.cnvDeclare u.val) v)
/-- CNV_XSURGE_WRITE (R179). -/
def execCnvXsurgeWrite (m : Master) (u : Cnv) (v : Word) (s : State) : Host.Outcome State Fault Refusal :=
  .next (s.busCommit m (Reg.cnvXsurge u.val) v)
/-- CTXGO_GO (R202). -/
def execCtxgoGo (m : Master) (c : Core) (mask : Byte) (s : State) : Host.Outcome State Fault Refusal :=
  .next (s.busCommit m (Reg.lccCtxgo c.val) (mask.setWidth 32))
/-- CTXGO_STOP (R202, R230). -/
def execCtxgoStop (m : Master) (c : Core) (mask : Byte) (s : State) : Host.Outcome State Fault Refusal :=
  .next (s.busCommit m (Reg.lccCtxgo c.val) (mask.setWidth 32 <<< 8))
/-- LCC_MODE_WRITE (R219). -/
def execLccModeWrite (m : Master) (c : Core) (v : Word) (s : State) : Host.Outcome State Fault Refusal :=
  .next (s.busCommit m (Reg.lccMode c.val) v)
/-- A commit of LCC_CACHE that has the bit of its command set (R338). -/
def cacheRow (m : Master) (c : Core) (k : Nat) (v : Word) (s : State) : Host.Outcome State Fault Refusal :=
  if bit v k then .next (s.busCommit m (Reg.lccCache c.val) v) else .next s
/-- LCC_CACHE_IINV (R324, R338). -/
def execLccCacheIinv (m : Master) (c : Core) (v : Word) (s : State) : Host.Outcome State Fault Refusal := cacheRow m c 8 v s
/-- LCC_CACHE_DINV (R324, R338). -/
def execLccCacheDinv (m : Master) (c : Core) (v : Word) (s : State) : Host.Outcome State Fault Refusal := cacheRow m c 9 v s
/-- LCC_CACHE_BPINV (R325, R338). -/
def execLccCacheBpinv (m : Master) (c : Core) (v : Word) (s : State) : Host.Outcome State Fault Refusal := cacheRow m c 10 v s
/-- XLT_BDT_WRITE: XLT_BDTB, or the second register XLT_BDTN (R376, R377). -/
def execXltBdtWrite (m : Master) (c : Core) (k : Ctx) (second : Bool) (v : Word) (s : State) : Host.Outcome State Fault Refusal :=
  .next (s.busCommit m (if second then Reg.bdtn c.val k.val else Reg.bdtb c.val k.val) v)
/-- XLT_PBR_WRITE: XLT_PBRi_L, or the second register XLT_PBRi_P (R377). -/
def execXltPbrWrite (m : Master) (c : Core) (k : Ctx) (i : Fin 4) (second : Bool) (v : Word) (s : State) :
    Host.Outcome State Fault Refusal :=
  .next (s.busCommit m (if second then Reg.pbrP c.val k.val i.val else Reg.pbrL c.val k.val i.val) v)
/-- XLT_KEY_CLEAR (R378). -/
def execXltKeyClear (m : Master) (j : Fin 1280) (v : Word) (s : State) : Host.Outcome State Fault Refusal :=
  .next (s.busCommit m (Reg.xltKey j.val) v)
/-- XLT_XDIAG_WRITE (R379). -/
def execXltXdiagWrite (m : Master) (v : Word) (s : State) : Host.Outcome State Fault Refusal := .next (s.busCommit m Reg.xltXdiag v)
/-- IRQ_RSDROP_WRITE (R400). -/
def execIrqRsdropWrite (m : Master) (v : Word) (s : State) : Host.Outcome State Fault Refusal := .next (s.busCommit m Reg.irqRsdrop v)
/-- DOORBELL_SET (R405). -/
def execDoorbellSet (m : Master) (v : Word) (s : State) : Host.Outcome State Fault Refusal := .next (s.busCommit m Reg.irqDbset v)
/-- DOORBELL_CLEAR (R405). -/
def execDoorbellClear (m : Master) (v : Word) (s : State) : Host.Outcome State Fault Refusal := .next (s.busCommit m Reg.irqDb v)
/-- IRQ_LINE_WRITE (R403, R404). -/
def execIrqLineWrite (m : Master) (n : Fin 48) (v : Word) (s : State) : Host.Outcome State Fault Refusal :=
  .next (s.busCommit m (Reg.irqLine n.val) v)
/-- IRQ_XFORCE_WRITE (R414). -/
def execIrqXforceWrite (m : Master) (v : Word) (s : State) : Host.Outcome State Fault Refusal := .next (s.busCommit m Reg.irqXforce v)
/-- NVL_CTRL_WRITE (R440). -/
def execNvlCtrlWrite (m : Master) (v : Word) (s : State) : Host.Outcome State Fault Refusal := .next (s.busCommit m Reg.nvlCtrl v)
/-- USD_RETRAIN: the commit of RETRAIN with the port's other bits as they stand (R484). -/
def execUsdRetrain (m : Master) (p : Port) (s : State) : Host.Outcome State Fault Refusal :=
  .next (s.busCommit m (Reg.usdCtrl p.val) (s.reg (Reg.usdCtrl p.val) ||| 0x20))
/-- USD_EN_WRITE (R484). -/
def execUsdEnWrite (m : Master) (p : Port) (v : Word) (s : State) : Host.Outcome State Fault Refusal :=
  .next (s.busCommit m (Reg.usdCtrl p.val) v)
/-- USD_XTEST_WRITE (R486). -/
def execUsdXtestWrite (m : Master) (p : Port) (v : Word) (s : State) : Host.Outcome State Fault Refusal :=
  .next (s.busCommit m (Reg.usdXtest p.val) v)
/-- RT_NODE_WRITE (R495, R496). -/
def execRtNodeWrite (m : Master) (v : Word) (s : State) : Host.Outcome State Fault Refusal := .next (s.busCommit m Reg.rtNode v)
/-- RT_ROUTE_WRITE (R498). -/
def execRtRouteWrite (m : Master) (i : Fin 512) (v : Word) (s : State) : Host.Outcome State Fault Refusal :=
  .next (s.busCommit m (Reg.rtRoute i.val) v)
/-- APP_PUT (R592, R593). -/
def execAppPut (m : Master) (v : Word) (s : State) : Host.Outcome State Fault Refusal := .next (s.busCommit m Reg.wmbAput v)
/-- WMB_XPIN_WRITE (R594). -/
def execWmbXpinWrite (m : Master) (v : Word) (s : State) : Host.Outcome State Fault Refusal := .next (s.busCommit m Reg.wmbXpin v)
/-- PWR_REQUEST: a commit of PWR_REQ with a TARGET other than 0 (R625). -/
def execPwrRequest (m : Master) (v : Word) (s : State) : Host.Outcome State Fault Refusal :=
  if field v 0 3 = 0 then .next s else .next (s.busCommit m Reg.pwrReq v)
/-- PWR_CANCEL: a commit of PWR_REQ with TARGET 0, which outside Surface is Wellhead's wake (R625). -/
def execPwrCancel (m : Master) (v : Word) (s : State) : Host.Outcome State Fault Refusal :=
  if field v 0 3 = 0 then .next (s.busCommit m Reg.pwrReq v) else .next s
/-- CLK_XFORCE_WRITE (R646). -/
def execClkXforceWrite (m : Master) (v : Word) (s : State) : Host.Outcome State Fault Refusal := .next (s.busCommit m Reg.clkXforce v)
/-- UART_TXD_WRITE (R691, R694). -/
def execUartTxdWrite (m : Master) (u : Uart) (v : Word) (s : State) : Host.Outcome State Fault Refusal :=
  .next (s.busCommit m (Reg.conTxd u.val) v)
/-- IIC_XFER (R696, R697). -/
def execIicXfer (m : Master) (i : Iic) (v : Word) (s : State) : Host.Outcome State Fault Refusal :=
  .next (s.busCommit m (Reg.iicXfer i.val) v)
/-- IIC_ABORT: the commit of CMD.ABORT (R698). -/
def execIicAbort (m : Master) (i : Iic) (s : State) : Host.Outcome State Fault Refusal := .next (s.busCommit m (Reg.iicCmd i.val) 1)
/-- IIC_CLEAR: the commit of CMD.CLEAR (R699). -/
def execIicClear (m : Master) (i : Iic) (s : State) : Host.Outcome State Fault Refusal := .next (s.busCommit m (Reg.iicCmd i.val) 2)
/-- IIC_ENABLE: a commit of CFG with EN 1 (R699). -/
def execIicEnable (m : Master) (i : Iic) (v : Word) (s : State) : Host.Outcome State Fault Refusal :=
  if bit v 3 then .next (s.busCommit m (Reg.iicCfg i.val) v) else .next s
/-- IIC_DISABLE: a commit of CFG with EN 0 (R698). -/
def execIicDisable (m : Master) (i : Iic) (v : Word) (s : State) : Host.Outcome State Fault Refusal :=
  if bit v 3 then .next s else .next (s.busCommit m (Reg.iicCfg i.val) v)
/-- IIC_WDATA_WRITE (Table 20.3). -/
def execIicWdataWrite (m : Master) (i : Iic) (v : Word) (s : State) : Host.Outcome State Fault Refusal :=
  .next (s.busCommit m (Reg.iicWdata i.val) v)
/-- IIC_RDATA_READ (Table 20.3). -/
def execIicRdataRead (m : Master) (i : Iic) (s : State) : Host.Outcome State Fault Refusal :=
  execSnapshotRead m (Reg.iicRdata i.val) (match m with | .lc _ _ _ => .half | .test => .half | _ => .word) s
/-- A commit of QSPI_OP whose CODE is that of its command (R704). -/
def qspiRow (code : Nat) (m : Master) (v : Word) (s : State) : Host.Outcome State Fault Refusal :=
  if field v 0 4 = code then .next (s.busCommit m Reg.qspiOp v) else .next s
/-- QSPI_PROGRAM (R704, R705). -/
def execQspiProgram (m : Master) (v : Word) (s : State) : Host.Outcome State Fault Refusal := qspiRow 1 m v s
/-- QSPI_ERASE4K (R704, R705). -/
def execQspiErase4k (m : Master) (v : Word) (s : State) : Host.Outcome State Fault Refusal := qspiRow 2 m v s
/-- QSPI_ERASE64K (R704, R705). -/
def execQspiErase64k (m : Master) (v : Word) (s : State) : Host.Outcome State Fault Refusal := qspiRow 3 m v s
/-- QSPI_READSTAT (R704). -/
def execQspiReadstat (m : Master) (v : Word) (s : State) : Host.Outcome State Fault Refusal := qspiRow 4 m v s
/-- GP_SET (R711). -/
def execGpSet (m : Master) (v : Word) (s : State) : Host.Outcome State Fault Refusal := .next (s.busCommit m Reg.gpSet v)
/-- GP_CLR (R711). -/
def execGpClr (m : Master) (v : Word) (s : State) : Host.Outcome State Fault Refusal := .next (s.busCommit m Reg.gpClr v)
/-- TMR_ENABLE: a commit of TMRt_CFG (R762). -/
def execTmrEnable (m : Master) (t : Fin 2) (v : Word) (s : State) : Host.Outcome State Fault Refusal :=
  .next (s.busCommit m (Reg.tmrCfg t.val) v)

end Sys2Proof.Machine
end

