-- ==== Sys2Proof/Machine/Drain.lean ====
section
/-! DEFINITION. Store-buffer entries that drain (R316 to R320, R347, R348) and debug access through the TAP (R717 to R719). -/

namespace Sys2Proof.Machine

/-! ### Draining -/

/-- The first byte of a word that a mask names. -/
def maskLow (mask : Byte) : Nat := ((List.range 8).find? fun i => mask.getLsbD i).getD 0

/-- The width of a side-effect store: byte, or 16 bits. -/
def maskWidth (mask : Byte) : Width := if mask.getLsbD (maskLow mask + 1) then .half else .byte

/-- The stores of an entry by the context that made them, oldest first: bytes that a later one has replaced are its own (log 27). -/
def StoreEntry.parts (e : StoreEntry) : List (Ctx × Byte) :=
  let later := e.merged.foldl (fun m p => m ||| p.2) 0
  let own (l : List (Ctx × Byte)) : List (Ctx × Byte) :=
    (l.foldr (fun p (r : List (Ctx × Byte) × Byte) => ((p.1, p.2 &&& ~~~r.2) :: r.1, r.2 ||| p.2)) ([], 0)).1
  ((e.ctx, e.mask &&& ~~~later) :: own e.merged).filter fun p => decide (p.2 ≠ 0)

/-- Whether an entry holds a store of a context. -/
def StoreEntry.isOf (e : StoreEntry) (k : Ctx) : Bool := decide (e.ctx = k) || e.merged.any fun p => decide (p.1 = k)

/-- A store of a context drains to the NVLA; the core's cache lines follow it unless a group takes it (R320, R429). -/
def State.nvDrain (s : State) (c : Core) (k : Ctx) (word : Nat) (mask : Byte) (data : BitVec 64) : State :=
  let g := s.grouped c k word
  let s := s.nvStore c k word mask data
  if g then s else s.modCore c fun x => x.storeHits word mask data

/-- What an entry writes where it drains: the key table (R371), a device register in one access (R24), the NVLA with its commit group
(R428), ledger SRAM. -/
def State.writeEntry (s : State) (c : Core) (e : StoreEntry) : State :=
  match e.key with
  | some (f, v) => { s with keyBad := s.keyBad.filter fun g => decide (g ≠ f) }.setKeyEntry f v
  | none =>
    let a := e.word * 8
    match region a with
    | .dev =>
      let k := maskLow e.mask
      s.writePiece true (.lc c e.ctx e.sup) (a + k) (maskWidth e.mask) (half (wordByte e.data k) (wordByte e.data (k + 1)))
    | .nvla => e.parts.foldl (fun s p => s.nvDrain c p.1 e.word p.2 e.data) s
    | _ => (s.writeMasked e.word e.mask e.data).modCore c fun x => x.storeHits e.word e.mask e.data

/-- The oldest entry of a core leaves its buffer and is written. -/
def State.drainOldest (s : State) (c : Core) : State :=
  match (s.core c).buf with
  | [] => s
  | e :: rest => (s.modCore c fun x => { x with buf := rest }).writeEntry c e

/-- The whole buffer drains, oldest first (Table 19.6, step 6). -/
def State.drainAll (s : State) (c : Core) : State := s.each (s.core c).buf fun s _ => s.drainOldest c

/-- A core reset completes the entry that drains and discards the others (R348): the oldest one has begun. -/
def State.bufferReset (s : State) (c : Core) : State := (s.drainOldest c).modCore c fun x => { x with buf := [] }

/-- Whether an entry holds a store that its core's group takes. -/
def State.entryGrouped (s : State) (c : Core) (e : StoreEntry) : Bool :=
  e.key.isNone && e.parts.any fun p => s.grouped c p.1 e.word

/-- A grouped drain whose journal write fails verification (R449), and an ungrouped one whose array word fails it twice (R441). -/
def State.drainFails (s : State) (c : Core) (e : StoreEntry) : State :=
  let joins := s.entryGrouped c e
  let plain := e.parts.any fun p => !s.grouped c p.1 e.word
  let s := s.drainOldest c
  let s := if plain then s.startRemap (nvBlock (e.word * 8)) 1 else s
  if joins ∧ s.nvla.groups[c].state = .open then s.journalFault c else s

/-- What a drain has written is found in error at its next read (log 81). -/
def State.spoil (s : State) (e : StoreEntry) (double : Bool) : State :=
  match e.key with
  | some (f, _) => if double then { s with keyBad := f :: s.keyBad } else s
  | none =>
    match region (e.word * 8) with
    | .sram =>
      if double then { s with sramHard := ([0, 1].filter fun i => decide (field e.mask (4 * i) 4 ≠ 0)).map (e.word * 2 + ·) ++ s.sramHard }
      else s
    | .nvla =>
      if double then s.modNvla fun n => { n with hard := e.word :: n.hard } else s.modNvla fun n => { n with soft := e.word :: n.soft }
    | _ => s

/-- STORE_BUFFER_DRAIN: the oldest entry. A grouped store waits while a closing does (R433). A double-bit error halts the core and the entry
is not written (R347); on a core that has halted already (R409) it is recorded as the halt that it would have been. -/
def execStoreBufferDrain (c : Core) (err : DrainError) (s : State) : Host.Outcome State Fault Refusal :=
  match (s.core c).buf with
  | [] => .next s
  | e :: rest =>
    if err ≠ .double ∧ s.nvla.closing ≠ [] ∧ s.entryGrouped c e then .next s
    else match err with
    | .double =>
      let s := s.modCore c fun x => { x with buf := rest }
      .next (if (s.core c).core = .halted then (s.modCore c fun x => { x with hcause := 0x80 }).haltNoted c 0x80 else s.coreHalt c 0x80)
    | .verifyTwice => .next (if e.key = none ∧ region (e.word * 8) = .nvla then s.drainFails c e else s.drainOldest c)
    | .spoils double => .next ((s.drainOldest c).spoil e double)
    | .healthSlot => .next ((s.drainOldest c).modNvla fun n => { n with logFails := true })
    | _ => .next (s.drainOldest c)

/-! ### Debug access -/

/-- STATUS of DBGACC (R719). -/
def State.dbgEnd (s : State) (status : BitVec 2) (data : Half) : State := s.modSide fun x => { x with dbgStatus := status, dbgData := data }

/-- What the data register captures that the TAP's instruction selects (Table 20.7, R718, R719): IDCODE, the status and data of DBGACC, 0 in
bypass, in DBGHALT and while debug is not allowed; none for the boundary register, whose cells the spec does not list (log 76). -/
def State.tapCapture (s : State) : Option (BitVec 66) :=
  match s.side.tap.toNat with
  | 0 => none
  | 1 => none
  | 2 => some 0x1B80854B
  | 0x80 => some (if s.debugOn then BitVec.ofNat 66 (s.side.dbgStatus.toNat * 2 ^ 64 + s.side.dbgData.toNat * 2 ^ 16) else 0)
  | _ => some 0

/-- A read of the NVLA that meets an error is logged (R449). -/
def State.nvReadCheck (s : State) (a : Nat) : State :=
  if region a ≠ .sram ∧ s.eccBad a then s.nvUncorrectable a else s.nvSoftRead a

/-- A read by test access through its holder pair (R718, Table 2.2). -/
def State.testRead (s : State) (a : Nat) (w : Width) : State :=
  match s.readError .test a w with
  | some kind => (s.busError .test a false w kind false).dbgEnd 2 0
  | none =>
    if region a = .dev then
      let (s, d) := s.readPiece .test a w
      s.dbgEnd 0 d
    else
      let d := half (physByte s .test a) (if w = .half then physByte s .test (a + 1) else 0)
      (s.nvReadCheck a).dbgEnd 0 d

/-- A write by test access. -/
def State.testWrite (s : State) (a : Nat) (w : Width) (d : Half) : State :=
  match s.writeError .test a w with
  | some kind => (s.busError .test a true w kind false).dbgEnd 2 0
  | none =>
    if region a = .dev then (s.writePiece false .test a w d).dbgEnd 0 0
    else (s.putBytes a (if w = .half then [lowByte d, highByte d] else [lowByte d])).dbgEnd 0 0

/-- The width that SIZE names. -/
def dbgWidth (isHalf : Bool) : Width := if isHalf then .half else .byte

/-- DBGACC_POLL: the register is captured again; nothing starts (R719). -/
def execDbgaccPoll (s : State) : Host.Outcome State Fault Refusal := .next (if s.debugOn then s else s.debugRefused)

/-- DBGACC_READ (R718, R719). -/
def execDbgaccRead (a : Word) (half : Bool) (low : BitVec 15) (s : State) : Host.Outcome State Fault Refusal :=
  if ¬ s.debugOn then .next s.debugRefused
  else if low ≠ 0 then .next (s.dbgEnd 3 0)
  else .next (s.testRead a.toNat (dbgWidth half))

/-- DBGACC_WRITE (R718, R719). -/
def execDbgaccWrite (a : Word) (data : Half) (half : Bool) (low : BitVec 15) (s : State) : Host.Outcome State Fault Refusal :=
  if ¬ s.debugOn then .next s.debugRefused
  else if low ≠ 0 then .next (s.dbgEnd 3 0)
  else .next (s.testWrite a.toNat (dbgWidth half) data)

/-- DBGACC_RESERVED: a reserved OP returns refused and starts nothing (R719). -/
def execDbgaccReserved (s : State) : Host.Outcome State Fault Refusal :=
  .next (if s.debugOn then s.dbgEnd 3 0 else s.debugRefused)

/-- DBGHALT halts a released core with HCAUSE 01h (R718). -/
def execDbghalt (c : Core) (halt : Bool) (s : State) : Host.Outcome State Fault Refusal :=
  if ¬ s.debugOn then .next s.debugRefused
  else .next (if halt ∧ (s.core c).core = .run then s.coreHalt c 1 else s)

end Sys2Proof.Machine
end

