-- ==== Sys2Proof/Machine/Pair.lean ====
section
/-! DEFINITION. Pairs of instructions in fast mode (R327 to R330): what the conditions of R327 look at, and whether a core stands between
the two instructions of a pair. -/

namespace Sys2Proof.Machine

/-- Whether a fast-mode feature is on: bit i of LCC_CACHE as the core uses it (R337). -/
def State.fastOn (s : State) (c : Core) (i : Nat) : Bool := !(s.core c).det && bit (effReg s c (Reg.lccCache c.val)) i

/-- The registers as the load shadow shows them to an A-form instruction (R206, R215). -/
def seenRegs (f : Form) (x : CtxSt) : CtxRegs :=
  match f, x.shadow with
  | .A, some (.a v) => { x.regs with a := v }
  | .A, some (.x v) => { x.regs with x := v }
  | .A, some (.y v) => { x.regs with y := v }
  | _, _ => x.regs

/-- What R327 asks of an A-form instruction: the registers that it reads, writes and loads ([0] A, [1] X, [2] Y, [3] L, [4] DP, [5] CD), its
length, the mode of its data operand (0 for none) and whether it may issue first. -/
structure PairInfo where
  reads : BitVec 6
  writes : BitVec 6
  loads : BitVec 6
  len : Nat
  mode : Nat
  first : Bool
  deriving DecidableEq, Repr

/-- Groups 0 to 15 of Table 7.3: registers read and written. -/
def groupRegs : List (BitVec 6 × BitVec 6) :=
  [(0, 1), (1, 0), (1, 1), (33, 33), (1, 1), (33, 33), (1, 1), (1, 1), (1, 1), (0, 2), (0, 4), (2, 0), (4, 0), (1, 0), (2, 0), (4, 0)]

/-- The cells 80h to 9Dh of Table 7.4: registers read and written. -/
def cellRegs : List (BitVec 6 × BitVec 6) :=
  [(0, 0), (1, 2), (1, 4), (2, 1), (4, 1), (2, 4), (4, 2), (1, 1), (1, 1), (2, 2), (2, 2), (4, 4), (4, 4), (0, 1), (1, 1), (1, 1)] ++
  [(1, 33), (1, 33), (1, 33), (33, 33), (33, 33), (0, 32), (1, 1), (2, 8), (8, 2), (16, 2), (2, 16), (1, 2), (3, 2), (5, 4)]

/-- The registers that an addressing mode reads, and its operand bytes (Table 7.1). -/
def modeRegs (m : Nat) : BitVec 6 := if m = 2 then 2 else if m = 3 then 4 else if m = 4 then 16 else 0
def modeBytes (m : Nat) : Nat := if 1 ≤ m ∧ m ≤ 3 then 2 else 1

/-- What R327 asks of the instruction that bytes spell, where it may be of a pair. -/
def pairInfo (l : List Byte) : Option PairInfo :=
  let b := (l.getD 0 0).toNat
  let g := b / 8
  let m := b % 8
  if b < 0x80 then
    if 5 ≤ m then none
    else
      let (r, w) := groupRegs.getD g (0, 0)
      some { reads := r ||| modeRegs m, writes := w, loads := if g = 0 ∨ g = 9 ∨ g = 10 then w else 0
             len := 1 + modeBytes m + (if 13 ≤ g then 2 else 0), mode := m, first := decide (g < 13) }
  else if b < 0x9E then
    let (r, w) := cellRegs.getD (b - 0x80) (0, 0)
    some { reads := r, writes := w, loads := 0, len := 1, mode := 0, first := true }
  else if b = 0xB5 then some { reads := 0, writes := 0, loads := 0, len := 3, mode := 0, first := false }
  else if b = 0xB6 then some { reads := 2, writes := 2, loads := 0, len := 3, mode := 0, first := false }
  else if b = 0xB7 then some { reads := 4, writes := 4, loads := 0, len := 3, mode := 0, first := false }
  else none

/-- The address of the data operand of such an instruction (Table 7.1). -/
def pairAddr (l : List Byte) (m : Nat) (v : CtxRegs) : Half :=
  let a := half (l.getD 1 0) (l.getD 2 0)
  if m = 1 then a else if m = 2 then a + v.x else if m = 3 then a + v.y else v.dp + (l.getD 1 0).setWidth 16

/-- Whether the data operand lies in a side-effect block or region (R327, condition 5). -/
def State.pairSe (s : State) (c : Core) (k : Ctx) (i : PairInfo) (l : List Byte) (v : CtxRegs) : Bool :=
  let a := pairAddr l i.mode v
  decide (i.mode ≠ 0) && match s.peek c k a false with
    | some b => flagSE b.flags || seRegion (b.phys a.toNat)
    | none => false

/-- The physical address of a byte of code, in an A-form block. -/
def State.codeAt (s : State) (c : Core) (k : Ctx) (a : Half) : Option Nat :=
  match s.peekBlock c k a with
  | some b => if b.isS then none else some (b.phys a.toNat)
  | none => none

/-- The bytes of code from an address, as far as they lie in A-form blocks. -/
def State.codeBytes (s : State) (c : Core) (k : Ctx) (pc : Half) (n : Nat) : List Byte :=
  (List.range n).filterMap fun i => (s.codeAt c k (pc + BitVec.ofNat 16 i)).map fun pa => physByte s (.lc c k true) pa

/-- An instruction that has completed alone, as the first of a pair that may follow. -/
def State.pairHead (s : State) (c : Core) (k : Ctx) (l : List Byte) (pc : Half) (v : CtxRegs) : Option PairHead :=
  match pairInfo l, s.codeAt c k pc, s.codeAt c k (pc + BitVec.ofNat 16 (l.length - 1)) with
  | some i, some a, some b =>
    if i.first && !s.pairSe c k i l v then
      some { writes := i.writes, loads := i.loads, data := decide (i.mode ≠ 0), first := a, last := b }
    else none
  | _, _, _ => none

/-- Whether bytes of code lie wholly in the line buffer, or in one line of the instruction cache (R327, condition 5). -/
def CoreSt.holdsAll (x : CoreSt) (l : List Nat) : Bool :=
  let lines := l.map (· / 32)
  lines.all x.lineBuf.contains || (lines.all (fun n => decide (n = lines.headD 0)) && x.icache.contains (lines.headD 0, false))

/-- Whether an instruction `l` at `pc` issues together with the one before it (R327, R330). -/
def State.pairsWith (s : State) (c : Core) (k : Ctx) (h : PairHead) (l : List Byte) (pc : Half) (v : CtxRegs) : Bool :=
  match pairInfo l with
  | none => false
  | some i =>
    decide (i.len ≤ l.length) && !(h.data && decide (i.mode ≠ 0)) &&
      decide (i.reads &&& h.writes &&& ~~~h.loads = 0 ∧ i.writes &&& h.writes = 0) && !s.pairSe c k i l v &&
      !((s.core c).modeCounts.any fun e => decide (e.1 = 0)) &&
      match s.codeAt c k pc, s.codeAt c k (pc + BitVec.ofNat 16 (i.len - 1)) with
      | some a, some b => (s.core c).holdsAll [h.first, h.last, a, b]
      | _, _ => false

/-- Whether a core stands between the two instructions of a pair, which is no boundary (R328). -/
def State.midPair (s : State) (c : Core) : Bool :=
  match (s.core c).head with
  | none => false
  | some h =>
    let k := (s.core c).cur
    let x := s.ctx c k
    s.fastOn c 3 && decide (x.state = .run) && s.pairsWith c k h (s.codeBytes c k x.regs.pc 5) x.regs.pc (seenRegs .A x)

/-- The end of an instruction: nothing is the first of a pair, and no entry is being taken (R418). -/
def State.unpaired (s : State) (c : Core) : State := s.modCore c fun x => { x with head := none, taking := none }

/-- An instruction has completed at `pc` with the bytes `l` and the registers `v` as it saw them: the second of a pair ends it, another may
be the first of one (R327). -/
def State.issued (s : State) (c : Core) (k : Ctx) (f : Form) (paired : Bool) (l : List Byte) (pc : Half) (v : CtxRegs) : State :=
  if f = .A ∧ ¬ paired ∧ s.fastOn c 3 then s.modCore c fun x => { x with head := s.pairHead c k l pc v, taking := none }
  else s.unpaired c

end Sys2Proof.Machine
end

