-- ==== Sys2Proof/Machine/Run.lean ====
section
/-! DEFINITION. One ledger-core instruction as it runs (spec/06, spec/07, spec/09): fetch, decode, the data accesses with their forwarding
and waits, checkpoints, completion and the entry to a trap. -/

namespace Sys2Proof.Machine

/-! ### The run of an instruction -/

/-- A store that the instruction makes: its bytes from a physical address, or a key entry (R371). -/
structure Put where
  pa : Nat
  data : List Byte
  se : Bool
  key : Option (Nat × Byte) := none

/-- How an instruction ends other than by completing: an exception (`next` when its trap resumes at the next instruction), a wait at an
abandon point (R313), an end at a checkpoint or an abandonment (R299, R302), or a command that the code at PC cannot give. -/
inductive Stop where
  | exc (e : Exc) (next : Bool)
  | wait
  | abandon
  | notHere

/-- An instruction in progress. `seen` is the registers as the load shadow lets it read them (R215), `r` those it leaves, `base` those of
its resume point, `passed` a checkpoint behind it; `reads` is the device registers read so far, `puts` the stores and `touched` the frames
since the last checkpoint; `counts` says whether it counts for a mode switch (R219), `half` is the source byte of EDT or EDTL of which one
digit is still to be taken at the resume point (R306). -/
structure Run where
  st : State
  c : Core
  k : Ctx
  form : Form
  seen : CtxRegs
  r : CtxRegs
  base : CtxRegs
  stack : List RsEntry
  stopAt : Option Nat
  passed : Bool := false
  bytes : List Byte := []
  reads : List (Nat × Width) := []
  puts : List Put := []
  touched : List (Nat × Bool) := []
  locked : List Nat := []
  shadow : Option Shadow := none
  counts : Bool := true
  half : Option Byte := none

/-- A step of an instruction. -/
abbrev Op := EStateM Stop Run

/-- The master that the instruction is. -/
def Run.master (r : Run) : Master := .lc r.c r.k (r.base.ctx.getLsbD 15)

/-- Whether the context is in user state. -/
def Run.user (r : Run) : Bool := !r.base.ctx.getLsbD 15

/-- CTX.PH and CTX.CD of registers, and registers with them changed (Table 6.2). -/
def CtxRegs.ph (r : CtxRegs) : Nat := field r.ctx 4 4
def CtxRegs.cd (r : CtxRegs) : Nat := field r.ctx 0 4
def CtxRegs.withPh (r : CtxRegs) (p : Nat) : CtxRegs := { r with ctx := (r.ctx &&& 0xFF0F) ||| BitVec.ofNat 16 (p % 16 * 16) }
def CtxRegs.withCd (r : CtxRegs) (d : Nat) : CtxRegs := { r with ctx := (r.ctx &&& 0xFFF0) ||| BitVec.ofNat 16 (d % 16) }
def CtxRegs.withFs (r : CtxRegs) (f : Bool) : CtxRegs := { r with ctx := (r.ctx &&& 0xFEFF) ||| if f then 0x100 else 0 }

/-- An exception is raised; its trap resumes at the instruction. -/
def raise {α : Type} (e : Exc) : Op α := throw (.exc e false)

/-- EC 01h, 02h or 03h, which capture PC and the bytes fetched (R259, Table 11.1). -/
def decodeFault {α : Type} (ec : Nat) : Op α := fun r => .error (.exc { ec, la := r.base.pc, bytes := r.bytes } false) r

/-- An exception that captures PC only (Table 11.1). -/
def pcFault {α : Type} (ec : Nat) : Op α := fun r => .error (.exc { ec, la := r.base.pc } false) r

/-- An exception that resumes at the next instruction, with its number (R218, R258). -/
def trapNext (ec num : Nat) : Op Unit := fun r => .error (.exc { ec, la := r.base.pc, num } true) r

/-- The registers that the instruction leaves are changed by what it saw. -/
def setRegs (f : CtxRegs → CtxRegs → CtxRegs) : Op Unit := modify fun r => { r with r := f r.seen r.r }

/-- The instruction takes a new CD. -/
def setCd (d : Nat) : Op Unit := setRegs fun _ r => r.withCd d

/-! ### Translation and what every access meets -/

/-- The access of the context itself (R362 to R369). -/
def Run.access (r : Run) (kind : Nat) : Access :=
  { kind, needR := decide (kind = 1), needW := decide (kind = 2), needX := decide (kind = 0), user := r.user,
    guard := r.base.ctx.getLsbD 14, key := BitVec.ofNat 4 (field r.base.ctx 10 4) }

/-- A logical address is translated and checked; the entry it used is locked until the boundary (R359, R373). -/
def translate (a : Half) (acc : Access) : Op (Block × Nat) := fun r =>
  match r.st.xlate r.c r.k a acc r.locked with
  | (s, .error e) => .error (.exc e false) { r with st := s }
  | (s, .ok (b, pa)) => .ok (b, pa) { r with st := s, locked := b.src :: r.locked }

/-- An access has reached the frame of a physical address (R370). -/
def Run.touch (r : Run) (pa : Nat) (write : Bool) : Run :=
  match frameOf pa with | some f => { r with touched := (f, write) :: r.touched } | none => r

/-- A bus error of a read or a fetch is captured and raised as EC 0Ah or 0Bh (R42, Table 11.1). -/
def busFault {α : Type} (la : Half) (pa : Nat) (wr : Bool) (w : Width) (kind : Nat) (fetch : Bool) (accKind : Nat) : Op α := fun r =>
  .error (.exc { ec := if fetch then 0x0B else 0x0A, la, kind := accKind, pa } false)
    { r with st := r.st.busError r.master pa wr w kind fetch }

/-- An uncorrectable memory error (Table 11.1); one of the NVLA is also logged (R449). -/
def eccFault {α : Type} (la : Half) (pa accKind : Nat) : Op α := fun r =>
  .error (.exc { ec := 0x13, la, kind := accKind, pa } false)
    { r with st := if region pa = .sram then r.st else r.st.nvUncorrectable pa }

/-! ### Fetch (R204, R236, R321, R322) -/

/-- A list of lines with two ways per set takes a line, newest first: the least recently used one of its set makes room. -/
def cacheTake {α : Type} (key : α → Nat) (sets : Nat) (l : List α) (e : α) : List α :=
  let l := l.filter fun x => decide (key x ≠ key e)
  let old := (l.filter fun x => decide (key x % sets = key e % sets)).drop 1
  e :: l.filter fun x => !(old.any fun y => decide (key y = key x))

/-- A line fill is asked for, once (R321 to R323). -/
def CoreSt.askFill (x : CoreSt) (f : Fill) : CoreSt := if x.fills.contains f then x else { x with fills := x.fills ++ [f] }

/-- A parity error of a cache line: counted, logged at most once a minute, and the core WORN after 64 in 24 h (R346). -/
def State.cacheParity (s : State) (c : Core) (event : Nat) : State :=
  let times := s.us :: within s.us (hours 24) (s.core c).parityTimes
  let s := (s.modCore c fun x => { x with parityTimes := times }).hlogLim event sevNotice c.val (minutes 1) []
  if times.length = 64 then s.healthNotice c.val .worn false event else s

/-- Whether the bytes fetched so far are those of a branch that the predictor follows (R325). -/
def isPredicted (f : Form) (l : List Byte) : Bool :=
  let b := (l.getD 0 0).toNat
  match f with
  | .A => decide ((0x68 ≤ b ∧ b < 0x80) ∨ b = 0xB6 ∨ b = 0xB7) || (decide (b = 0xF1) && decide ((l.getD 1 0).toNat / 8 = 11))
  | .S => decide (0x40 ≤ b ∧ b < 0x60)

/-- The index of the predictor's counter of an instruction (R325). -/
def branchIndex (pc : Half) : Fin 64 := Fin.ofNat 64 (field pc 0 6)

/-- Whether the predictor predicts a branch at `pc` taken: its counter is 10b or 11b (R325). -/
def State.predictsTaken (s : State) (c : Core) (pc : Half) : Bool := s.fastOn c 2 && (s.core c).predictor[branchIndex pc].getLsbD 1

/-- The instruction cache and line buffer follow a fetch of the byte at `pa` in block `b`: a hit is the newest of its set, a miss asks
for its line, and entering a line asks the line buffer for the next one of the block, unless the predictor redirects the fetch (R321, R322,
R346). -/
def State.fetchLine (s : State) (c : Core) (b : Block) (pa : Nat) (first redirected : Bool) : State :=
  let line := pa / 32
  let next := line + 1
  let more := decide (next * 32 < b.pbase + b.size) && (first || decide (pa % 32 = 0)) && !redirected
  let reg := region pa
  if ¬ s.fastOn c 0 then s
  else
    let s :=
      if reg = .sram ∨ reg = .nvla ∨ reg = .rom then
        match (s.core c).icache.find? fun e => decide (e.1 = line) with
        | some (_, false) => s.modCore c fun x => { x with icache := cacheTake (·.1) 128 x.icache (line, false) }
        | some (_, true) =>
          (s.cacheParity c 0x0120).modCore c fun x =>
            { x with icache := x.icache.filter fun e => decide (e.1 ≠ line) }.askFill (.icache line)
        | none => s.modCore c fun x => x.askFill (.icache line)
      else if reg = .qspi ∧ ¬ (s.core c).lineBuf.contains line then s.modCore c fun x => x.askFill (.lineBuf line)
      else s
    if more ∧ ¬ (s.core c).lineBuf.contains next then s.modCore c fun x => x.askFill (.lineBuf next) else s

/-- EC 06h for an instruction that goes on in a block of the other form (R204). -/
def formFault (b : Block) (a : Half) : Exc := { ec := 6, la := a, kind := 0, src := b.src, chk := 6 }

/-- The form of a byte of code against the instruction's: the first byte's block decides which command the core can execute, a later
byte's raises EC 06h (R204). -/
def checkForm (b : Block) (a : Half) : Op Unit := fun r =>
  if b.isS = decide (r.form = .S) then .ok () r
  else if r.bytes.isEmpty then .error .notHere r
  else .error (.exc (formFault b a) false) r

/-- A fetch is translated with its checks; the form crossing stands with the other EC 06h checks, before the key (Table 11.3). -/
def translateFetch (a : Half) : Op (Block × Nat) := fun r =>
  match translate a (r.access 0) r with
  | .ok x r' => .ok x r'
  | .error (.exc e n) r' =>
    match (if e.ec = 8 ∧ ¬ r.bytes.isEmpty then r'.st.peekBlock r.c r.k a else none) with
    | some b => if b.isS = decide (r.form = .S) then .error (.exc e n) r' else .error (.exc (formFault b a) false) r'
    | none => .error (.exc e n) r'
  | .error e r' => .error e r'

/-- The byte at PC + i is fetched with all its checks and then decoded: `bad` is the exception that the byte reveals (R236). Bytes past
FFFFh raise EC 05h (R194). -/
def fetchByte (b : Byte) (bad : Option Nat) : Op Unit := do
  let r ← get
  let n := r.base.pc.toNat + r.bytes.length
  let a : Half := BitVec.ofNat 16 n
  if 65536 ≤ n then raise { ec := 5, la := a }
  let (blk, pa) ← translateFetch a
  checkForm blk a
  match coreFetchBad r.st pa with
  | some kind => busFault a pa false .byte kind true 0
  | none => pure ()
  if r.st.eccBad pa then eccFault a pa 0
  modify fun r =>
    let r := r.touch pa false
    { r with
      st := (r.st.nvSoftRead pa).fetchLine r.c blk pa r.bytes.isEmpty
        (isPredicted r.form (r.bytes ++ [b]) && r.st.predictsTaken r.c r.base.pc)
      bytes := r.bytes ++ [b]
      r := { r.r with pc := r.base.pc + BitVec.ofNat 16 (r.bytes.length + 1) } }
  match bad with
  | some ec => decodeFault ec
  | none => pure ()

/-- Bytes with nothing to reveal. -/
def fetchBytes : List Byte → Op Unit
  | [] => pure ()
  | b :: t => do fetchByte b none; fetchBytes t

/-- The two bytes of a 16-bit operand (R235). -/
def fetchHalf (v : Half) : Op Unit := fetchBytes [lowByte v, highByte v]

/-- A branch word: its high byte reveals a condition that is not allowed (R241). -/
def fetchBranch (bw : Half) (ok : Nat → Bool) : Op Unit := do
  fetchByte (lowByte bw) none
  fetchByte (highByte bw) (if ok (branchCond bw) then none else some 2)

/-- The conditions of Table 7.2. -/
def anyCond (cc : Nat) : Bool := decide (cc < 12)

/-- The byte that completes an opcode. EC 03h comes before EC 02h; a phase that is not valid for the instruction raises EC 02h (R198,
R236, R300). -/
def fetchOpcode (b : Byte) (priv bad : Bool) (phOk : Nat → Bool) : Op Unit := do
  let r ← get
  fetchByte b (if priv && r.user then some 3 else if bad || !phOk r.base.ph then some 2 else none)

/-- A phase of an instruction that is not interruptible. -/
def noPhase (ph : Nat) : Bool := decide (ph = 0)

/-- The opcode of an instruction that is not privileged and not interruptible. -/
def opcode (b : Byte) (bad : Bool := false) : Op Unit := fetchOpcode b false bad noPhase

/-! ### Reading (R26, R32, R319, R323) -/

/-- How a load meets the store buffer (Table 9.3). -/
inductive Forward where
  | none | wait | hit (e : StoreEntry)

/-- The newest entry that holds a byte of a load of `n` bytes decides (Table 9.3). -/
def forward (buf : List StoreEntry) (a n : Nat) : Forward :=
  match buf.reverse.find? fun e =>
    e.key.isNone && decide (e.word = a / 8) && (List.range n).any fun i => e.mask.getLsbD (a % 8 + i) with
  | Option.none => .none
  | some e => if (List.range n).all fun i => e.mask.getLsbD (a % 8 + i) then .hit e else .wait

/-- The byte that a store of the same instruction, since its last checkpoint, has put at an address. -/
def putByte (ps : List Put) (a : Nat) : Option Byte :=
  ps.foldl (fun b p => if p.key.isNone && decide (p.pa ≤ a) && decide (a < p.pa + p.data.length) then p.data[a - p.pa]? else b) none

/-- Whether a block's bytes may stand in the data cache (R25, R323). -/
def State.cacheable (s : State) (c : Core) (b : Block) (pa : Nat) : Bool :=
  s.fastOn c 1 && flagP b.flags && decide (region pa = .sram ∨ region pa = .nvla)

/-- The byte of the data cache at an address, where it holds the line. -/
def CoreSt.dcacheByte (x : CoreSt) (a : Nat) : Option Byte :=
  match x.dcache.find? fun d => decide (d.line = a / 32) && !d.bad with
  | some d => d.bytes[a % 32]?
  | none => none

/-- The data cache follows a read: a hit is the newest of its set, a miss asks for its line (R323, R346). -/
def State.dcacheLook (s : State) (c : Core) (b : Block) (pa : Nat) : State :=
  if ¬ s.cacheable c b pa then s
  else match (s.core c).dcache.find? fun d => decide (d.line = pa / 32) with
  | none => s.modCore c fun x => x.askFill (.dcache (pa / 32))
  | some d =>
    if d.bad then
      (s.cacheParity c 0x0121).modCore c fun x =>
        { x with dcache := x.dcache.filter fun e => decide (e.line ≠ d.line) }.askFill (.dcache d.line)
    else s.modCore c fun x => { x with dcache := cacheTake (·.line) 64 x.dcache d }

/-- Where a load takes a byte from: the instruction's own stores, the store buffer (R319), the context's group (R429), the data cache or the
region. -/
def Run.loadByte (r : Run) (b : Block) (a : Nat) : Byte :=
  let cached : Option Byte := if r.st.cacheable r.c b a then (r.st.core r.c).dcacheByte a else none
  let region : Byte := (stagedByte r.st r.c r.k a).getD (cached.getD (physByte r.st r.master a))
  (putByte r.puts a).getD ((bufByte (r.st.core r.c).buf a).getD region)

/-- A load of `n` bytes that lie in one aligned word outside the device registers; what it does not forward it reads, and an error of the
word counts then (R319, R449). -/
def readWord (b : Block) (la : Half) (pa n : Nat) (w : Width) : Op (List Byte) := do
  let r ← get
  match coreReadBad r.st pa with
  | some kind => busFault la pa false w kind false 1
  | none => pure ()
  match forward (r.st.core r.c).buf pa n with
  | .wait => throw .wait
  | .hit _ => modify fun r => r.touch pa false
  | .none =>
    match (List.range n).find? fun i => (stagedByte r.st r.c r.k (pa + i)).isNone && r.st.eccBad (pa + i) with
    | some i => eccFault (la + BitVec.ofNat 16 i) (pa + i) 1
    | none => pure ()
    modify fun r =>
      let r := r.touch pa false
      { r with st := (r.st.nvSoftRead pa).dcacheLook r.c b pa }
  pure ((List.range n).map fun i => r.loadByte b (pa + i))

/-- The registers as the reads of this instruction leave them. -/
def Run.afterReads (r : Run) : State := r.reads.foldl (fun s x => (s.readPiece r.master x.1 x.2).1) r.st

/-- Whether the buffer holds an earlier store of the context to the device registers (R26). -/
def Run.devPending (r : Run) : Bool :=
  (r.st.core r.c).buf.any fun e => e.se && e.key.isNone && decide (e.ctx = r.k) && decide (region (e.word * 8) = .dev)

/-- A load from a device register: it waits under R26, and its side effect happens once, when the instruction completes (R367). -/
def readDevice (pa n : Nat) : Op (List Byte) := do
  let r ← get
  if r.devPending then throw .wait
  let w : Width := if n = 2 then .half else .byte
  let (_, d) := r.afterReads.readPiece r.master pa w
  set { r with reads := r.reads ++ [(pa, w)] }
  pure (if n = 2 then [lowByte d, highByte d] else [lowByte d])

/-- A load of one access at a translated address. -/
def readAt (b : Block) (la : Half) (pa n : Nat) (w : Width) : Op (List Byte) :=
  if region pa = .dev then readDevice pa n else readWord b la pa n w

/-- EC 04h of a 16-bit access at an odd address (R193). -/
def checkEven (a : Half) (kind : Nat) : Op Unit := if a.getLsbD 0 then raise { ec := 4, la := a, kind } else pure ()

/-- A place of memory whose access has passed its translation, rights and key: its logical address, block and physical address. -/
structure Loc where
  la : Half
  b : Block
  pa : Nat

/-- CHECK of one access (Table 9.1). -/
def checkAt (a : Half) (acc : Access) : Op Loc := do
  let (b, pa) ← translate a acc
  pure { la := a, b, pa }

/-- READ of a checked place. -/
def loadAt (l : Loc) (n : Nat) (w : Width) : Op (List Byte) := readAt l.b l.la l.pa n w

/-- A byte of memory is read. -/
def read8 (a : Half) : Op Byte := do
  let x ← loadAt (← checkAt a ((← get).access 1)) 1 .byte
  pure (x.getD 0 0)

/-- A 16-bit value of memory is read (R193, R240). -/
def read16 (a : Half) : Op Half := do
  checkEven a 1
  let x ← loadAt (← checkAt a ((← get).access 1)) 2 .half
  pure (half (x.getD 0 0) (x.getD 1 0))

/-! ### Writing (R22, R316) -/

/-- A store to a checked place is checked under Table 2.2. -/
def storeOk (l : Loc) (w : Width) : Op Unit := do
  match (← get).st.writeError (← get).master l.pa w with
  | some kind => busFault l.la l.pa true w kind false 2
  | none => pure ()

/-- A store joins the instruction's stores. -/
def putAt (l : Loc) (data : List Byte) : Op Unit :=
  modify fun r => { r.touch l.pa true with puts := r.puts ++ [{ pa := l.pa, data, se := flagSE l.b.flags || seRegion l.pa }] }

/-- A store to a checked place. -/
def storeAt (l : Loc) (w : Width) (data : List Byte) : Op Unit := do
  storeOk l w
  putAt l data

/-- A byte is stored. -/
def write8 (a : Half) (v : Byte) : Op Unit := do
  storeAt (← checkAt a ((← get).access 2)) .byte [v]

/-- A 16-bit value is stored. -/
def write16 (a v : Half) : Op Unit := do
  checkEven a 2
  storeAt (← checkAt a ((← get).access 2)) .half [lowByte v, highByte v]

/-- A byte is read, changed and stored: the rights of both accesses are checked before the read (R237), and the read is made before the
store (Table 11.3). -/
def modify8 (a : Half) (f : Byte → Byte × Option Nat) : Op Unit := do
  let rd ← checkAt a ((← get).access 1)
  let wr ← checkAt a ((← get).access 2)
  let l ← loadAt rd 1 .byte
  let (v, cd) := f (l.getD 0 0)
  storeAt wr .byte [v]
  match cd with
  | some d => setCd d
  | none => pure ()

/-! ### The data stack (R207) -/

/-- DSLO and DSHI of the context. -/
def Run.dslo (r : Run) : Nat := field (effReg r.st r.c (Reg.kdsl r.c.val r.k.val)) 0 16
def Run.dshi (r : Run) : Nat := field (effReg r.st r.c (Reg.kdsl r.c.val r.k.val)) 16 16

/-- DP after a pop or a push of `n` bytes, or EC 12h (R207). -/
def popTo (dp n : Nat) : Op Nat := do if (← get).dshi < dp + n then pcFault 0x12 else pure (dp + n)
def pushTo (dp n : Nat) : Op Nat := do if dp < (← get).dslo + n then pcFault 0x12 else pure (dp - n)

/-- The accesses to an item of `n` bytes on the stack are checked, byte by byte, low byte first (R193, R207). -/
def checkItem (kind dp : Nat) : Nat → Op (List Loc)
  | 0 => pure []
  | n + 1 => do
    let l ← checkAt (BitVec.ofNat 16 dp) ((← get).access kind)
    let t ← checkItem kind (dp + 1) n
    pure (l :: t)

/-- A checked item is read. -/
def readItem : List Loc → Op Nat
  | [] => pure 0
  | l :: t => do
    let b ← loadAt l 1 .byte
    let h ← readItem t
    pure ((b.getD 0 0).toNat + 256 * h)

/-- A checked item is stored. -/
def writeItem (v : Nat) : List Loc → Op Unit
  | [] => pure ()
  | l :: t => do
    storeAt l .byte [BitVec.ofNat 8 v]
    writeItem (v / 256) t

/-! ### Stores enter the buffer (R316 to R318) -/

/-- The bytes of a list from address `a` as an entry of the word of `a`: mask and data of as many as the word takes. -/
def packWord (a : Nat) (data : List Byte) : Byte × BitVec 64 :=
  let l := List.replicate (a % 8) 0 ++ data.take (8 - a % 8)
  (BitVec.ofNat 8 (2 ^ l.length - 2 ^ (a % 8)), BitVec.ofNat 64 (leNat l))

/-- The entries of a run of bytes, one for each aligned word. -/
def entriesOf (k : Ctx) (sup se : Bool) : Nat → Nat → List Byte → List StoreEntry
  | 0, _, _ => []
  | n + 1, a, data =>
    if data.isEmpty then []
    else
      let (mask, d) := packWord a data
      { word := a / 8, mask, data := d, se, ctx := k, sup, key := none } :: entriesOf k sup se n (a + (8 - a % 8)) (data.drop (8 - a % 8))

/-- The entries that a store of an instruction needs. -/
def Put.entries (p : Put) (k : Ctx) (sup : Bool) : List StoreEntry :=
  match p.key with
  | some f => [{ word := 0, mask := 0, data := 0, se := true, ctx := k, sup, key := some f }]
  | none => entriesOf k sup p.se (p.data.length + 1) p.pa p.data

/-- A store merges into an entry; one of another context is noted with its mask (log 27). -/
def StoreEntry.merge (t e : StoreEntry) : StoreEntry :=
  { t with
    mask := t.mask ||| e.mask, data := mergeWord t.mask t.data e.mask e.data
    merged := if e.ctx = t.ctx ∧ t.merged = [] then [] else t.merged ++ [(e.ctx, e.mask)] }

/-- A buffer, oldest first, takes an entry: it merges into the newest one under R317; the oldest has begun to drain (log 27). -/
def bufTake (buf : List StoreEntry) (e : StoreEntry) : List StoreEntry :=
  match buf.getLast? with
  | some t =>
    if 1 < buf.length ∧ t.word = e.word ∧ ¬ t.se ∧ ¬ e.se ∧ t.key.isNone then buf.dropLast ++ [t.merge e] else buf ++ [e]
  | none => [e]

/-- The writing core keeps the old entry of a frame that KSET changes until its SYNC (R372). -/
def State.keepKey (s : State) (c : Core) (p : Put) : State :=
  match p.key with
  | some (f, _) =>
    let s := s.keyRepair f
    if (s.core c).oldKeys.any fun e => decide (e.1 = f) then s
    else
      let old := s.keyEntry f
      s.modCore c fun x => { x with oldKeys := (f, old) :: x.oldKeys }
  | none => s

/-- The instruction's stores and device reads take effect, with ACC and MOD of its frames (R370); none when the buffer has no room (R318).
One that needs more entries than the buffer has starts with the buffer empty and drains as it goes. -/
def Run.commitPuts (r : Run) : Option State :=
  let s := r.afterReads
  let buf := (s.core r.c).buf
  let buf' := (r.puts.flatMap fun p => p.entries r.k (!r.user)).foldl bufTake buf
  let s := r.puts.foldl (fun s p => s.keepKey r.c p) (s.modCore r.c fun x => { x with buf := buf' })
  let s := r.touched.foldl (fun s f => s.touchFrame f.1 f.2) s
  if buf'.length ≤ 4 then some s
  else if buf.isEmpty then some ((List.range (buf'.length - 4)).foldl (fun s _ => s.drainOldest r.c) s)
  else none

/-- A checkpoint with phase `ph` (R298): what is done so far stands, and the values that reach a checkpoint come into use (R361). The
command says at which one an interrupt, a switch or a STOP waits (R299). -/
def checkpoint (ph : Nat) (half : Option Byte := none) : Op Unit := fun r =>
  match r.commitPuts with
  | none => .error .wait r
  | some s =>
    let base := { r.r with pc := r.base.pc }.withPh ph
    let r' : Run := { r with
      st := s.boundary r.c false, base, passed := true, reads := [], puts := [], touched := [], locked := [],
      stopAt := r.stopAt.map (· - 1), half }
    if r.stopAt = some 0 then .error .abandon r' else .ok () r'

/-! ### Branches (R325) -/

/-- A two-bit counter moves towards taken or not taken. -/
def stepCounter (v : BitVec 2) (taken : Bool) : BitVec 2 :=
  if taken then (if v = 3 then 3 else v + 1) else (if v = 0 then 0 else v - 1)

/-- The predictor learns the outcome of the branch at `pc`. -/
def State.learn (s : State) (c : Core) (pc : Half) (taken : Bool) : State :=
  if s.fastOn c 2 then
    s.modCore c fun x => { x with predictor := x.predictor.set (branchIndex pc) (stepCounter x.predictor[branchIndex pc] taken) }
  else s

/-- A branch predicted taken redirects fetch: the line buffer is asked for the line of its target (R322, R325). -/
def State.redirect (s : State) (c : Core) (k : Ctx) (target : Half) : State :=
  match s.peekBlock c k target with
  | some b =>
    let line := b.phys target.toNat / 32
    if s.fastOn c 0 ∧ flagX b.flags ∧ ¬ flagSE b.flags ∧ ¬ (s.core c).lineBuf.contains line then s.modCore c fun x => x.askFill (.lineBuf line)
    else s
  | none => s

/-- The predictor follows a branch at `pc` to its outcome: a mispredicted one discards the fetched path (R325). -/
def State.followBranch (s : State) (c : Core) (k : Ctx) (pc target : Half) (taken : Bool) : State :=
  let guess := s.predictsTaken c pc
  let s := if guess then s.redirect c k target else s
  let s := if s.fastOn c 2 ∧ guess ≠ taken then s.modCore c fun x =>
      { x with fills := x.fills.filter fun f => match f with | .lineBuf _ => false | _ => true }
    else s
  s.learn c pc taken

/-- A branch by `disp` from the next instruction when it is taken (R241). -/
def branchIf (taken : Bool) (disp : Half) : Op Unit :=
  if taken then setRegs fun _ r => { r with pc := r.pc + disp } else pure ()

/-- A branch of R325, which the predictor follows. -/
def predicted (taken : Bool) (disp : Half) : Op Unit := do
  modify fun r => { r with st := r.st.followBranch r.c r.k r.base.pc (r.r.pc + disp) taken }
  branchIf taken disp

/-! ### Mode switches (R219, R331) -/

/-- The core takes a mode at its point; a change to fast mode starts cold (R331). -/
def CoreSt.takeMode (x : CoreSt) (det : Bool) : CoreSt :=
  let y := { x with det, lineBuf := [], fills := [] }
  if x.det && !det then { y with icache := [], dcache := [], predictor := Vector.replicate 64 1 } else y

/-- The modes whose count has run out apply, in order (R220). -/
def State.applyModes (s : State) (c : Core) : State :=
  if (s.core c).modeCounts.any fun e => decide (e.1 = 0) then
    s.modCore c fun x =>
      let due := x.modeCounts.filter fun e => decide (e.1 = 0)
      let x := due.foldl (fun x e => x.takeMode e.2) x
      { x with modeCounts := x.modeCounts.filter fun e => decide (e.1 ≠ 0) }
  else s

/-- An instruction completes: every count goes down by one; with its own commit of LCC_MODE it starts one (R219, R330). -/
def State.countModes (s : State) (c : Core) (own : Bool) : State :=
  if own then
    let det := bit ((s.drainAll c).reg (Reg.lccMode c.val)) 0
    s.modCore c fun x => { x with modeCounts := (x.modeCounts.map fun e => (e.1 - 1, e.2)) ++ [(2, det)] }
  else if (s.core c).modeCounts.isEmpty then s
  else s.modCore c fun x => { x with modeCounts := x.modeCounts.map fun e => (e.1 - 1, e.2) }

/-- Whether the instruction's stores commit LCC_MODE of its own core. -/
def Run.setsMode (r : Run) : Bool :=
  r.puts.any fun p => p.key.isNone && decide (p.pa / 4 * 4 = Reg.lccMode r.c.val) && decide (p.pa % 4 + p.data.length = 4)

/-! ### The end of an instruction -/

/-- The context takes the registers of the resume point; a checkpoint behind it has closed the load shadow. -/
def Run.settle (r : Run) : State :=
  r.st.modCtx r.c r.k fun x => { x with regs := r.base, shadow := if r.passed then none else x.shadow }

/-- The instruction waits (R313). -/
def Run.hold (r : Run) : State :=
  r.settle.modCore r.c fun x => { x with held := some { form := r.form, bytes := r.bytes, half := r.half }, taking := none }

/-- The instruction has completed: its stores, registers and return stack take effect together (R228, Table 9.1). -/
def Run.complete (r : Run) : Option State :=
  match r.commitPuts with
  | none => none
  | some s =>
    let regs := r.r.withFs (s.sForm r.c r.k r.r.pc)
    let s := s.modCtx r.c r.k fun x => { x with regs, stack := r.stack, shadow := r.shadow }
    some (if r.counts then s.countModes r.c r.setsMode else s)

/-- The accesses of an instruction that ends in an exception: those that reached a frame set its ACC (R370). -/
def Run.touchReads (r : Run) : Run :=
  { r with st := r.touched.foldl (fun s f => if f.2 then s else s.touchFrame f.1 false) r.st }

/-- The instruction ends in an exception: its trap entry, at its resume point (R237, R395). -/
def Run.trap (r : Run) (e : Exc) (next : Bool) : State :=
  let s := r.touchReads.settle
  if next then (s.takeTrap r.c r.k r.r.pc r.r.ctx e.ec (some e)).countModes r.c false
  else s.takeTrap r.c r.k r.base.pc r.base.ctx e.ec (some e)

/-- The run of an instruction of a form as it starts. -/
def startRun (s : State) (c : Core) (f : Form) (stop : Option Nat) (half : Option Byte := none) : Run :=
  let k := (s.core c).cur
  let x := s.ctx c k
  let regs := x.regs.withFs (decide (f = .S))
  { st := s, c, k, form := f, seen := (seenRegs f { x with regs }), r := regs, base := regs, stack := x.stack, stopAt := stop, half }

/-- An instruction runs to its end. -/
def runOp (c : Core) (f : Form) (stop : Option Nat) (op : Op Unit) (s : State) (half : Option Byte := none) : State :=
  match op (startRun (s.applyModes c) c f stop half) with
  | .ok _ r =>
    match r.complete with
    | some t => t.issued c r.k f (s.midPair c) r.bytes r.base.pc r.seen
    | none => r.hold
  | .error (.exc e next) r => r.trap e next
  | .error .wait r => r.hold
  | .error .abandon r => r.settle.unpaired c
  | .error .notHere _ => s

/-- Whether the core's running context can execute an instruction now: a STOP of it takes the boundary before the next one, but does not
split a pair (R202, R328). -/
def State.canRun (s : State) (c : Core) : Bool :=
  let x := s.ctx c (s.core c).cur
  s.coreActs c && decide (x.state = .run) && (!x.stopReq || s.midPair c)

/-- A command that is an instruction: it runs in the context that the core runs, unless an instruction waits there. -/
def instr (c : Core) (f : Form) (op : Op Unit) (s : State) (stop : Option Nat := none) : Host.Outcome State Fault Refusal :=
  if s.canRun c ∧ (s.core c).held.isNone then .next (runOp c f stop op s) else .next s

end Sys2Proof.Machine
end

