-- ==== Sys2Proof/Machine/Operands.lean ====
section
/-! DEFINITION. The addressing modes of A-form (Table 7.1) and what an instruction reads and writes through them. -/

namespace Sys2Proof.Machine

/-- What an effective address is formed from. -/
inductive Index where
  | zero | x | y | dp
  deriving DecidableEq, Repr

/-- An operand as its mode field, its bytes, its literal value and its index; an immediate has none (Table 7.1). -/
structure Opd where
  mode : Nat
  bytes : List Byte
  val : Half
  index : Option Index
  deriving DecidableEq, Repr

end Sys2Proof.Machine

namespace Sys2Proof

/-- The five modes of the primary map and page F0h; a reserved mode is 101b to 111b. -/
def Operand8.opd : Operand8 → Machine.Opd
  | .imm i => ⟨0, [i], i.setWidth 16, none⟩
  | .abs a => ⟨1, [lowByte a, highByte a], a, some .zero⟩
  | .absX a => ⟨2, [lowByte a, highByte a], a, some .x⟩
  | .absY a => ⟨3, [lowByte a, highByte a], a, some .y⟩
  | .dp d => ⟨4, [d], d.setWidth 16, some .dp⟩
  | .reserved m => ⟨5 + m.val, [], 0, none⟩

/-- The modes of page F1h, whose immediate has sixteen bits (R250). -/
def Operand16.opd : Operand16 → Machine.Opd
  | .imm i => ⟨0, [lowByte i, highByte i], i, none⟩
  | .abs a => ⟨1, [lowByte a, highByte a], a, some .zero⟩
  | .absX a => ⟨2, [lowByte a, highByte a], a, some .x⟩
  | .absY a => ⟨3, [lowByte a, highByte a], a, some .y⟩
  | .dp d => ⟨4, [d], d.setWidth 16, some .dp⟩
  | .reserved m => ⟨5 + m.val, [], 0, none⟩

/-- The operands of INCM, DECM and CLRM (Table 7.4). -/
def OperandAD.opd : OperandAD → Machine.Opd
  | .abs a => ⟨0, [lowByte a, highByte a], a, some .zero⟩
  | .dp d => ⟨2, [d], d.setWidth 16, some .dp⟩

end Sys2Proof

namespace Sys2Proof.Machine

/-- Whether the mode is reserved, or an immediate on an instruction that writes its operand (R239). -/
def Opd.bad (o : Opd) (writes : Bool) : Bool := decide (5 ≤ o.mode) || (writes && o.index.isNone)

/-- The effective address, modulo 1_0000h (R194, Table 7.1). -/
def Opd.ea (o : Opd) (v : CtxRegs) : Option Half :=
  match o.index with
  | none => none
  | some .zero => some o.val
  | some .x => some (o.val + v.x)
  | some .y => some (o.val + v.y)
  | some .dp => some (v.dp + o.val)

/-- The effective address of the instruction's operand, with its registers as the load shadow shows them. -/
def eaOf (o : Opd) : Op (Option Half) := do pure (o.ea (← get).seen)

/-- A primary instruction of group `g` with its operand bytes (R244). -/
def fetchGroup (g : Nat) (o : Opd) (writes : Bool) : Op Unit := do
  opcode (BitVec.ofNat 8 (g * 8 + o.mode)) (o.bad writes)
  fetchBytes o.bytes

/-- An instruction of page F0h or F1h with its operand bytes (R249, R250). -/
def fetchPage (page : Byte) (op : Nat) (o : Opd) (writes : Bool) : Op Unit := do
  fetchByte page none
  opcode (BitVec.ofNat 8 (op * 8 + o.mode)) (o.bad writes)
  fetchBytes o.bytes

/-- The 8-bit value of an operand. -/
def load8 (o : Opd) : Op Byte := do
  match ← eaOf o with
  | some a => read8 a
  | none => pure (lowByte o.val)

/-- The 16-bit value of an operand; an 8-bit immediate is zero-extended (R240). -/
def load16 (o : Opd) : Op Half := do
  match ← eaOf o with
  | some a => read16 a
  | none => pure o.val

/-- A byte is stored to an operand. -/
def store8 (o : Opd) (v : Byte) : Op Unit := do
  match ← eaOf o with
  | some a => write8 a v
  | none => pure ()

/-- A 16-bit value is stored to an operand. -/
def store16 (o : Opd) (v : Half) : Op Unit := do
  match ← eaOf o with
  | some a => write16 a v
  | none => pure ()

/-- A memory operand is changed in place. -/
def change8 (o : Opd) (f : Byte → Byte × Option Nat) : Op Unit := do
  match ← eaOf o with
  | some a => modify8 a f
  | none => pure ()

end Sys2Proof.Machine
end

