-- ==== Sys2Proof/Machine/AForm.lean ====
section
/-! DEFINITION. The A-form instructions of spec/07 that compute: groups 0 to 15, the register cells, the stack cells and pages F0h and
F1h. Each has its operation (its bytes, then what it does) and its meaning. -/

namespace Sys2Proof.Machine

/-! ### Shapes -/

/-- A register instruction: one opcode byte, then new registers from those it sees. -/
def regOp (b : Byte) (f : CtxRegs → CtxRegs → CtxRegs) : Op Unit := do opcode b; setRegs f

/-- A shift or rotate of A: a new A and a new CD. -/
def shiftOp (b : Byte) (f : Byte → Nat → Byte × Nat) : Op Unit := do
  opcode b
  setRegs fun v r => { r with a := (f v.a v.cd).1 }.withCd (f v.a v.cd).2

/-- A group instruction that makes a new A of A and its operand. -/
def accOp (g : Nat) (o : Operand8) (f : Byte → Byte → Byte) : Op Unit := do
  fetchGroup g o.opd false
  let m ← load8 o.opd
  setRegs fun v r => { r with a := f v.a m }

/-- ADDC and SUBB: a new A and CD of A, the operand and CD. -/
def carryOp (g : Nat) (o : Operand8) (f : Byte → Byte → Nat → Byte × Nat) : Op Unit := do
  fetchGroup g o.opd false
  let m ← load8 o.opd
  setRegs fun v r => { r with a := (f v.a m v.cd).1 }.withCd (f v.a m v.cd).2

/-- The load shadow that an instruction leaves behind it: the value that the register held before (R215). -/
def leaveShadow (f : CtxRegs → Shadow) : Op Unit := modify fun r => { r with shadow := some (f r.base) }

/-- A group store of a 16-bit register. -/
def storeOp (g : Nat) (o : Operand8) (f : CtxRegs → Half) : Op Unit := do
  fetchGroup g o.opd true
  store16 o.opd (f (← get).seen)

/-- A compare-and-branch of X or Y with a 16-bit operand (R241). -/
def compareOp (g : Nat) (o : Operand8) (bw : Half) (f : CtxRegs → Half) : Op Unit := do
  fetchGroup g o.opd false
  fetchBranch bw anyCond
  let m ← load16 o.opd
  predicted (condHolds (branchCond bw) (f (← get).seen) m) (branchDisp bw)

/-- A push of a register as an item of `n` bytes (R207). -/
def pushOp (b : Byte) (n : Nat) (f : CtxRegs → Nat) : Op Unit := do
  opcode b
  let v := (← get).seen
  let dp ← pushTo v.dp.toNat n
  writeItem (f v) (← checkItem 2 dp n)
  setRegs fun _ r => { r with dp := BitVec.ofNat 16 dp }

/-- A pop of an item of `n` bytes into a register (R207). -/
def popOp (b : Byte) (n : Nat) (f : CtxRegs → Nat → CtxRegs) : Op Unit := do
  opcode b
  let dp := (← get).seen.dp.toNat
  let dp' ← popTo dp n
  let x ← readItem (← checkItem 1 dp n)
  setRegs fun _ r => f { r with dp := BitVec.ofNat 16 dp' } x

/-- INCM, DECM and CLRM: a byte of memory changed in place (Table 7.4). -/
def memOp (b : Nat) (o : OperandAD) (f : Byte → Byte) : Op Unit := do
  opcode (BitVec.ofNat 8 (b + o.opd.mode))
  fetchBytes o.opd.bytes
  change8 o.opd fun m => (f m, none)

/-- Page F0h ops 0 to 6: a byte of memory and A make a new byte, with CD where the op names it (R249). -/
def pageMemOp (op : Nat) (o : Operand8) (f : Byte → Byte → Nat → Byte × Option Nat) : Op Unit := do
  fetchPage 0xF0 op o.opd true
  let v := (← get).seen
  change8 o.opd fun m => f m v.a v.cd

/-- Page F0h ops 7 and 8. -/
def pageAccOp (op : Nat) (o : Operand8) (f : Byte → Byte → Byte) : Op Unit := do
  fetchPage 0xF0 op o.opd false
  let m ← load8 o.opd
  setRegs fun v r => { r with a := f v.a m }

/-- Page F1h: registers from a 16-bit operand (R250). -/
def pageLoadOp (op : Nat) (o : Operand16) (f : CtxRegs → CtxRegs → Half → CtxRegs) : Op Unit := do
  fetchPage 0xF1 op o.opd false
  let m ← load16 o.opd
  setRegs fun v r => f v r m

/-- Page F1h stores. -/
def pageStoreOp (op : Nat) (o : Operand16) (f : CtxRegs → Half) : Op Unit := do
  fetchPage 0xF1 op o.opd true
  store16 o.opd (f (← get).seen)

/-- The result of a computation with CD as it stands in a store. -/
def withDigit (x : Byte × Nat) : Byte × Option Nat := (x.1, some x.2)

/-! ### Groups 0 to 15 (Table 7.3) -/

/-- LDA: A ← m, with a load shadow (R215, R244). -/
def ldaOp (o : Operand8) : Op Unit :=
  do
    fetchGroup 0 o.opd false
    let m ← load8 o.opd
    setRegs fun _ r => { r with a := m }
    leaveShadow fun v => .a v.a
/-- The meaning of Lda (its operation in the context that runs). -/
def execLda (c : Core) (o : Operand8) (s : State) : Host.Outcome State Fault Refusal := instr c .A (ldaOp o) s
/-- STA: m ← A (R244). -/
def staOp (o : Operand8) : Op Unit :=
  do
    fetchGroup 1 o.opd true
    store8 o.opd (← get).seen.a
/-- The meaning of Sta (its operation in the context that runs). -/
def execSta (c : Core) (o : Operand8) (s : State) : Host.Outcome State Fault Refusal := instr c .A (staOp o) s
/-- ADD: A ← A + m; CD stays (R244, R245). -/
def addOp (o : Operand8) : Op Unit := accOp 2 o fun a m => a + m
/-- The meaning of Add (its operation in the context that runs). -/
def execAdd (c : Core) (o : Operand8) (s : State) : Host.Outcome State Fault Refusal := instr c .A (addOp o) s
/-- ADDC: A and CD from A + m + CD (R245). -/
def addcOp (o : Operand8) : Op Unit := carryOp 3 o addDigit
/-- The meaning of Addc (its operation in the context that runs). -/
def execAddc (c : Core) (o : Operand8) (s : State) : Host.Outcome State Fault Refusal := instr c .A (addcOp o) s
/-- SUB: A ← A − m; CD stays (R244, R245). -/
def subOp (o : Operand8) : Op Unit := accOp 4 o fun a m => a - m
/-- The meaning of Sub (its operation in the context that runs). -/
def execSub (c : Core) (o : Operand8) (s : State) : Host.Outcome State Fault Refusal := instr c .A (subOp o) s
/-- SUBB: A and CD from A − m − CD (R245). -/
def subbOp (o : Operand8) : Op Unit := carryOp 5 o subDigit
/-- The meaning of Subb (its operation in the context that runs). -/
def execSubb (c : Core) (o : Operand8) (s : State) : Host.Outcome State Fault Refusal := instr c .A (subbOp o) s
/-- AND: A ← A and m (R244). -/
def andOp (o : Operand8) : Op Unit := accOp 6 o fun a m => a &&& m
/-- The meaning of And (its operation in the context that runs). -/
def execAnd (c : Core) (o : Operand8) (s : State) : Host.Outcome State Fault Refusal := instr c .A (andOp o) s
/-- OR: A ← A or m (R244). -/
def orOp (o : Operand8) : Op Unit := accOp 7 o fun a m => a ||| m
/-- The meaning of Or (its operation in the context that runs). -/
def execOr (c : Core) (o : Operand8) (s : State) : Host.Outcome State Fault Refusal := instr c .A (orOp o) s
/-- XOR: A ← A xor m (R244). -/
def xorOp (o : Operand8) : Op Unit := accOp 8 o fun a m => a ^^^ m
/-- The meaning of Xor (its operation in the context that runs). -/
def execXor (c : Core) (o : Operand8) (s : State) : Host.Outcome State Fault Refusal := instr c .A (xorOp o) s
/-- LDX of the primary map or page F1h: X ← m16, with a load shadow (R215, R244, R250). -/
def ldxOp (o : OperandXY) : Op Unit :=
  do
    let m ← match o with
      | .primary o => do fetchGroup 9 o.opd false; load16 o.opd
      | .page o => do fetchPage 0xF1 0 o.opd false; load16 o.opd
    setRegs fun _ r => { r with x := m }
    leaveShadow fun v => .x v.x
/-- The meaning of Ldx (its operation in the context that runs). -/
def execLdx (c : Core) (o : OperandXY) (s : State) : Host.Outcome State Fault Refusal := instr c .A (ldxOp o) s
/-- LDY of the primary map or page F1h: Y ← m16, with a load shadow (R215, R244, R250). -/
def ldyOp (o : OperandXY) : Op Unit :=
  do
    let m ← match o with
      | .primary o => do fetchGroup 10 o.opd false; load16 o.opd
      | .page o => do fetchPage 0xF1 1 o.opd false; load16 o.opd
    setRegs fun _ r => { r with y := m }
    leaveShadow fun v => .y v.y
/-- The meaning of Ldy (its operation in the context that runs). -/
def execLdy (c : Core) (o : OperandXY) (s : State) : Host.Outcome State Fault Refusal := instr c .A (ldyOp o) s
/-- STX: m16 ← X (R244). -/
def stxOp (o : Operand8) : Op Unit := storeOp 11 o (·.x)
/-- The meaning of Stx (its operation in the context that runs). -/
def execStx (c : Core) (o : Operand8) (s : State) : Host.Outcome State Fault Refusal := instr c .A (stxOp o) s
/-- STY: m16 ← Y (R244). -/
def styOp (o : Operand8) : Op Unit := storeOp 12 o (·.y)
/-- The meaning of Sty (its operation in the context that runs). -/
def execSty (c : Core) (o : Operand8) (s : State) : Host.Outcome State Fault Refusal := instr c .A (styOp o) s
/-- CBA: branch if A cc m (R241). -/
def cbaOp (o : Operand8) (bw : Half) : Op Unit :=
  do
    fetchGroup 13 o.opd false
    fetchBranch bw anyCond
    let m ← load8 o.opd
    predicted (condHolds (branchCond bw) (← get).seen.a m) (branchDisp bw)
/-- The meaning of Cba (its operation in the context that runs). -/
def execCba (c : Core) (o : Operand8) (bw : Half) (s : State) : Host.Outcome State Fault Refusal := instr c .A (cbaOp o bw) s
/-- CBX: branch if X cc m16 (R241). -/
def cbxOp (o : Operand8) (bw : Half) : Op Unit := compareOp 14 o bw (·.x)
/-- The meaning of Cbx (its operation in the context that runs). -/
def execCbx (c : Core) (o : Operand8) (bw : Half) (s : State) : Host.Outcome State Fault Refusal := instr c .A (cbxOp o bw) s
/-- CBY: branch if Y cc m16 (R241). -/
def cbyOp (o : Operand8) (bw : Half) : Op Unit := compareOp 15 o bw (·.y)
/-- The meaning of Cby (its operation in the context that runs). -/
def execCby (c : Core) (o : Operand8) (bw : Half) (s : State) : Host.Outcome State Fault Refusal := instr c .A (cbyOp o bw) s
/-! ### Register cells (Table 7.4) -/

/-- TRXA: X ← A zero-extended (Table 7.4). -/
def trxaOp : Op Unit := regOp 0x81 fun v r => { r with x := v.a.setWidth 16 }
/-- The meaning of Trxa (its operation in the context that runs). -/
def execTrxa (c : Core) (s : State) : Host.Outcome State Fault Refusal := instr c .A trxaOp s
/-- TRYA: Y ← A zero-extended (Table 7.4). -/
def tryaOp : Op Unit := regOp 0x82 fun v r => { r with y := v.a.setWidth 16 }
/-- The meaning of Trya (its operation in the context that runs). -/
def execTrya (c : Core) (s : State) : Host.Outcome State Fault Refusal := instr c .A tryaOp s
/-- TRAX: A ← X[7:0] (Table 7.4). -/
def traxOp : Op Unit := regOp 0x83 fun v r => { r with a := lowByte v.x }
/-- The meaning of Trax (its operation in the context that runs). -/
def execTrax (c : Core) (s : State) : Host.Outcome State Fault Refusal := instr c .A traxOp s
/-- TRAY: A ← Y[7:0] (Table 7.4). -/
def trayOp : Op Unit := regOp 0x84 fun v r => { r with a := lowByte v.y }
/-- The meaning of Tray (its operation in the context that runs). -/
def execTray (c : Core) (s : State) : Host.Outcome State Fault Refusal := instr c .A trayOp s
/-- TRYX: Y ← X (Table 7.4). -/
def tryxOp : Op Unit := regOp 0x85 fun v r => { r with y := v.x }
/-- The meaning of Tryx (its operation in the context that runs). -/
def execTryx (c : Core) (s : State) : Host.Outcome State Fault Refusal := instr c .A tryxOp s
/-- TRXY: X ← Y (Table 7.4). -/
def trxyOp : Op Unit := regOp 0x86 fun v r => { r with x := v.y }
/-- The meaning of Trxy (its operation in the context that runs). -/
def execTrxy (c : Core) (s : State) : Host.Outcome State Fault Refusal := instr c .A trxyOp s
/-- INCA: A ← A + 1 (Table 7.4). -/
def incaOp : Op Unit := regOp 0x87 fun v r => { r with a := v.a + 1 }
/-- The meaning of Inca (its operation in the context that runs). -/
def execInca (c : Core) (s : State) : Host.Outcome State Fault Refusal := instr c .A incaOp s
/-- DECA: A ← A − 1 (Table 7.4). -/
def decaOp : Op Unit := regOp 0x88 fun v r => { r with a := v.a - 1 }
/-- The meaning of Deca (its operation in the context that runs). -/
def execDeca (c : Core) (s : State) : Host.Outcome State Fault Refusal := instr c .A decaOp s
/-- INCX: X ← X + 1 (Table 7.4). -/
def incxOp : Op Unit := regOp 0x89 fun v r => { r with x := v.x + 1 }
/-- The meaning of Incx (its operation in the context that runs). -/
def execIncx (c : Core) (s : State) : Host.Outcome State Fault Refusal := instr c .A incxOp s
/-- DECX: X ← X − 1 (Table 7.4). -/
def decxOp : Op Unit := regOp 0x8A fun v r => { r with x := v.x - 1 }
/-- The meaning of Decx (its operation in the context that runs). -/
def execDecx (c : Core) (s : State) : Host.Outcome State Fault Refusal := instr c .A decxOp s
/-- INCY: Y ← Y + 1 (Table 7.4). -/
def incyOp : Op Unit := regOp 0x8B fun v r => { r with y := v.y + 1 }
/-- The meaning of Incy (its operation in the context that runs). -/
def execIncy (c : Core) (s : State) : Host.Outcome State Fault Refusal := instr c .A incyOp s
/-- DECY: Y ← Y − 1 (Table 7.4). -/
def decyOp : Op Unit := regOp 0x8C fun v r => { r with y := v.y - 1 }
/-- The meaning of Decy (its operation in the context that runs). -/
def execDecy (c : Core) (s : State) : Host.Outcome State Fault Refusal := instr c .A decyOp s
/-- ZERA: A ← 00h (Table 7.4). -/
def zeraOp : Op Unit := regOp 0x8D fun _ r => { r with a := 0 }
/-- The meaning of Zera (its operation in the context that runs). -/
def execZera (c : Core) (s : State) : Host.Outcome State Fault Refusal := instr c .A zeraOp s
/-- NEGA: A ← −A (Table 7.4). -/
def negaOp : Op Unit := regOp 0x8E fun v r => { r with a := -v.a }
/-- The meaning of Nega (its operation in the context that runs). -/
def execNega (c : Core) (s : State) : Host.Outcome State Fault Refusal := instr c .A negaOp s
/-- NOTA: A ← not A (Table 7.4). -/
def notaOp : Op Unit := regOp 0x8F fun v r => { r with a := ~~~v.a }
/-- The meaning of Nota (its operation in the context that runs). -/
def execNota (c : Core) (s : State) : Host.Outcome State Fault Refusal := instr c .A notaOp s
/-- SHLA: CD ← A[7]; A ← A << 1 (Table 7.4). -/
def shlaOp : Op Unit := shiftOp 0x90 fun a _ => shlByte a
/-- The meaning of Shla (its operation in the context that runs). -/
def execShla (c : Core) (s : State) : Host.Outcome State Fault Refusal := instr c .A shlaOp s
/-- SHRA: CD ← A[0]; A ← A >> 1, logical (Table 7.4). -/
def shraOp : Op Unit := shiftOp 0x91 fun a _ => shrByte a
/-- The meaning of Shra (its operation in the context that runs). -/
def execShra (c : Core) (s : State) : Host.Outcome State Fault Refusal := instr c .A shraOp s
/-- ASRA: CD ← A[0]; A ← A >> 1, arithmetic (Table 7.4). -/
def asraOp : Op Unit := shiftOp 0x92 fun a _ => asrByte a
/-- The meaning of Asra (its operation in the context that runs). -/
def execAsra (c : Core) (s : State) : Host.Outcome State Fault Refusal := instr c .A asraOp s
/-- ROLA: A ← A << 1 with the CD bit in; CD ← old A[7] (R245). -/
def rolaOp : Op Unit := shiftOp 0x93 rolByte
/-- The meaning of Rola (its operation in the context that runs). -/
def execRola (c : Core) (s : State) : Host.Outcome State Fault Refusal := instr c .A rolaOp s
/-- RORA: A ← A >> 1 with the CD bit in; CD ← old A[0] (R245). -/
def roraOp : Op Unit := shiftOp 0x94 rorByte
/-- The meaning of Rora (its operation in the context that runs). -/
def execRora (c : Core) (s : State) : Host.Outcome State Fault Refusal := instr c .A roraOp s
/-- CLCD: CD ← 0 (Table 7.4). -/
def clcdOp : Op Unit := regOp 0x95 fun _ r => r.withCd 0
/-- The meaning of Clcd (its operation in the context that runs). -/
def execClcd (c : Core) (s : State) : Host.Outcome State Fault Refusal := instr c .A clcdOp s
/-- SWNA: the nibbles of A change places (Table 7.4). -/
def swnaOp : Op Unit := regOp 0x96 fun v r => { r with a := v.a.rotateLeft 4 }
/-- The meaning of Swna (its operation in the context that runs). -/
def execSwna (c : Core) (s : State) : Host.Outcome State Fault Refusal := instr c .A swnaOp s
/-- TXL: L ← X (Table 7.4). -/
def txlOp : Op Unit := regOp 0x97 fun v r => { r with l := v.x }
/-- The meaning of Txl (its operation in the context that runs). -/
def execTxl (c : Core) (s : State) : Host.Outcome State Fault Refusal := instr c .A txlOp s
/-- TLX: X ← L (Table 7.4). -/
def tlxOp : Op Unit := regOp 0x98 fun v r => { r with x := v.l }
/-- The meaning of Tlx (its operation in the context that runs). -/
def execTlx (c : Core) (s : State) : Host.Outcome State Fault Refusal := instr c .A tlxOp s
/-- TDX: X ← DP (Table 7.4). -/
def tdxOp : Op Unit := regOp 0x99 fun v r => { r with x := v.dp }
/-- The meaning of Tdx (its operation in the context that runs). -/
def execTdx (c : Core) (s : State) : Host.Outcome State Fault Refusal := instr c .A tdxOp s
/-- TXD: DP ← X, with no check of DSLO or DSHI (R248). -/
def txdOp : Op Unit := regOp 0x9A fun v r => { r with dp := v.x }
/-- The meaning of Txd (its operation in the context that runs). -/
def execTxd (c : Core) (s : State) : Host.Outcome State Fault Refusal := instr c .A txdOp s
/-- SXA: X ← A sign-extended (Table 7.4). -/
def sxaOp : Op Unit := regOp 0x9B fun v r => { r with x := v.a.signExtend 16 }
/-- The meaning of Sxa (its operation in the context that runs). -/
def execSxa (c : Core) (s : State) : Host.Outcome State Fault Refusal := instr c .A sxaOp s
/-- ADXA: X ← X + A zero-extended (Table 7.4). -/
def adxaOp : Op Unit := regOp 0x9C fun v r => { r with x := v.x + v.a.setWidth 16 }
/-- The meaning of Adxa (its operation in the context that runs). -/
def execAdxa (c : Core) (s : State) : Host.Outcome State Fault Refusal := instr c .A adxaOp s
/-- ADYA: Y ← Y + A zero-extended (Table 7.4). -/
def adyaOp : Op Unit := regOp 0x9D fun v r => { r with y := v.y + v.a.setWidth 16 }
/-- The meaning of Adya (its operation in the context that runs). -/
def execAdya (c : Core) (s : State) : Host.Outcome State Fault Refusal := instr c .A adyaOp s
/-- MUL: X ← A × X[7:0], unsigned (Table 7.4). -/
def mulOp : Op Unit := regOp 0x9E fun v r => { r with x := v.a.setWidth 16 * (lowByte v.x).setWidth 16 }
/-- The meaning of Mul (its operation in the context that runs). -/
def execMul (c : Core) (s : State) : Host.Outcome State Fault Refusal := instr c .A mulOp s
/-- The quotient and remainder of DIV; by 00h they are FFFFh and 00h (R247). -/
def divide (x : Half) (a : Byte) : Half × Byte :=
  if a = 0 then (0xFFFF, 0) else (BitVec.ofNat 16 (x.toNat / a.toNat), BitVec.ofNat 8 (x.toNat % a.toNat))

/-- DIV: X ← X div A and A ← X mod A (R247). -/
def divOp : Op Unit := regOp 0x9F fun v r => { r with x := (divide v.x v.a).1, a := (divide v.x v.a).2 }
/-- The meaning of Div (its operation in the context that runs). -/
def execDiv (c : Core) (s : State) : Host.Outcome State Fault Refusal := instr c .A divOp s
/-! ### The data stack (R207) -/

/-- PUSHA: push A (R207). -/
def pushaOp : Op Unit := pushOp 0xA0 1 (·.a.toNat)
/-- The meaning of Pusha (its operation in the context that runs). -/
def execPusha (c : Core) (s : State) : Host.Outcome State Fault Refusal := instr c .A pushaOp s
/-- POPA: pop A, with a load shadow (R207, R215). -/
def popaOp : Op Unit :=
  do
    popOp 0xA1 1 fun r x => { r with a := BitVec.ofNat 8 x }
    leaveShadow fun v => .a v.a
/-- The meaning of Popa (its operation in the context that runs). -/
def execPopa (c : Core) (s : State) : Host.Outcome State Fault Refusal := instr c .A popaOp s
/-- PUSHX: push X (R207). -/
def pushxOp : Op Unit := pushOp 0xA2 2 (·.x.toNat)
/-- The meaning of Pushx (its operation in the context that runs). -/
def execPushx (c : Core) (s : State) : Host.Outcome State Fault Refusal := instr c .A pushxOp s
/-- POPX: pop X (R207). -/
def popxOp : Op Unit := popOp 0xA3 2 fun r x => { r with x := BitVec.ofNat 16 x }
/-- The meaning of Popx (its operation in the context that runs). -/
def execPopx (c : Core) (s : State) : Host.Outcome State Fault Refusal := instr c .A popxOp s
/-- PUSHY: push Y (R207). -/
def pushyOp : Op Unit := pushOp 0xA4 2 (·.y.toNat)
/-- The meaning of Pushy (its operation in the context that runs). -/
def execPushy (c : Core) (s : State) : Host.Outcome State Fault Refusal := instr c .A pushyOp s
/-- POPY: pop Y (R207). -/
def popyOp : Op Unit := popOp 0xA5 2 fun r x => { r with y := BitVec.ofNat 16 x }
/-- The meaning of Popy (its operation in the context that runs). -/
def execPopy (c : Core) (s : State) : Host.Outcome State Fault Refusal := instr c .A popyOp s
/-- PUSHL: push L (R207). -/
def pushlOp : Op Unit := pushOp 0xA6 2 (·.l.toNat)
/-- The meaning of Pushl (its operation in the context that runs). -/
def execPushl (c : Core) (s : State) : Host.Outcome State Fault Refusal := instr c .A pushlOp s
/-- POPL: pop L (R207). -/
def poplOp : Op Unit := popOp 0xA7 2 fun r x => { r with l := BitVec.ofNat 16 x }
/-- The meaning of Popl (its operation in the context that runs). -/
def execPopl (c : Core) (s : State) : Host.Outcome State Fault Refusal := instr c .A poplOp s
/-! ### Memory cells and page F0h (Table 7.4, Table 7.5) -/

/-- INCM: m ← m + 1 (Table 7.4). -/
def incmOp (o : OperandAD) : Op Unit := memOp 0xB8 o fun m => m + 1
/-- The meaning of Incm (its operation in the context that runs). -/
def execIncm (c : Core) (o : OperandAD) (s : State) : Host.Outcome State Fault Refusal := instr c .A (incmOp o) s
/-- DECM: m ← m − 1 (Table 7.4). -/
def decmOp (o : OperandAD) : Op Unit := memOp 0xB9 o fun m => m - 1
/-- The meaning of Decm (its operation in the context that runs). -/
def execDecm (c : Core) (o : OperandAD) (s : State) : Host.Outcome State Fault Refusal := instr c .A (decmOp o) s
/-- CLRM: m ← 00h, which reads nothing (Table 7.4: 5 lc). -/
def clrmOp (o : OperandAD) : Op Unit :=
  do
    opcode (BitVec.ofNat 8 (0xBC + o.opd.mode / 2))
    fetchBytes o.opd.bytes
    store8 o.opd 0
/-- The meaning of Clrm (its operation in the context that runs). -/
def execClrm (c : Core) (o : OperandAD) (s : State) : Host.Outcome State Fault Refusal := instr c .A (clrmOp o) s
/-- ADDM: m ← m + A (R249). -/
def addmOp (o : Operand8) : Op Unit := pageMemOp 0 o fun m a _ => (m + a, none)
/-- The meaning of Addm (its operation in the context that runs). -/
def execAddm (c : Core) (o : Operand8) (s : State) : Host.Outcome State Fault Refusal := instr c .A (addmOp o) s
/-- ADDCM: m and CD from m + A + CD (R249). -/
def addcmOp (o : Operand8) : Op Unit := pageMemOp 1 o fun m a cd => withDigit (addDigit m a cd)
/-- The meaning of Addcm (its operation in the context that runs). -/
def execAddcm (c : Core) (o : Operand8) (s : State) : Host.Outcome State Fault Refusal := instr c .A (addcmOp o) s
/-- SUBBM: m and CD from m − A − CD (R249). -/
def subbmOp (o : Operand8) : Op Unit := pageMemOp 2 o fun m a cd => withDigit (subDigit m a cd)
/-- The meaning of Subbm (its operation in the context that runs). -/
def execSubbm (c : Core) (o : Operand8) (s : State) : Host.Outcome State Fault Refusal := instr c .A (subbmOp o) s
/-- SETM: m ← m or A (R249). -/
def setmOp (o : Operand8) : Op Unit := pageMemOp 3 o fun m a _ => (m ||| a, none)
/-- The meaning of Setm (its operation in the context that runs). -/
def execSetm (c : Core) (o : Operand8) (s : State) : Host.Outcome State Fault Refusal := instr c .A (setmOp o) s
/-- CLRBM: m ← m and not A (R249). -/
def clrbmOp (o : Operand8) : Op Unit := pageMemOp 4 o fun m a _ => (m &&& ~~~a, none)
/-- The meaning of Clrbm (its operation in the context that runs). -/
def execClrbm (c : Core) (o : Operand8) (s : State) : Host.Outcome State Fault Refusal := instr c .A (clrbmOp o) s
/-- ROLM: as ROLA, on m (R249). -/
def rolmOp (o : Operand8) : Op Unit := pageMemOp 5 o fun m _ cd => withDigit (rolByte m cd)
/-- The meaning of Rolm (its operation in the context that runs). -/
def execRolm (c : Core) (o : Operand8) (s : State) : Host.Outcome State Fault Refusal := instr c .A (rolmOp o) s
/-- RORM: as RORA, on m (R249). -/
def rormOp (o : Operand8) : Op Unit := pageMemOp 6 o fun m _ cd => withDigit (rorByte m cd)
/-- The meaning of Rorm (its operation in the context that runs). -/
def execRorm (c : Core) (o : Operand8) (s : State) : Host.Outcome State Fault Refusal := instr c .A (rormOp o) s
/-- MINU: A ← the unsigned minimum of A and m (R249). -/
def minuOp (o : Operand8) : Op Unit := pageAccOp 7 o fun a m => if a.ule m then a else m
/-- The meaning of Minu (its operation in the context that runs). -/
def execMinu (c : Core) (o : Operand8) (s : State) : Host.Outcome State Fault Refusal := instr c .A (minuOp o) s
/-- MAXU: A ← the unsigned maximum of A and m (R249). -/
def maxuOp (o : Operand8) : Op Unit := pageAccOp 8 o fun a m => if a.ule m then m else a
/-- The meaning of Maxu (its operation in the context that runs). -/
def execMaxu (c : Core) (o : Operand8) (s : State) : Host.Outcome State Fault Refusal := instr c .A (maxuOp o) s
/-! ### Page F1h (Table 7.6) -/

/-- LDL: L ← m16 (R250). -/
def ldlOp (o : Operand16) : Op Unit := pageLoadOp 2 o fun _ r m => { r with l := m }
/-- The meaning of Ldl (its operation in the context that runs). -/
def execLdl (c : Core) (o : Operand16) (s : State) : Host.Outcome State Fault Refusal := instr c .A (ldlOp o) s
/-- STL: m16 ← L (R250). -/
def stlOp (o : Operand16) : Op Unit := pageStoreOp 3 o (·.l)
/-- The meaning of Stl (its operation in the context that runs). -/
def execStl (c : Core) (o : Operand16) (s : State) : Host.Outcome State Fault Refusal := instr c .A (stlOp o) s
/-- ADDX: X ← X + m16 (R250). -/
def addxOp (o : Operand16) : Op Unit := pageLoadOp 4 o fun v r m => { r with x := v.x + m }
/-- The meaning of Addx (its operation in the context that runs). -/
def execAddx (c : Core) (o : Operand16) (s : State) : Host.Outcome State Fault Refusal := instr c .A (addxOp o) s
/-- SUBX: X ← X − m16 (R250). -/
def subxOp (o : Operand16) : Op Unit := pageLoadOp 5 o fun v r m => { r with x := v.x - m }
/-- The meaning of Subx (its operation in the context that runs). -/
def execSubx (c : Core) (o : Operand16) (s : State) : Host.Outcome State Fault Refusal := instr c .A (subxOp o) s
/-- ADDY: Y ← Y + m16 (R250). -/
def addyOp (o : Operand16) : Op Unit := pageLoadOp 6 o fun v r m => { r with y := v.y + m }
/-- The meaning of Addy (its operation in the context that runs). -/
def execAddy (c : Core) (o : Operand16) (s : State) : Host.Outcome State Fault Refusal := instr c .A (addyOp o) s
/-- SUBY: Y ← Y − m16 (R250). -/
def subyOp (o : Operand16) : Op Unit := pageLoadOp 7 o fun v r m => { r with y := v.y - m }
/-- The meaning of Suby (its operation in the context that runs). -/
def execSuby (c : Core) (o : Operand16) (s : State) : Host.Outcome State Fault Refusal := instr c .A (subyOp o) s
/-- LDDP: DP ← m16, with no check of DSLO or DSHI (R250). -/
def lddpOp (o : Operand16) : Op Unit := pageLoadOp 8 o fun _ r m => { r with dp := m }
/-- The meaning of Lddp (its operation in the context that runs). -/
def execLddp (c : Core) (o : Operand16) (s : State) : Host.Outcome State Fault Refusal := instr c .A (lddpOp o) s
/-- STDP: m16 ← DP (R250). -/
def stdpOp (o : Operand16) : Op Unit := pageStoreOp 9 o (·.dp)
/-- The meaning of Stdp (its operation in the context that runs). -/
def execStdp (c : Core) (o : Operand16) (s : State) : Host.Outcome State Fault Refusal := instr c .A (stdpOp o) s
/-- ADDDP: DP ← DP + m16 (R250). -/
def adddpOp (o : Operand16) : Op Unit := pageLoadOp 10 o fun v r m => { r with dp := v.dp + m }
/-- The meaning of Adddp (its operation in the context that runs). -/
def execAdddp (c : Core) (o : Operand16) (s : State) : Host.Outcome State Fault Refusal := instr c .A (adddpOp o) s
/-- CBL: branch if L cc m16 (R241, R250). -/
def cblOp (o : Operand16) (bw : Half) : Op Unit :=
  do
    fetchPage 0xF1 11 o.opd false
    fetchBranch bw anyCond
    let m ← load16 o.opd
    predicted (condHolds (branchCond bw) (← get).seen.l m) (branchDisp bw)
/-- The meaning of Cbl (its operation in the context that runs). -/
def execCbl (c : Core) (o : Operand16) (bw : Half) (s : State) : Host.Outcome State Fault Refusal := instr c .A (cblOp o bw) s

end Sys2Proof.Machine
end

