-- ==== Sys2Proof/Machine/Contexts.lean ====
section
/-! DEFINITION. What a ledger core does at its boundaries: context switches and stops, interrupt entries, EC 11h, watchdogs, the mode
switch, line fills, the fallback core (spec/06, spec/09, spec/11). -/

namespace Sys2Proof.Machine

/-! ### Context switches (R199 to R202, R356) -/

/-- The READY context of highest effective level, the lowest number among equals (R199, R403). -/
def bestReady (s : State) (c : Core) : Option Ctx :=
  allCtxs.foldl (fun b k =>
    if effState s c k = .ready then
      match b with
      | none => some k
      | some j => if effLevel s c j < effLevel s c k then some k else b
    else b) none

/-- The context that the core should switch to: none while the running one keeps it (R199). -/
def switchTarget (s : State) (c : Core) : Option Ctx :=
  match bestReady s c with
  | none => none
  | some k =>
    let cur := (s.core c).cur
    if (s.ctx c cur).state = .run ∧ effLevel s c k ≤ effLevel s c cur then none else some k

/-- The lookups that an instruction has made before an event abandons it in a later one: their LAB entries are kept (R358, R384). -/
def State.abandoned (s : State) (c : Core) (made : List Lookup) : State :=
  let k := (s.core c).cur
  let x := (s.ctx c k).regs
  if (s.ctx c k).state ≠ .run then s
  else
    (made.foldl (fun (r : State × List Nat) l =>
      let acc : Access := { kind := b2n (!l.fetch), needX := l.fetch, user := !x.ctx.getLsbD 15, guard := false, key := 0 }
      match r.1.lookup c k l.a acc r.2 with
      | (t, .ok b) => (t, b.src :: r.2)
      | _ => r) (s, [])).1

/-- The core leaves its context for another: an instruction that waits is abandoned, the I-LAB and D-LAB are emptied, the load shadow
closes, and values that waited for SYNC apply (R216, R222, R313, R356). A STOP of the context that it leaves takes the same boundary
(R202). -/
def State.switchTo (s : State) (c : Core) (k : Ctx) : State :=
  let leave (x : CtxSt) : CtxSt :=
    { x with image := x.regs, shadow := none, state := if x.state = .run then (if x.stopReq then .stopped else .ready) else x.state
             stopReq := false }
  let s := (s.dropHeld c).modCtx c (s.core c).cur leave
  let s := s.modCore c fun x => { x with cur := k, head := none, taking := none, ilab := [], dlab := [] }
  (s.modCtx c k fun x => { x with state := .run, image := x.regs }).syncApply c

/-- EC 17h is taken in a context: its watchdog restarts (R406, R407). -/
def State.takeWatchdog (s : State) (c : Core) (k : Ctx) : State :=
  let s := s.modCtx c k fun x => { x with wdtPend := false, wdtLeft := s.wdtPeriod c }
  let r := (s.ctx c k).regs
  (s.dropHeld c).takeTrap c k r.pc r.ctx 0x17 (some { ec := 0x17, la := r.pc })

/-- CONTEXT_SWITCH (R199), which does not split a pair (R328): an EC 17h of the new context comes first (R407). -/
def execContextSwitch (e : AtBoundary) (s : State) : Host.Outcome State Fault Refusal :=
  let c := e.core
  if ¬ s.coreActs c ∨ s.midPair c then .next s
  else match switchTarget s c with
  | none => .next s
  | some k =>
    let s := (s.abandoned c e.made).switchTo c k
    .next (if (s.ctx c k).wdtPend then s.takeWatchdog c k else s)

/-- CONTEXT_STOP: a context that was asked to stop enters STOPPED at its boundary or checkpoint (R202, R299, R328, R417). -/
def execContextStop (e : AtBoundary) (k : Ctx) (s : State) : Host.Outcome State Fault Refusal :=
  let c := e.core
  if (s.ctx c k).stopReq ∧ (s.ctx c k).state ≠ .stopped ∧ (s.core c).core = .run ∧ ¬ ((s.core c).cur = k ∧ s.midPair c) then
    let s := if (s.core c).cur = k then ((s.abandoned c e.made).dropHeld c).unpaired c else s
    .next (s.ctxStop c k)
  else .next s

/-! ### Traps at a boundary (R393) -/

/-- The running context takes line `n` (R395). A re-routing of the line by the core itself, which the entry brings into use, waits for the
handler's RTI, and so does one that comes before its first instruction (R418). -/
def State.takeLine (s : State) (c : Core) (k : Ctx) (n : Nat) : State :=
  let x := s.ctx c k
  let e : Nat × Ctx × Int := (n, k, x.stack.length)
  let moved := decide (field (effReg s c (Reg.irqLine n)) 0 5 ≠ field (s.reg (Reg.irqLine n)) 0 5)
  let t := (s.dropHeld c).takeTrap c k x.regs.pc x.regs.ctx (0x20 + n) none
  if t.coreActs c then t.modCore c fun y => { y with taking := some e, kept := if moved then e :: y.kept else y.kept } else t

/-- INTERRUPT_ENTRY: the running context takes its pending line of highest LEVEL, unless its IM is 1, a STOP falls on the boundary or the
core is within a pair; an EC 17h comes first. FAULTINFO stays (R328, R390, R393, R395, R402, R417). -/
def execInterruptEntry (e : AtBoundary) (s : State) : Host.Outcome State Fault Refusal :=
  let c := e.core
  let k := (s.core c).cur
  let x := s.ctx c k
  if ¬ s.canRun c ∨ x.stopReq ∨ s.midPair c then .next s
  else if x.wdtPend then .next ((s.abandoned c e.made).takeWatchdog c k)
  else if x.regs.ctx.getLsbD 9 then .next s
  else match bestLine s c k with
  | none => .next s
  | some n => .next ((s.abandoned c e.made).takeLine c k n)

/-- EC11_ENTRY: context 0 takes EC 11h whatever its state and IM, and its watchdog restarts where that takes it out of STOPPED (R406); with
all 40 entries in use the core halts (R211, R231, R399, R419). -/
def execEc11Entry (c : Core) (s : State) : Host.Outcome State Fault Refusal :=
  match (s.core c).ec11 with
  | none => .next s
  | some e =>
    if (s.core c).core ≠ .run ∨ s.power.entry ≠ 0 then .next s
    else
      let x := s.ctx c 0
      if 40 ≤ x.stack.length then .next (s.coreHalt c 0x11)
      else
        let s := s.modCore c fun y => { y with ec11 := none, ec11Back := ((x.stack.length : Int), x.state) :: y.ec11Back }
        let s := if x.state = .stopped then s.modCtx c 0 fun y => { y with wdtLeft := s.wdtPeriod c } else s
        let s := if (s.core c).cur = 0 then ((s.dropHeld c).unpaired c).modCtx c 0 fun y => { y with state := .run } else s.switchTo c 0
        .next (s.enterVector c 0 x.regs.pc x.regs.ctx 0x11 (some e.info))

/-! ### Watchdogs (R406, R407) -/

/-- Whether the watchdog of a context counts: enabled, and its context neither STOPPED nor on a halted core. -/
def State.wdtCounts (s : State) (c : Core) (k : Ctx) : Bool :=
  bit (s.reg (Reg.irqWdt c.val)) (16 + k.val) && decide ((s.ctx c k).state ≠ .stopped) && decide ((s.core c).core = .run) &&
    decide (s.power.entry = 0)

/-- A watchdog reaches 0: EC 17h, taken at once by the context that runs; a second time with no WDR in between, the core halts (R407). -/
def State.wdtExpire (s : State) (c : Core) (k : Ctx) : State :=
  if (s.ctx c k).wdtOnce then s.coreHalt c 0x17
  else
    let s := s.modCtx c k fun x => { x with wdtOnce := true, wdtPend := true, wdtLeft := 0 }
    if (s.core c).cur = k ∧ s.canRun c ∧ ¬ s.midPair c then s.takeWatchdog c k else s

/-- WATCHDOG_EXPIRY (R407). -/
def execWatchdogExpiry (c : Core) (k : Ctx) (s : State) : Host.Outcome State Fault Refusal :=
  if s.wdtCounts c k ∧ ¬ (s.ctx c k).wdtPend then .next (s.wdtExpire c k) else .next s

/-! ### Mode switch, line fills, fallback, state-machine check -/

/-- MODE_SWITCH_POINT: a mode whose count has run out applies (R219, R331). -/
def execModeSwitchPoint (c : Core) (s : State) : Host.Outcome State Fault Refusal := .next (s.applyModes c)

/-- The byte that a line fill of the data cache reads. -/
def fillByte (s : State) (a : Nat) : Byte := if region a = .nvla then nvlByte s a else s.byte a

/-- A line fill that completes (R321 to R323); one whose line takes a parity error holds it with its mark (R346). -/
def State.fillDone (s : State) (c : Core) (f : Fill) (bad : Bool) : State :=
  match f with
  | .icache line => s.modCore c fun x => { x with icache := cacheTake (·.1) 128 x.icache (line, bad) }
  | .lineBuf line => s.modCore c fun x => { x with lineBuf := (line :: x.lineBuf.filter fun l => decide (l ≠ line)).take 2 }
  | .dcache line =>
    let d : DLine := { line, bytes := (List.range 32).map fun i => fillByte s (line * 32 + i), bad }
    s.modCore c fun x => { x with dcache := cacheTake (·.line) 64 x.dcache d }

/-- A LAB entry of a core takes a parity error (R386). -/
def CoreSt.spoilLab (x : CoreSt) (k : Ctx) (idx : Nat) : CoreSt :=
  let mark (l : List LabEntry) : List LabEntry := l.map fun e => if e.ctx = k ∧ e.idx = idx then { e with bad := true } else e
  { x with ilab := mark x.ilab, dlab := mark x.dlab, l2 := mark x.l2 }

/-- LINE_FILL_DONE: the oldest fill in progress, with the parity error that its line or a LAB entry takes meanwhile (R346, R386). -/
def execLineFillDone (e : FillEnd) (s : State) : Host.Outcome State Fault Refusal :=
  let c := e.core
  let s := match e.upset with | .lab k idx => s.modCore c fun x => x.spoilLab k idx.val | _ => s
  match (s.core c).fills with
  | [] => .next s
  | f :: rest => .next ((s.modCore c fun x => { x with fills := rest }).fillDone c f (decide (e.upset = .line)))

/-- FALLBACK_DELIVERY: a halted core's lines are delivered to its fallback (R410). -/
def execFallbackDelivery (c : Core) (s : State) : Host.Outcome State Fault Refusal :=
  match fallbackOf s c with
  | some _ =>
    if (s.core c).fallbackOn then .next s
    else .next ((s.modCore c fun x => { x with fallbackOn := true }).hlog 0x0190 sevNotice c.val [])
  | none => .next s

/-- STATE_MACHINE_CHECK: the core halts with HCAUSE 81h where its register file, return stack or context store is in error, else with
82h (R408). -/
def execStateMachineCheck (f : FailedCheck) (s : State) : Host.Outcome State Fault Refusal :=
  if (s.core f.core).core = .run then .next (s.coreHalt f.core (if f.store then 0x81 else 0x82)) else .next s

end Sys2Proof.Machine
end

