-- ==== Sys2Proof/Machine/DecimalOps.lean ====
section
/-! DEFINITION. Page F4h: the decimal instructions (spec/08), and the operand fields that they and the string instructions read and
write through the 64-bit port. -/

namespace Sys2Proof.Machine

/-! ### Operand fields (R267, R274, R275) -/

/-- An operand that is checked before any data access: its lowest byte, its length and the kind of its access. -/
structure Field where
  a : Half
  n : Nat
  kind : Nat

/-- EC 05h when an operand would run past FFFFh; the address it captures is that of the first byte past it (R274, log 23). -/
def checkBounds : List Field → Op Unit
  | [] => pure ()
  | f :: t => do
    if 65536 < f.a.toNat + f.n then raise { ec := 5, la := 0, kind := f.kind }
    checkBounds t

/-- The first byte of an operand in a side-effect block or region, by pages of 256 bytes, the smallest block. -/
def seByte (s : State) (c : Core) (k : Ctx) (f : Field) : Option (Half × Block) :=
  let lo := f.a.toNat
  if f.n = 0 then none
  else (List.range ((lo + f.n - 1) / 256 - lo / 256 + 1)).findSome? fun i =>
    let a : Half := BitVec.ofNat 16 (max lo ((lo / 256 + i) * 256))
    match s.peek c k a false with
    | some b => if flagSE b.flags || seRegion (b.phys a.toNat) then some (a, b) else none
    | none => none

/-- EC 06h when an operand byte lies in a side-effect block, the device registers or a control store (R274). -/
def checkSe : List Field → Op Unit
  | [] => pure ()
  | f :: t => do
    let r ← get
    match seByte r.st r.c r.k f with
    | some (a, b) => raise { ec := 6, la := a, kind := f.kind, src := b.src, chk := 5 }
    | none => pure ()
    checkSe t

/-- The checks of R274 for all operands. -/
def checkFields (fs : List Field) : Op Unit := do
  checkBounds fs
  checkSe fs

/-- The access of an operand, which never reaches a side-effect block (R366). -/
def Run.operand (r : Run) (kind : Nat) : Access := { r.access kind with noSe := true }

/-- The pieces of a field that lie in one aligned 8-byte word each: offset and length. -/
def pieces (a : Nat) : Nat → Nat → List (Nat × Nat)
  | 0, _ => []
  | fuel + 1, n => if n = 0 then [] else
    let m := min n (8 - a % 8)
    (a, m) :: pieces (a + m) fuel (n - m)

/-- The accesses of pieces of a field are checked. -/
def checkPieces (acc : Access) : List (Nat × Nat) → Op (List (Loc × Nat))
  | [] => pure []
  | (a, n) :: t => do
    let x ← checkAt (BitVec.ofNat 16 a) acc
    let rest ← checkPieces acc t
    pure ((x, n) :: rest)

/-- The accesses of a field are checked, each piece in one access (R311). -/
def checkField (acc : Access) (a n : Nat) : Op (List (Loc × Nat)) := checkPieces acc (pieces a (n + 1) n)

/-- A checked field is read. -/
def readField : List (Loc × Nat) → Op (List Byte)
  | [] => pure []
  | (x, n) :: t => do
    let l ← loadAt x n .word
    let rest ← readField t
    pure (l ++ rest)

/-- The stores of a checked field are checked under Table 2.2. -/
def fieldOk : List (Loc × Nat) → Op Unit
  | [] => pure ()
  | (x, _) :: t => do
    storeOk x .word
    fieldOk t

/-- A field is stored. -/
def putField : List (Loc × Nat) → List Byte → Op Unit
  | [], _ => pure ()
  | (x, n) :: t, l => do
    putAt x (l.take n)
    putField t (l.drop n)

/-! ### Decimal values (R268 to R272) -/

/-- The index of the first byte of a field that is not valid (R272). -/
def badPacked (l : List Byte) : Option Nat :=
  (List.range l.length).find? fun i =>
    let b := (l.getD i 0).toNat
    decide (9 < b / 16) || (if i + 1 = l.length then decide (b % 16 < 10) else decide (9 < b % 16))
def badUnsigned (l : List Byte) : Option Nat := l.findIdx? fun b => decide (9 < b.toNat / 16 ∨ 9 < b.toNat % 16)
def badZoned (l : List Byte) : Option Nat := l.findIdx? fun b => decide (b.toNat < 0x30 ∨ 0x39 < b.toNat)

/-- EC 0Ch at the byte of a field at `a` that is not valid. -/
def checkDigits (a : Half) (bad : Option Nat) : Op Unit :=
  match bad with
  | some i => raise { ec := 0x0C, la := a + BitVec.ofNat 16 i, kind := 1 }
  | none => pure ()

/-- The value of a packed, unsigned or zoned field (R268, R270, R271). -/
def packedValue (l : List Byte) : Int :=
  match parsePacked l with
  | some (neg, v) => if neg then -(v : Int) else v
  | none => 0
def unsignedValue (l : List Byte) : Nat := (parseUnsigned l).getD 0
def zonedValue (l : List Byte) : Nat := (parseZoned l).getD 0

/-- The bytes of a packed result (R269). -/
def packedResult (n : Nat) (v : Int) : List Byte := packedBytes n (decide (v < 0)) v.natAbs

/-- EC 0Dh when a magnitude has more than `d` digits. -/
def checkFits (d v : Nat) : Op Unit := if 10 ^ d ≤ v then pcFault 0x0D else pure ()

/-! ### Shapes -/

/-- The lengths that a lengths byte gives (R273). -/
def len1 (lb : Byte) : Nat := field lb 4 4 + 1
def len2 (lb : Byte) : Nat := field lb 0 4 + 1

/-- The bytes F4h, the second byte and the lengths byte, which reveals a combination that is not allowed. -/
def fetchDecimal (second lb : Byte) (bad : Bool := false) : Op Unit := do
  fetchByte 0xF4 none
  opcode second
  fetchByte lb (if bad then some 2 else none)

/-- A decimal instruction that makes the `n1` bytes at X, or nothing if `out` is not set, from the `n1` bytes at X, when it reads them
(`rx`), and the `n2` bytes at Y, when it reads them (`ry`): the bounds, every check, the reads, the validity of the operands, then the
result (R274, R275). -/
def decimalWork (n1 n2 : Nat) (rx ry out : Bool) (badX badY : List Byte → Option Nat)
    (f : CtxRegs → List Byte → List Byte → Op (List Byte)) : Op Unit := do
  let r ← get
  let v := r.seen
  let x := v.x.toNat
  let y := v.y.toNat
  checkFields ((if rx || out then [{ a := v.x, n := n1, kind := if rx then 1 else 2 }] else []) ++
    (if ry then [{ a := v.y, n := n2, kind := 1 }] else []))
  let lx ← if rx then checkField (r.operand 1) x n1 else pure []
  let ly ← if ry then checkField (r.operand 1) y n2 else pure []
  let locs ← if out then checkField (r.operand 2) x n1 else pure []
  let xs ← readField lx
  let ys ← readField ly
  fieldOk locs
  checkDigits v.x (if rx then badX xs else none)
  checkDigits v.y (if ry then badY ys else none)
  let res ← f v xs ys
  putField locs res

/-- No byte of a field is bad. -/
def noBad (_ : List Byte) : Option Nat := none

/-- DADD and DSUB: the sum of X and Y, or of X and −Y (R278). -/
def sumOp (second lb : Byte) (f : Int → Int → Int) : Op Unit := do
  fetchDecimal second lb
  let n1 := len1 lb
  decimalWork n1 (len2 lb) true true true badPacked badPacked fun _ xs ys => do
    let v := f (packedValue xs) (packedValue ys)
    checkFits (2 * n1 - 1) v.natAbs
    pure (packedResult n1 v)

/-- The shift of DSHR on a magnitude of `d` digits by `s` with rounding digit `q`: the result, and CD when it changes; none where a left
shift loses a digit or the result does not fit (R280). -/
def shiftDigits (d m : Nat) (s : Int) (q : Nat) : Option (Nat × Option Nat) :=
  if 0 < s then
    let v := m * 10 ^ s.natAbs
    if 10 ^ d ≤ v then none else some (v, none)
  else if s = 0 then some (m, some 0)
  else
    let out := m / 10 ^ (s.natAbs - 1) % 10
    let v := m / 10 ^ s.natAbs + if 10 ≤ out + q then 1 else 0
    if 10 ^ d ≤ v then none else some (v, some out)

/-- The conditions of DCB, and whether one holds (R279). -/
def decimalCond (cc : Nat) : Bool := decide (cc = 0 ∨ cc = 1 ∨ (6 ≤ cc ∧ cc ≤ 9))
def intCond (cc : Nat) (a b : Int) : Bool :=
  match cc with
  | 0 => decide (a = b)
  | 1 => decide (a ≠ b)
  | 6 => decide (a < b)
  | 7 => decide (b ≤ a)
  | 8 => decide (b < a)
  | 9 => decide (a ≤ b)
  | _ => false

/-- The two's-complement value of little-endian bytes (R284). -/
def binaryValue (l : List Byte) : Int :=
  let v := leNat l
  if 2 ^ (8 * l.length - 1) ≤ v ∧ l ≠ [] then (v : Int) - 2 ^ (8 * l.length) else v

/-- A length byte of ZPK and PZN, and their zoned length (R283). -/
def zonedBad (lz : Byte) : Bool := decide (field lz 0 5 = 0 ∨ field lz 5 3 ≠ 0)
def zonedLen (lz : Byte) : Nat := field lz 0 5

/-- The bytes of ZPK and PZN. -/
def fetchZoned (second lb lz : Byte) : Op Unit := do
  fetchDecimal second lb (decide (field lb 4 4 ≠ 0))
  fetchByte lz (if zonedBad lz then some 2 else none)

/-! ### DMUL (R281) -/

/-- Whether two ranges of bytes overlap. -/
def overlaps (a n b m : Nat) : Bool := decide (a < b + m) && decide (b < a + n)

/-- The digits of DMUL from digit `i`, `left` of them to go, with a checkpoint after each but the last; the clear of the product field
belongs to the first. -/
def dmulLoop (v : CtxRegs) (n1 n2 n3 : Nat) : Nat → Nat → Op Unit
  | 0, _ => pure ()
  | left + 1, i => do
    let r ← get
    let x := v.x.toNat
    let mb := v.l + BitVec.ofNat 16 (i / 2)
    let lm ← checkField (r.operand 1) mb.toNat 1
    let ly ← checkField (r.operand 1) v.y.toNat n2
    let lx ← if i = 0 then pure [] else checkField (r.operand 1) x n1
    let locs ← checkField (r.operand 2) x n1
    let ml ← readField lm
    let ys ← readField ly
    let xs ← if i = 0 then pure (packedResult n1 0) else readField lx
    fieldOk locs
    let m := (ml.getD 0 0).toNat
    let d := if i % 2 = 0 then m / 16 else m % 16
    if 9 < d ∨ (left = 0 ∧ m % 16 < 10) then raise { ec := 0x0C, la := mb, kind := 1 }
    checkDigits v.y (badPacked ys)
    checkDigits v.x (badPacked xs)
    let mag := ((packedValue xs).natAbs * 10 + (packedValue ys).natAbs * d) % 10 ^ (2 * n1 - 1)
    let neg := decide (left = 0) && (decide (packedValue ys < 0) != decide (m % 16 = 0xB ∨ m % 16 = 0xD))
    putField locs (packedBytes n1 neg mag)
    if left = 0 then pure () else checkpoint (i + 1)
    dmulLoop v n1 n2 n3 left (i + 1)

/-! ### The instructions (Table 8.1) -/

/-- DLD: X ← Y with its sign normalised (R278). -/
def dldOp (lb : Byte) : Op Unit :=
  do
    fetchDecimal 0x00 lb
    let n1 := len1 lb
    decimalWork n1 (len2 lb) false true true noBad badPacked fun _ _ ys => do
      checkFits (2 * n1 - 1) (packedValue ys).natAbs
      pure (packedResult n1 (packedValue ys))
/-- The meaning of Dld (its operation in the context that runs). -/
def execDld (c : Core) (lb : Byte) (s : State) : Host.Outcome State Fault Refusal := instr c .A (dldOp lb) s
/-- DADD: X ← X + Y (R278). -/
def daddOp (lb : Byte) : Op Unit := sumOp 0x01 lb fun a b => a + b
/-- The meaning of Dadd (its operation in the context that runs). -/
def execDadd (c : Core) (lb : Byte) (s : State) : Host.Outcome State Fault Refusal := instr c .A (daddOp lb) s
/-- DSUB: X ← X − Y (R278). -/
def dsubOp (lb : Byte) : Op Unit := sumOp 0x02 lb fun a b => a - b
/-- The meaning of Dsub (its operation in the context that runs). -/
def execDsub (c : Core) (lb : Byte) (s : State) : Host.Outcome State Fault Refusal := instr c .A (dsubOp lb) s
/-- DMUL: the product of Y and the multiplier at L, digit by digit with checkpoints (R281). -/
def dmulOp (lb : Byte) (lm : Byte) : Op Unit :=
  do
    let ph := (← get).base.ph
    let n1 := len1 lb
    let n2 := len2 lb
    let n3 := field lm 0 4 + 1
    let k := 2 * n3 - 1
    fetchByte 0xF4 none
    fetchOpcode 0x03 false false fun _ => true
    fetchByte lb none
    fetchByte lm (if field lm 4 4 ≠ 0 ∨ 8 < n3 ∨ n1 < n2 + n3 ∨ k ≤ ph then some 2 else none)
    let v := (← get).seen
    if overlaps v.x.toNat n1 v.y.toNat n2 || overlaps v.x.toNat n1 v.l.toNat n3 then decodeFault 2
    checkFields [{ a := v.x, n := n1, kind := 2 }, { a := v.y, n := n2, kind := 1 }, { a := v.l, n := n3, kind := 1 }]
    setRegs fun _ r => r.withPh 0
    dmulLoop v n1 n2 n3 (k - ph) ph
/-- The meaning of Dmul (its operation in the context that runs). -/
def execDmul (c : Core) (lb : Byte) (lm : Byte) (stop : Option Nat) (s : State) : Host.Outcome State Fault Refusal := instr c .A (dmulOp lb lm) s stop
/-- DDIV: quotient and remainder of X by Y; an event before its store phase abandons it with nothing changed (R282, R302). -/
def ddivOp (lb : Byte) (abandoned : Bool) : Op Unit :=
  do
    let n1 := len1 lb
    let n2 := len2 lb
    let q := n1 - n2
    fetchDecimal 0x04 lb (decide (8 < n2 ∨ n1 ≤ n2))
    decimalWork n1 n2 true true true badPacked badPacked fun _ xs ys => do
      let a := packedValue xs
      let b := packedValue ys
      if b = 0 then pcFault 0x0E
      checkFits (2 * q - 1) (a.natAbs / b.natAbs)
      if abandoned then throw .abandon
      pure (packedResult q (a.tdiv b) ++ packedResult n2 (a.tmod b))
/-- The meaning of Ddiv (its operation in the context that runs). -/
def execDdiv (c : Core) (lb : Byte) (abandoned : Bool) (s : State) : Host.Outcome State Fault Refusal := instr c .A (ddivOp lb abandoned) s
/-- DSHR: the digits of X shift by s, rounded to the right (R280). -/
def dshrOp (lb : Byte) (sh : Byte) : Op Unit :=
  do
    let n1 := len1 lb
    let q := field lb 0 4
    let d := sh.toInt
    fetchDecimal 0x05 lb (decide (9 < q))
    fetchByte sh (if d < -31 ∨ 31 < d then some 2 else none)
    decimalWork n1 0 true false true badPacked noBad fun _ xs _ => do
      let v := packedValue xs
      match shiftDigits (2 * n1 - 1) v.natAbs d q with
      | none => pcFault 0x0D
      | some (m, cd) =>
        match cd with
        | some c => setCd c
        | none => pure ()
        pure (packedBytes n1 (decide (v < 0)) m)
/-- The meaning of Dshr (its operation in the context that runs). -/
def execDshr (c : Core) (lb : Byte) (sh : Byte) (s : State) : Host.Outcome State Fault Refusal := instr c .A (dshrOp lb sh) s
/-- DCB: branch if X cc Y, signed (R279). -/
def dcbOp (lb : Byte) (bw : Half) : Op Unit :=
  do
    fetchDecimal 0x06 lb
    fetchBranch bw decimalCond
    decimalWork (len1 lb) (len2 lb) true true false badPacked badPacked fun _ xs ys => do
      branchIf (intCond (branchCond bw) (packedValue xs) (packedValue ys)) (branchDisp bw)
      pure []
/-- The meaning of Dcb (its operation in the context that runs). -/
def execDcb (c : Core) (lb : Byte) (bw : Half) (s : State) : Host.Outcome State Fault Refusal := instr c .A (dcbOp lb bw) s
/-- ZPK: the zoned digits at Y in packed X, minus when CD is not 0 (R283). -/
def zpkOp (lb : Byte) (lz : Byte) : Op Unit :=
  do
    let n := len2 lb
    fetchZoned 0x07 lb lz
    decimalWork n (zonedLen lz) false true true noBad badZoned fun v _ ys => do
      checkFits (2 * n - 1) (zonedValue ys)
      pure (packedBytes n (decide (v.cd ≠ 0)) (zonedValue ys))
/-- The meaning of Zpk (its operation in the context that runs). -/
def execZpk (c : Core) (lb : Byte) (lz : Byte) (s : State) : Host.Outcome State Fault Refusal := instr c .A (zpkOp lb lz) s
/-- PZN: the magnitude of Y in zoned X, CD its sign (R283). -/
def pznOp (lb : Byte) (lz : Byte) : Op Unit :=
  do
    let nz := zonedLen lz
    fetchZoned 0x08 lb lz
    decimalWork nz (len2 lb) false true true noBad badPacked fun _ _ ys => do
      let v := packedValue ys
      checkFits nz v.natAbs
      setCd (if v < 0 then 1 else 0)
      pure (zonedBytes nz v.natAbs)
/-- The meaning of Pzn (its operation in the context that runs). -/
def execPzn (c : Core) (lb : Byte) (lz : Byte) (s : State) : Host.Outcome State Fault Refusal := instr c .A (pznOp lb lz) s
/-- DTOB: packed Y in binary X, two's complement (R284). -/
def dtobOp (lb : Byte) : Op Unit :=
  do
    let n1 := len1 lb
    fetchDecimal 0x09 lb (decide (8 < n1))
    decimalWork n1 (len2 lb) false true true noBad badPacked fun _ _ ys => do
      let v := packedValue ys
      if v < -2 ^ (8 * n1 - 1) ∨ 2 ^ (8 * n1 - 1) ≤ v then pcFault 0x0D
      pure (leBytes n1 (v % 2 ^ (8 * n1)).toNat)
/-- The meaning of Dtob (its operation in the context that runs). -/
def execDtob (c : Core) (lb : Byte) (s : State) : Host.Outcome State Fault Refusal := instr c .A (dtobOp lb) s
/-- BTOD: binary Y in packed X (R284). -/
def btodOp (lb : Byte) : Op Unit :=
  do
    let n1 := len1 lb
    fetchDecimal 0x0A lb (decide (8 < len2 lb))
    decimalWork n1 (len2 lb) false true true noBad noBad fun _ _ ys => do
      checkFits (2 * n1 - 1) (binaryValue ys).natAbs
      pure (packedResult n1 (binaryValue ys))
/-- The meaning of Btod (its operation in the context that runs). -/
def execBtod (c : Core) (lb : Byte) (s : State) : Host.Outcome State Fault Refusal := instr c .A (btodOp lb) s
/-- DUS: unsigned Y in signed packed X (R285). -/
def dusOp (lb : Byte) : Op Unit :=
  do
    let n1 := len1 lb
    fetchDecimal 0x0B lb
    decimalWork n1 (len2 lb) false true true noBad badUnsigned fun _ _ ys => do
      checkFits (2 * n1 - 1) (unsignedValue ys)
      pure (packedBytes n1 false (unsignedValue ys))
/-- The meaning of Dus (its operation in the context that runs). -/
def execDus (c : Core) (lb : Byte) (s : State) : Host.Outcome State Fault Refusal := instr c .A (dusOp lb) s
/-- UADD: unsigned X ← X + Y + CD, CD the carry (R286). -/
def uaddOp (lb : Byte) : Op Unit :=
  do
    let n1 := len1 lb
    fetchDecimal 0x0C lb (decide (n1 < len2 lb))
    decimalWork n1 (len2 lb) true true true badUnsigned badUnsigned fun v xs ys => do
      let t := unsignedValue xs + unsignedValue ys + v.cd
      setCd (t / 10 ^ (2 * n1))
      pure (unsignedBytes n1 (t % 10 ^ (2 * n1)))
/-- The meaning of Uadd (its operation in the context that runs). -/
def execUadd (c : Core) (lb : Byte) (s : State) : Host.Outcome State Fault Refusal := instr c .A (uaddOp lb) s
/-- USUB: unsigned X ← X − Y − CD, CD the borrow (R286); where t + 10^(2n1) is still negative the digits are a free value (log 12). -/
def usubOp (lb : Byte) : Op Unit :=
  do
    let n1 := len1 lb
    let top := 10 ^ (2 * n1)
    fetchDecimal 0x0D lb (decide (n1 < len2 lb))
    decimalWork n1 (len2 lb) true true true badUnsigned badUnsigned fun v xs ys => do
      let x := unsignedValue xs
      let t := unsignedValue ys + v.cd
      setCd (if x < t then 1 else 0)
      pure (unsignedBytes n1 (
        if t ≤ x then x - t else if t ≤ x + top then x + top - t else Config.deepBorrow x (unsignedValue ys) v.cd % top))
/-- The meaning of Usub (its operation in the context that runs). -/
def execUsub (c : Core) (lb : Byte) (s : State) : Host.Outcome State Fault Refusal := instr c .A (usubOp lb) s
end Sys2Proof.Machine
end

