-- ==== Sys2Proof/Machine/Micro.lean ====
section
/-! DEFINITION. Microwords (R107 to R131): fields, operands, the ALU, conditions, mailbox, bus and channel I/O, sequencing, and the
pulse inputs (R128, R708, R709). -/

namespace Sys2Proof.Machine

/-! ### Fields (Table 4.2) -/

/-- The fields of a microword. -/
structure MWord where
  next : BitVec 11
  seq : Nat
  cond : Nat
  wait : Bool
  srcA : Nat
  srcB : Nat
  dst : Nat
  alu : Nat
  shift : Nat
  mem : Nat
  ioop : Nat
  trap : Nat
  upd : Bool
  sat : Bool
  clrAcc : Bool
  sf : Bool
  cf : Bool
  uf : Nat
  const : Word
  deriving DecidableEq, Repr

/-- The fields of 96 bits (Table 4.2). -/
def mword (w : BitVec 96) : MWord :=
  { next := BitVec.ofNat 11 (field w 85 11), seq := field w 82 3, cond := field w 77 5, wait := bit w 76, srcA := field w 70 6
    srcB := field w 64 6, dst := field w 58 6, alu := field w 53 5, shift := field w 50 3, mem := field w 47 3, ioop := field w 44 3
    trap := field w 40 4, upd := bit w 39, sat := bit w 38, clrAcc := bit w 37, sf := bit w 36, cf := bit w 35, uf := field w 32 3
    const := w.setWidth 32 }

/-- A reserved value of SEQ, ALU, SHIFT, MEM, IOOP or TRAPCTL, a CALL on a full micro-stack, a RET on an empty one, a RETT outside a
handler (R112, Tables 4.3 and 4.9). -/
def EngineSt.illegal (e : EngineSt) (w : MWord) : Bool :=
  decide (w.seq = 7) || decide (28 ≤ w.alu) || decide (w.shift = 7) || decide (6 ≤ w.mem) || decide (w.ioop = 7) || decide (7 ≤ w.trap) ||
    (decide (w.seq = 3) && decide (4 ≤ e.stack.length)) || (decide (w.seq = 4) && e.stack.isEmpty) ||
    (decide (w.trap = 4) && !e.inHandler)

/-! ### Operands (Table 4.1, R108) -/

/-- ESTAT. -/
def EngineSt.estat (e : EngineSt) : Word :=
  BitVec.ofNat 32 (e.pending.toNat + b2n e.inHandler * 2 ^ 8 + b2n e.masked * 2 ^ 9 + b2n e.event * 2 ^ 10 + b2n e.postMortem * 2 ^ 11)

/-- The value of microregister `r` (Table 4.1). -/
def State.mreg (s : State) (n : Chan) (r : Nat) : Word :=
  let e := s.eng n
  if h : r < 48 then e.g[r]
  else match r with
  | 48 => (s.resQueue n).headD 0
  | 49 => e.qcnt
  | 50 => e.qtim
  | 51 => e.tick
  | 52 => s.reg (Reg.ceHparam n.val)
  | 53 => e.estat
  | 54 => e.loop.setWidth 32
  | 55 => 0
  | _ => e.mc[Fin.ofNat 8 (r - 56)]

/-- What reading the operands does: RES pops one result or sets RESUND, HOSTP clears its condition (R107, R108). -/
def State.readSide (s : State) (n : Chan) (w : MWord) : State :=
  let names (r : Nat) : Bool := decide (w.srcA = r) || decide (w.srcB = r)
  let s :=
    if ¬ names 48 then s
    else if (s.resQueue n).isEmpty then s.setBits (Reg.ceStat n.val) 0x10
    else s.modCnv (cnvOf n) fun c => { c with
      queues := c.queues.set (Fin.ofNat 4 n.val) ((c.queues[Fin.ofNat 4 n.val]).drop 1) }
  if names 52 then s.modEng n fun e => { e with hostp := false } else s

/-! ### The ALU (Table 4.5, R113) -/

/-- What the ALU gives: the result before SHIFT, carry and overflow where the operation has them, and the new ACC of an accumulator
operation with its overflow. -/
structure AluOut where
  res : Word
  carry : Option Bool := none
  ovf : Option Bool := none
  acc : Option (BitVec 64 × Bool) := none
  deriving DecidableEq, Repr

/-- A sum with its carry and signed overflow; SAT saturates. -/
def addOut (a b : Word) (cin sat : Bool) : AluOut :=
  let u := a.toNat + b.toNat + b2n cin
  let i := a.toInt + b.toInt + b2n cin
  let ovf := decide (i < -2147483648 ∨ 2147483647 < i)
  { res := if ovf && sat then (if i < 0 then 0x80000000 else 0x7FFFFFFF) else BitVec.ofNat 32 u
    carry := some (decide (2 ^ 32 ≤ u)), ovf := some ovf }

/-- A difference A − B − 1 + C: the sum with B inverted, so that C is "no borrow". -/
def subOut (a b : Word) (cin sat : Bool) : AluOut := addOut a (~~~ b) cin sat

/-- ACC after an exact value: wrapped, or saturated with SAT (R113). -/
def accOut (v : Int) (sat : Bool) : BitVec 64 × Bool :=
  let ovf := decide (v < -(2 ^ 63) ∨ 2 ^ 63 - 1 < v)
  (if ovf && sat then (if v < 0 then BitVec.ofInt 64 (-(2 ^ 63)) else BitVec.ofInt 64 (2 ^ 63 - 1)) else BitVec.ofInt 64 v, ovf)

/-- The ALU operations (Table 4.5). -/
def alu (op : Nat) (a b k : Word) (c sat : Bool) (acc : BitVec 64) : AluOut :=
  match op with
  | 0x00 => { res := a }
  | 0x01 => { res := b }
  | 0x02 => addOut a b false sat
  | 0x03 => addOut a b c sat
  | 0x04 => subOut a b true sat
  | 0x05 => subOut a b c sat
  | 0x06 => { res := a &&& b }
  | 0x07 => { res := a ||| b }
  | 0x08 => { res := a ^^^ b }
  | 0x09 => { res := ~~~ a }
  | 0x0A => { res := BitVec.ofInt 32 (a.toInt * b.toInt) }
  | 0x0B => { res := BitVec.ofInt 32 (a.toInt * b.toInt / 2 ^ 32) }
  | 0x0C => { res := BitVec.ofNat 32 (a.toNat * b.toNat / 2 ^ 32) }
  | 0x0D => let x := accOut (acc.toInt + a.toInt * b.toInt) sat; { res := x.1.setWidth 32, acc := some x }
  | 0x0E => let x := accOut (acc.toInt - a.toInt * b.toInt) sat; { res := x.1.setWidth 32, acc := some x }
  | 0x0F => { res := acc.setWidth 32 }
  | 0x10 => { res := (acc >>> 32).setWidth 32 }
  | 0x11 => { res := b, acc := some (BitVec.ofNat 64 (a.toNat * 2 ^ 32 + b.toNat), false) }
  | 0x12 => { res := if a.toInt ≤ b.toInt then a else b }
  | 0x13 => { res := if a.toInt ≤ b.toInt then b else a }
  | 0x14 =>
    let ovf := decide (a = 0x80000000)
    { res := if ovf then (if sat then 0x7FFFFFFF else a) else if a.toInt < 0 then -a else a, ovf := some ovf }
  | 0x15 => { res := k }
  | 0x16 => addOut a k false sat
  | 0x17 => subOut a k true sat
  | 0x18 => { res := a &&& k }
  | 0x19 => { res := a ||| k }
  | 0x1A => subOut a b true sat
  | _ => subOut a k true sat

/-- SHIFT (Table 4.6). -/
def mshift (op : Nat) (v b : Word) : Word :=
  let k := field b 0 5
  match op with
  | 1 => v <<< 1
  | 2 => v >>> 1
  | 3 => v.sshiftRight 1
  | 4 => v <<< k
  | 5 => v >>> k
  | 6 => v.sshiftRight k
  | _ => v

/-- The latch that UPD loads: Z and N from the shifted result, or from ACC for MAC, MSU and ACCLD with C cleared (R113). A carry or an
overflow that the operation does not have is a free value. -/
def latchOf (o : AluOut) (r : Word) (free : Word) : Latch :=
  match o.acc with
  | some (x, ovf) => { z := decide (x = 0), n := x.msb, c := false, v := ovf }
  | none => { z := decide (r = 0), n := r.msb, c := o.carry.getD (bit free 0), v := o.ovf.getD (bit free 1) }

/-! ### The bus (R30, R114) -/

/-- The oldest bus write of engine `n` takes place; a bus error raises micro-trap 0 (R114). -/
def State.wqDrain (s : State) (n : Chan) : State :=
  match (s.eng n).wq with
  | [] => s
  | (a, v) :: rest =>
    let s := s.modEng n fun e => { e with wq := rest }
    match s.writeError (.ce n) a.toNat .word with
    | some kind => (s.busError (.ce n) a.toNat true .word kind false).raiseTrap n 0
    | none => s.commitWord false (.ce n) a.toNat v

/-- Every queued bus write of engine `n` takes place. -/
def State.wqDrainAll (s : State) (n : Chan) : State := s.each (s.eng n).wq fun s _ => s.wqDrain n

/-- A 32-bit read by engine `n`: the value, and whether it failed (R114). -/
def State.engineRead (s : State) (n : Chan) (a : Nat) : State × Word × Bool :=
  match s.readError (.ce n) a .word with
  | some kind => (s.busError (.ce n) a false .word kind false, 0, true)
  | none =>
    if region a = .dev then
      let (s, v) := s.readWhole (.ce n) a
      (s, v, false)
    else (s, BitVec.ofNat 32 (leNat (bytesAt (physByte s (.ce n)) a 4)), false)

/-! ### The effects of a word -/

/-- A microregister written; what Table 4.1 marks as discarded has no effect. -/
def EngineSt.put (e : EngineSt) (r : Nat) (v : Word) : EngineSt :=
  if h : r < 48 then { e with g := e.g.set r v } else if r = 54 then { e with loop := v.setWidth 16 } else e

/-- MEM but for BUSRD: mailbox and queued writes (Table 4.7, R127); in post-mortem BUSWR has no effect (R125). -/
def State.memOp (s : State) (n : Chan) (w : MWord) (a b : Word) : State :=
  let i : Fin 16 := Fin.ofNat 16 (field w.const 0 4)
  let mbw (s : State) : State := s.modEng n fun e => { e with back := e.back.set i b }
  let pub (s : State) : State :=
    let s := s.modEng n fun e => { e with front := e.back, back := e.front }
    (s.setReg (Reg.ceMbseq n.val) (s.reg (Reg.ceMbseq n.val) + 1)).setBits (Reg.ceEvt n.val) 2
  match w.mem with
  | 1 => mbw s
  | 2 => pub s
  | 4 => if (s.eng n).postMortem then s else s.modEng n fun e => { e with wq := e.wq ++ [(a + w.const, b)] }
  | 5 => pub (mbw s)
  | _ => s

/-- IOOP (Table 4.8); in post-mortem INC, CNVREQ and URGENT have no effect (R125). -/
def State.ioOp (s : State) (n : Chan) (w : MWord) (b r : Word) : State :=
  let pm := (s.eng n).postMortem
  match w.ioop with
  | 1 => if pm then s else (s.modEng n fun e => { e with seqdone := false }).cnvStart (cnvOf n) (.engines [n])
  | 2 =>
    if pm then s
    else if field b 0 4 = 0 then s.setBits (Reg.ceStat n.val) 8
    else s.modEng n fun e => { e with incs := e.incs ++ [{ rev := bit b 4, count := b.setWidth 4 }] }
  | 3 => s.modEng n fun e => { e with qcnt := e.count, qtim := e.edgeTick, qedge := false }
  | 4 => if pm then s else s.urgent (cnvOf n) (field b 0 4)
  | 5 => s.setReg (Reg.ceEvt n.val) ((s.reg (Reg.ceEvt n.val) &&& 0xF) ||| 8 ||| BitVec.ofNat 32 (field b 0 8 * 256))
  | 6 => s.modEng n fun e => { e with cmp := r, tcmph := false }
  | _ => s

/-- TRAPCTL but for RETT (Table 4.9). -/
def EngineSt.trapCtl (e : EngineSt) (op : Nat) (debug : Bool) : EngineSt :=
  match op with
  | 1 => { e with masked := true }
  | 2 => { e with masked := false }
  | 3 => e.pend 5
  | 5 => if debug then e.pend 4 else e
  | 6 => { e with armed := true }
  | _ => e

/-- FLAGS.SF and CF: set, clear, or toggle the named user flag. -/
def setUf (u : Byte) (w : MWord) : Byte :=
  let m : Byte := BitVec.ofNat 8 (2 ^ w.uf)
  if w.sf && w.cf then u ^^^ m else if w.sf then u ||| m else if w.cf then u &&& ~~~ m else u

/-- Whether the word writes DST with the ALU result. -/
def MWord.writesAlu (w : MWord) : Bool := decide (w.mem ≠ 3 ∧ w.alu ≠ 0x1A ∧ w.alu ≠ 0x1B)

/-- Whether the word itself writes LOOP: its value then stands against the LOOP form's own count, which the spec does not order (log 78). -/
def MWord.writesLoop (w : MWord) : Bool := decide (w.dst = 54) && (decide (w.mem = 3) || w.writesAlu)

/-- SEQ: the next micro-PC and the micro-stack (Table 4.3); `e0` is the engine before the word. -/
def EngineSt.sequence (e e0 : EngineSt) (w : MWord) (a : Word) (taken : Bool) : EngineSt :=
  let inc := e0.upc + 1
  match w.seq with
  | 1 => { e with upc := w.next }
  | 2 => { e with upc := if taken then w.next else inc }
  | 3 => { e with upc := w.next, stack := inc :: e.stack }
  | 4 => { e with upc := e.stack.headD 0, stack := e.stack.drop 1 }
  | 5 => { e with upc := if e0.loop ≠ 0 then w.next else inc, loop := if e0.loop ≠ 0 ∧ ¬ w.writesLoop then e0.loop - 1 else e.loop }
  | 6 => { e with upc := (w.next &&& 0x7F0) ||| (a.setWidth 11 &&& 0xF) }
  | _ => { e with upc := inc }

/-- RETT restores the shadow (R121); it takes 3 ec. -/
def EngineSt.rett (e : EngineSt) : EngineSt :=
  let h := e.shadow
  let e := e.elapse 2
  { e with
    upc := h.upc, latch := h.latch, inHandler := false, runst := .run
    g := (((e.g.set 0 h.w[0]).set 1 h.w[1]).set 2 h.w[2]).set 3 h.w[3] }

/-- A word that completes: all its fields together, its own updates at its end (R111, R119). `taken` is COND as it stood before. In
post-mortem RETT, or the 256th ec, halts the engine (R125). -/
def State.completeWord (s : State) (n : Chan) (w : MWord) : State :=
  let e0 := s.eng n
  let a := s.mreg n w.srcA
  let b := s.mreg n w.srcB
  let taken := s.condHolds n w.cond
  let debug := s.debugOn
  let o := alu w.alu a b w.const e0.latch.c w.sat e0.acc
  let r := mshift w.shift o.res b
  let free := Config.freeWord s.free
  let s := if w.upd && o.acc.isNone && (o.carry.isNone || o.ovf.isNone) then s.nextFree else s
  let s := s.readSide n w
  let s := if w.cond = 0x1E ∧ (w.wait ∨ w.seq = 2) ∧ taken then s.modEng n fun e => { e with trige := false } else s
  let (s, d, failed) : State × Word × Bool := if w.mem = 3 then s.engineRead n (a + w.const).toNat else (s, r, false)
  let s := (s.memOp n w a b).ioOp n w b r
  let s := s.modEng n fun e =>
    let e := e.issuing
    let e := if w.mem = 3 ∨ w.writesAlu then e.put w.dst d else e
    let e := { e with
      acc := if w.clrAcc then 0 else match o.acc with | some x => x.1 | none => e.acc
      latch := if w.upd then latchOf o r free else e.latch, uf := setUf e.uf w }
    let e := if failed then e.pend 0 else e
    let e := match o.acc with | some (_, true) => if w.sat then e else e.pend 2 | _ => e
    let e := (e.sequence e0 w a taken).trapCtl w.trap debug
    let e := if w.trap = 4 then e.rett else e
    e.elapse 1
  if (s.eng n).postMortem ∨ e0.postMortem then
    if w.trap = 4 ∨ (s.eng n).pmLeft = 0 then s.postMortemHalt n else s
  else s.modEng n EngineSt.takePending

/-- Whether a word waits for room: a BUSWR or an INC that finds its queue full, but for post-mortem (R115, R125). -/
def State.wantsRoom (s : State) (n : Chan) (w : MWord) : Bool :=
  let e := s.eng n
  !e.postMortem && ((decide (w.mem = 4) && decide (4 ≤ e.wq.length)) ||
    (decide (w.ioop = 2) && decide (field (s.mreg n w.srcB) 0 4 ≠ 0) && decide (8 ≤ e.incs.length)))

/-- The cases of Table 4.10 that a STRICT engine traps on (R117). -/
def State.strictCase (s : State) (n : Chan) (w : MWord) : Bool := w.wait || decide (w.mem = 3) || s.wantsRoom n w

/-- The word is held (R119): RUNST is WAIT until it completes. -/
def State.holdWord (s : State) (n : Chan) (d : BitVec 96) : State :=
  s.modEng n fun e => ({ e with runst := .wait, heldWord := some d } : EngineSt).takePending

/-- A fetched word, by its timing (R112, R117). -/
def State.issueWord (s : State) (n : Chan) (d : BitVec 96) : State :=
  let w := mword d
  let e := s.eng n
  if e.illegal w then s.trapIllegal n
  else if ¬ e.event ∧ s.strictCase n w then s.trapStrict n
  else if (w.wait ∧ ¬ s.condHolds n w.cond) ∨ w.mem = 3 ∨ s.wantsRoom n w then s.holdWord n d
  else s.completeWord n w

/-- MICROWORD: the engine fetches a word, corrects a single-bit error with one ec of stall or faults on a double one (R117, R129, R144),
and executes it. More than two flipped bits count as a double error, and a double error in post-mortem halts the engine with the code it
has (log 78). -/
def execMicroword (n : Chan) (s : State) : Host.Outcome State Fault Refusal :=
  let e := s.eng n
  if ¬ s.engineClocked ∨ ¬ e.runst.active ∨ e.heldWord.isSome then .next s
  else
    let w := e.word e.upc
    if w.errors = 0 then .next (s.issueWord n w.data)
    else if w.errors = 1 then
      let s := (s.csCorrect n e.upc).modEng n fun e => e.elapse 1
      .next (if (s.eng n).pmSpent then s.postMortemHalt n else s.issueWord n w.data)
    else if e.postMortem then .next (s.postMortemHalt n)
    else .next (s.engineFault n 1 false)

/-- MICRO_HELD_COMPLETE: a held word whose condition is true, whose queue has room or whose read is done takes its effect (R119). The
engine's bus writes go out in order before its read. -/
def execMicroHeldComplete (n : Chan) (s : State) : Host.Outcome State Fault Refusal :=
  let e := s.eng n
  match e.heldWord with
  | none => .next s
  | some d =>
    if ¬ s.engineClocked ∨ ¬ e.runst.active then .next s
    else
      let w := mword d
      let s := if w.mem = 3 then s.wqDrainAll n else if w.mem = 4 then s.wqDrain n else s
      let s := s.modEng n EngineSt.takePending
      if (s.eng n).heldWord.isNone ∨ (w.wait ∧ ¬ s.condHolds n w.cond) ∨ s.wantsRoom n w then .next s
      else .next (s.completeWord n w)

/-- TICK_COMPARE: TICK reaches the compare value, and a queued bus write may have gone out meanwhile (R114, R120). -/
def execTickCompare (n : Chan) (s : State) : Host.Outcome State Fault Refusal :=
  if ¬ s.engineClocked then .next s
  else
    let s := (s.wqDrain n).modEng n fun e => e.elapse ((e.cmp - e.tick - 1).toNat + 1)
    .next (if (s.eng n).pmSpent then s.postMortemHalt n else s.modEng n EngineSt.takePending)

/-! ### Pulse inputs (R128, R708, R709) -/

/-- The step of a quadrature pair of levels: QAn leading QBn counts up (PRESUMED, log 25). -/
def quadStep (a b a' b' : Bool) : Int :=
  if a ≠ a' ∧ b ≠ b' then 0
  else if a ≠ a' then (if a' = b' then -1 else 1)
  else if b ≠ b' then (if a' = b' then 1 else -1)
  else 0

/-- What a change of levels counts by QMODE (R128). -/
def EngineSt.pulseCount (e : EngineSt) (a b : Bool) : Int :=
  let rise := a && !e.qa
  match e.qmode.toNat with
  | 1 => if rise then 1 else 0
  | 2 => quadStep e.qa e.qb a b
  | 3 => if rise then (if b then -1 else 1) else 0
  | _ => 0

/-- PULSE_LEVEL_CHANGE: the filtered levels of QAn and QBn; both changing in quadrature set QERR and count nothing. In Ice the counters
stop. -/
def execPulseLevelChange (n : Chan) (a b : Bool) (s : State) : Host.Outcome State Fault Refusal :=
  let e := s.eng n
  let k := e.pulseCount a b
  let err := decide (e.qmode = 2) && decide (e.qa ≠ a) && decide (e.qb ≠ b)
  let s := s.modEng n fun e => { e with qa := a, qb := b }
  if s.power.stage = .off ∨ 7 ≤ s.power.entry then .next s
  else if err then .next (s.setBits (Reg.ceStat n.val) 0x20)
  else if k = 0 then .next s
  else .next (s.modEng n fun e => { e with count := e.count + BitVec.ofInt 32 k, edgeTick := e.tick, qedge := true })

end Sys2Proof.Machine
end

