-- ==== Sys2Proof/Machine/Resets.lean ====
section
/-! DEFINITION. Starts, resets and power failure (spec/19), and the completion of a wake (R630, R631). -/

namespace Sys2Proof.Machine

/-! ### What a reset leaves (Table 19.4) -/

/-- The CLK/PWR block and the RTC alarm, which lie in the always-on domain (R645, R761). -/
def alwaysOnReg (a : Nat) : Bool := decide (a / 0x10000 = 0x0401) || decide (a = Reg.rtcAlarm) || decide (a = Reg.rtcActl)

/-- The registers that a device reset keeps: those of the always-on domain but for CP_CTRL and PWR_IEN, and Tarn's mailbox. -/
def deviceKeepReg (a : Nat) : Bool :=
  (alwaysOnReg a && !decide (a = Reg.cpCtrl) && !decide (a = Reg.pwrIen)) || decide (a / 0x10000 = 0x040A)

/-- An engine as a reset leaves it: held, with the digest that Tarn recorded and the histories of its unit. -/
def EngineSt.afterReset (e : EngineSt) : EngineSt :=
  { digest := e.digest, copy1 := e.copy1, faultTimes := e.faultTimes, corrTimes := e.corrTimes, qa := e.qa, qb := e.qb }

/-- A converter as a reset leaves it; a permanent fault stays (R189). -/
def CnvSt.afterReset (c : CnvSt) : CnvSt :=
  { state := if c.state = .permFault then .permFault else .off, fcause := if c.state = .permFault then c.fcause else 0
    faultTimes := c.faultTimes }

/-- A port as a reset leaves it; a failed one stays failed (R493). -/
def PortSt.afterReset (x : PortSt) : PortSt :=
  { state := if x.state = .failed then .failed else .dry, eccTimes := x.eccTimes, clockFails := x.clockFails }

/-- Wellhead as a reset leaves it: its log, its saved state and its latches; after VIN these are inactive (Table 19.4, R602). -/
def WellSt.afterReset (w : WellSt) (vin : Bool) : WellSt :=
  { failedIn := if vin then Vector.replicate 8 false else w.failedIn, replN := !vin && w.replN
    notices := if vin then [] else w.notices, latched := if vin then [] else w.latched, clkEvents := if vin then [] else w.clkEvents
    logSeq := w.logSeq, copies := w.copies, lim := w.lim }

/-- The side ports as a reset leaves them (R728): pin levels stay, and the latched RTC_FRAC, whose reset value is K (Table 22.2). -/
def SideSt.afterReset (x : SideSt) : SideSt :=
  { gpIn := x.gpIn, trig := x.trig, tap := x.tap, scanLogged := x.scanLogged, fracLatch := x.fracLatch }

/-- The blocks outside Tarn and the always-on domain are reset; the registers that `keep` names keep their values (Table 19.4, R49). -/
def State.resetBlocks (s : State) (keep : Nat → Bool) (vin : Bool) : State :=
  let s := s.qspiLost.nargaLost
  { s with
    regs := s.regs.filter fun e => keep e.1
    holders := Vector.replicate 65 {}
    berrCnt := 0
    cores := s.cores.map CoreSt.afterReset
    keyBad := []
    engines := s.engines.map EngineSt.afterReset
    cnvs := s.cnvs.map CnvSt.afterReset
    ports := s.ports.map PortSt.afterReset
    mesh := { node := s.mesh.node, epoch := s.mesh.epoch }
    well := s.well.afterReset vin
    side := s.side.afterReset }

/-! ### Starts (R662, R668) -/

/-- The power and clock state as a start begins, at VIN valid or at a wake from Ice. -/
def PowerSt.atStart (p : PowerSt) (cause : Byte) : PowerSt :=
  { p with
    ps := 0, pend := 0, refuse := 0, entry := 0, waking := none, xin := false, rco := true, spll := false, cpll := false, tpll := false,
    fovr := false, spllOnce := false, refFault := false, eclkStopped := false, stage := .vcore, pfail := false, pfailLine := false,
    holdRun := false, xinAbsent := false, startCause := cause, starts := p.starts + 1, enginesOut := false, imageOk := false,
    slotsRun := Vector.replicate 3 none, springLog := [], rtcRco := if cause = 1 then !p.xrtc else p.rtcRco }

/-- A start begins (R662, R668, R669): everything volatile is rebuilt, sealed journal records are applied (R450), the RTC restarts from
Tarn's last save after VIN. NVL_STAT and NVL_HOLD are CLK/PWR registers: reset after VIN alone (Table 19.4). -/
def State.beginStart (s : State) (cause : Byte) : State :=
  let vin := decide (cause = 1)
  let s := s.resetBlocks (fun a => !vin && alwaysOnReg a) vin
  let s := { s with rtc := if vin then s.tarn.savedRtc else s.rtc }.modPower fun p => p.atStart cause
  let s := s.modTarn fun t => { t with running := false, notices := [] }
  let s := s.modSide fun x => { x with tap := 2, scanLogged := false }
  (s.modNvla fun n =>
    if vin then { n with gmax := 0, holdOk := false, centiUF := 0, microJ := 0, tested := false, measured := false }
    else { n with tested := false }).journalStart

/-- VIN_VALID (R662, R677): cause BROWNOUT while the always-on domain still runs from HOLD, else VIN. In Ice after a PFAIL the part stays
in Ice, fed again (R678). VCORE is valid with it unless BUCK_RETRY says otherwise (R686). -/
def execVinValid (boot : BitVec 2) (s : State) : Host.Outcome State Fault Refusal :=
  if s.power.stage = .off then
    .next ((s.beginStart (if s.power.holdRun then 2 else 1)).modPower fun p => { p with boot })
  else if s.power.pfail ∧ 7 ≤ s.power.entry then .next (s.modPower fun p => { p with pfail := false })
  else .next s

/-- BUCK_RETRY: VCORE fails or becomes valid; the timeline waits at step 3, and Tarn may have left reset meanwhile (R686). -/
def execBuckRetry (valid : Bool) (s : State) : Host.Outcome State Fault Refusal :=
  if valid then
    if s.power.stage = .vin then .next (s.modPower fun p => { p with stage := if s.tarnOn then .tarn else .vcore }) else .next s
  else if (s.power.stage = .vcore ∨ s.power.stage = .tarn) ∧ ¬ s.power.spllOnce then .next (s.modPower fun p => { p with stage := .vin })
  else .next s

/-- XIN_ABSENT: 041Ch once per start (R685). -/
def execXinAbsent (s : State) : Host.Outcome State Fault Refusal :=
  let p := s.power
  if (p.stage = .vin ∨ p.stage = .vcore ∨ p.stage = .tarn) ∧ ¬ p.xin ∧ ¬ p.xinAbsent ∧ s.tarnOn then
    .next ((s.modPower fun p => { p with xinAbsent := true }).tlog 0x041C 0xFF 0 [])
  else .next s

/-! ### Spring (R665 to R667, R611, R612, R701, R702, R727) -/

/-- What discovery finds (R701, R702, R727). -/
def State.discover (s : State) (f : FlashAnswer) : State :=
  match f with
  | .silent => s.modQspi fun q => { q with ready := false, sfdp := false, silent := true }
  | .noSfdp =>
    (s.modQspi fun q => { q with ready := true, sfdp := false, silent := false, log2 := 24, mode := 0, erase64 := false }).modPower
      fun p => { p with springLog := p.springLog ++ [(0x0911, [])] }
  | .sfdp log2 mode erase64 =>
    s.modQspi fun q => { q with ready := true, sfdp := true, silent := false, log2 := log2.val, mode := mode.val, erase64 }

/-- Spring's records of the directory (R609). -/
def State.directoryNote (s : State) : State :=
  if (deciding s).isNone then s.modPower fun p => { p with springLog := p.springLog ++ [(0x0A07, [])] } else s

/-- At a start every ledger-SRAM bank is filled with zeros and valid check bits (R665). -/
def State.zeroFill (s : State) : State :=
  if s.power.startCause ≤ 3 then
    { s with mem := s.mem.filter fun e => decide (0x00200000 ≤ e.1), sramHard := [], sramLost := Vector.replicate 16 none }
  else s

/-- Spring picks a slot of a type and leaves its records (R611). -/
def State.springPick (s : State) (type : Nat) : State :=
  let (slot, notes) := s.pickSlot type
  s.modPower fun p => { p with slotsRun := p.slotsRun.set (Fin.ofNat 3 (type - 1)) slot, springLog := p.springLog ++ notes }

/-- The ledger firmware slots. -/
def ledgerSlot (b : Bool) : Nat := imgAddr typeLfw b

/-- The ledger firmware of the slot picked is copied to LOAD and gives the release set (R665, R666). -/
def State.loadLedger (s : State) : State :=
  match s.power.slotsRun[(2 : Fin 3)] with
  | none => s
  | some b =>
    let a := ledgerSlot b
    let h := imageHead (flashByte s) a
    let s := s.setBytes h.load (bytesAt (flashByte s) (a + 0xC0) h.length)
    let s := s.modPower fun p => { p with
      imageOk := true, releaseEntry := h.entry, releasePbr := BitVec.ofNat 32 (h.load / 0x10000 * 0x10000) }
    s.each allCores fun s c => s.releaseSet c

/-- The line that Spring sends once per second when there is no Wellhead image (R612). -/
def State.noWellheadLine (s : State) : State := s.nargaSend 0 ["ER 400 no wellhead image"]

/-- SPRING_START: Spring's steps (R665) once SPLL has locked; in HOLD-ALL it stops after step 1 (R667). -/
def execSpringStart (flash : FlashAnswer) (s : State) : Host.Outcome State Fault Refusal :=
  let p := s.power
  if p.stage ≠ .tarn ∨ ¬ p.spll ∨ p.resetLow ∨ p.pfail then .next s
  else
    let s := s.modPower fun p => { p with stage := .spring }
    if 2 ≤ p.boot.toNat then .next s
    else
      let s := ((s.discover flash).directoryNote.zeroFill).springPick typeWfw
      if (s.power.slotsRun[(0 : Fin 3)]).isNone then .next s.noWellheadLine
      else .next (s.springPick typeLfw).loadLedger

/-! ### Release (R663, R530) -/

/-- Whether Tarn has done its start, re-signing included (R663); signing that has stopped for good holds nothing up. -/
def State.tarnReady (s : State) : Bool :=
  s.tarnOn && ((s.tarn.queue.isEmpty && !s.tarn.signing) || s.tarn.signStop || s.tarn.keyLost)

/-- The transaction layer at release (R530). -/
def State.meshRelease (s : State) : State :=
  let s := s.modMesh fun m => { m with
    tags := Vector.replicate 64 {}, cache := Vector.replicate 256 {}, doneCount := 0, bseq := 0, bcasts := [], young := true, rhead := 0 }
  let s := (s.resetRange (Reg.rtRoute 0) (Reg.rtRoute 512)).setReg Reg.txnRtail 0
  if s.nodeValid then s.setRouteEntry s.nodeId 8 else s

/-- The start record is completed with FLAGS and the epoch (R673, R685). -/
def State.finishStart (s : State) : State :=
  let r := startRecord s
  s.modArea fun t => { t with startRec := r.take 6 ++ (t.startRec.drop 6).take 10 ++ r.drop 16 }

/-- A core whose unit has failed for good stays HALTED with the cause that failed it (R412; log 24). -/
def State.releaseCore (s : State) (c : Core) : State :=
  let u := unitOf s c.val
  if u.health = .failed ∧ u.perm then
    (s.modCore c fun x => { x.afterReset with core := .halted, hcause := if u.cause = 0x0122 then 0x80 else lowByte u.cause }).noteOrphans
      (allCores.filter (orphaned s))
  else (s.releaseSet c).coreRelease c

/-- CORE_RELEASE: the ledger cores are released when R663 is met and Tarn has released the engines (R148); in HOLD-LEDGER they stay held and 0824h is logged (R667). -/
def execCoreRelease (s : State) : Host.Outcome State Fault Refusal :=
  let p := s.power
  if p.stage ≠ .wellhead ∨ p.pfail ∨ p.resetLow then .next s
  else if p.boot = 1 then
    .next (if p.enginesOut then s else (s.modPower fun p => { p with enginesOut := true }).hlog 0x0824 sevNotice 0xFF [])
  else if p.boot ≠ 0 ∨ ¬ p.imageOk ∨ ¬ s.tarnReady ∨ ¬ s.nvla.tested ∨ s.engines.any fun e => e.checking then .next s
  else
    let s := s.meshRelease.finishStart
    let s := s.each allCores fun s c => s.releaseCore c
    let s := s.modPower fun p => { p with stage := .released, releasedAt := s.us, trialBroken := false }
    .next (s.each allPorts fun s p => s.beginAttempt p)

/-! ### Device resets (R668 to R670) -/

/-- CAUSE of a device reset in the start record (Table 19.5). -/
def resetCode (c : ResetCause) : Byte := match c with | .resetN => 4 | .narga => 5 | .spll => 6

/-- What Tarn does at a device reset (R670): the engines' last increments, the closes, the event; debug ends (R717), and what waits:
every slot that is BUSY is answered REFUSED (log 80), the pin events are served. -/
def State.tarnAtReset (s : State) (cause : Byte) : State :=
  let s := s.each allChans fun s n => s.takeAll n
  let s := (s.closeAllInterrupted.tlog 0x041B 0xFF 0 [cause]).debugEnd
  (s.slotsRefused.modTarn fun t => { t with reload := none, waiting := Vector.replicate 5 none }).serveWaiting

/-- The power and clock state after a device reset: Surface, at step 5 of Table 19.1 after an SPLL loss, else at step 6. -/
def PowerSt.atReset (p : PowerSt) (cause : ResetCause) : PowerSt :=
  { p with
    ps := 0, pend := 0, refuse := 0, entry := 0, waking := none, refFault := false, eclkStopped := false, stage := .tarn
    spll := if cause = .spll then false else p.spll, startCause := resetCode cause, starts := p.starts + 1, enginesOut := false
    imageOk := false, slotsRun := Vector.replicate 3 none, springLog := [] }

/-- A device reset (R668 to R670). -/
def State.deviceReset (s : State) (cause : ResetCause) : State :=
  let s := s.tarnAtReset (resetCode cause)
  let s := s.each allCores fun s c => (s.discardGroup c).bufferReset c
  let s := (s.resetBlocks deviceKeepReg false).modPower fun p => p.atReset cause
  let s := (s.modNvla fun n => { n with tested := false, refuseOpen := false, grace := false }).writeStart
  let s := s.each allCnvs fun s u => s.copyFactors u
  let s := s.each allCnvs fun s u => if s.power.cpll && decide ((s.cnv u).state = .off) then s.calBegin u else s
  s.startEngines

/-- Whether a device reset can happen: the start has passed to Spring, no PFAIL (R681), not in Ice. -/
def State.resettable (s : State) : Bool :=
  decide (s.power.stage = .spring ∨ s.power.stage = .wellhead ∨ s.power.stage = .released) && !s.power.pfail && decide (s.power.entry < 7)

/-- RESET_N_LOW (R668, R681, R683). -/
def execResetNLow (s : State) : Host.Outcome State Fault Refusal :=
  if s.power.resetLow then .next s
  else
    let s' := s.modPower fun p => { p with resetLow := true }
    .next (if s.resettable then s'.deviceReset .resetN else s')

/-- RESET_N_HIGH: the timeline resumes; the BOOT pins are sampled at the end of a device reset (R667, R668, R683). -/
def execResetNHigh (boot : BitVec 2) (s : State) : Host.Outcome State Fault Refusal :=
  if ¬ s.power.resetLow then .next s
  else .next (s.modPower fun p => { p with
    resetLow := false, boot := if p.stage = .tarn ∧ p.startCause = 4 then boot else p.boot })

/-- DEVICE_RESET: one that its cause has asked for, with the BOOT pins sampled at its end (R556, R658, R668). -/
def execDeviceReset (cause : ResetCause) (boot : BitVec 2) (s : State) : Host.Outcome State Fault Refusal :=
  if ¬ s.resettable ∨ (cause = .narga ∧ ¬ s.narga.resetDevice) then .next s
  else .next ((s.deviceReset cause).modPower fun p => { p with boot })

/-- SPLL_UNLOCK: while XIN is valid every block that SPLL clocks is reset (R658). -/
def execSpllUnlock (s : State) : Host.Outcome State Fault Refusal :=
  if ¬ s.power.spll then .next s
  else
    let s := s.clkLost 3 0x0815
    .next (if s.power.xin ∧ s.resettable then s.deviceReset .spll else s)

/-! ### Core resets (R671, R412) -/

/-- Whether a core's resets are used up (R412, Table 11.7): the one of the last 24 h after a halt with 80h to 82h, whatever the core has done
since, or a second such halt. -/
def State.coreSpent (s : State) (c : Core) : Bool :=
  let x := s.core c
  (match x.resetUsed with | none => false | some t => decide (s.us < t + hours 24)) ||
    (decide (x.core = .halted) && severeHalt x.hcause.toNat &&
      (decide (2 ≤ (within s.us (hours 24) x.haltTimes80).length) || ((unitOf s c.val).perm && decide ((unitOf s c.val).health = .failed))))

/-- A core reset's effect: stop, registers, release set, release; a severe halt is WORN after it (R412, R671). -/
def State.resetCore (s : State) (c : Core) : State :=
  let severe := decide ((s.core c).core = .halted) && severeHalt (s.core c).hcause.toNat
  let s := (s.discardGroup c).bufferReset c
  let s := (((s.resetCoreRegs c).releaseSet c).coreRelease c).hlog 0x0823 sevNotice c.val [BitVec.ofNat 8 c.val]
  let s := s.countCoreReset c
  if severe then (s.modCore c fun x => { x with resetUsed := some s.us }).healthRecover c.val 0x0823 else s

/-- CORE_RESET: the one that Wellhead was asked for (R671, R681); R412 limits it. -/
def execCoreReset (c : Core) (s : State) : Host.Outcome State Fault Refusal :=
  if s.narga.resetCore ≠ some c then .next s
  else
    let s := s.modNarga fun n => { n with resetCore := none }
    if s.power.stage ≠ .released ∨ s.power.pfail ∨ s.coreSpent c then .next s else .next (s.resetCore c)

/-! ### Power failure (R675 to R678) -/

/-- Everything except the always-on domain goes off (Table 19.6, step 8). -/
def State.powerOff (s : State) (hold : Bool) : State :=
  let s := s.resetBlocks alwaysOnReg false
  (s.modTarn fun t => { t with running := false, signing := false, retry := false }).modPower fun p => { p with
    stage := .off, holdRun := hold, ps := 0, pend := 0, entry := 0, waking := none, spll := false, cpll := false, tpll := false,
    xin := false, fovr := false }

/-- The eight pulse counts as 0430h carries them (R678). -/
def State.pulseCounts (s : State) : List Byte := allChans.flatMap fun n => beBytes 4 (regView s .tarn (Reg.pioQcnt n.val)).toNat

/-- PFAIL from Surface to Still: line 27, 0820h, signing stops, the group grace begins, PS1 and PS2 wake (R435, R651, R676). -/
def State.pfailBegin (s : State) : State :=
  let s := s.modPower fun p => { p with pfail := true, pfailLine := true }
  let s := s.modNvla fun n => { n with grace := true, refuseOpen := true }
  let s := s.modTarn fun t => { t with signing := false, retry := false }
  (s.hlog 0x0820 sevNotice 0xFF []).wake .pfail

/-- Tarn takes every increment still queued. -/
def State.takeAllChans (s : State) : State := s.each allChans fun s n => s.takeAll n

/-- PFAIL in Shallows and Deep, or on the way there: Tarn logs 0430h with the pulse counts and the state ends (R678). -/
def State.pfailLow (s : State) : State :=
  let s := (s.takeAllChans.tlog 0x0430 0xFF 0 s.pulseCounts).modTarn fun t => { t with cleanSave := t.running }
  s.saveTotals.powerOff true

/-- PFAIL (R675, R678, R680): in Ice nothing changes. -/
def execPfail (s : State) : Host.Outcome State Fault Refusal :=
  if s.power.pfail ∨ s.power.stage = .off then .next s
  else if 7 ≤ s.power.entry then .next (s.modPower fun p => { p with pfail := true })
  else if 3 ≤ s.power.entry then .next s.pfailLow
  else .next s.pfailBegin

/-- Tarn's save (R61, R99): sessions that run end at this time, totalizers and queue are kept, 0430h is written. Before Tarn runs it saves
nothing (R680). -/
def State.pfailSave (s : State) : State :=
  if ¬ s.tarn.running then s
  else
    let s := s.modTarn fun t => { t with chans := t.chans.map fun c => if c.sess.counts then { c with endTime := s.rtc } else c }
    (s.saveTotals.tlog 0x0430 0xFF 0 []).modTarn fun t => { t with cleanSave := true }

/-- GROUP_GRACE_END: the rest of the PFAIL sequence (R435, Table 19.6): the cores stop, open groups are discarded, the engines deliver
their increments, Wellhead stops, closed groups become durable, the store buffers drain, groups are applied, Tarn saves. -/
def execGroupGraceEnd (s : State) : Host.Outcome State Fault Refusal :=
  if ¬ s.power.pfail ∨ ¬ s.nvla.grace then .next s
  else
    let s := s.each allCores fun s c => (s.dropHeld c).graceDiscard c
    let s := s.takeAllChans.modWell fun w => { w with running := false }
    let s := s.each s.nvla.closing fun s c => s.sealGroup c true
    let s := s.each allCores fun s c => s.drainAll c
    let s := s.each s.nvla.durable fun s _ => s.applyGroup
    .next (s.pfailSave.powerOff true)

/-- What Tarn had not saved is lost with its power (R61): the totalizers return to those last saved. The count still to be logged outside
a session, and what a FROZEN session has fixed, stay: DESIGN CHOICE (log 79). -/
def TarnSt.unsaved (t : TarnSt) : TarnSt :=
  { t with chans := t.chans.map fun c => { c with fwd := c.savedFwd, rev := c.savedRev, ses := c.savedSes }, cleanSave := false }

/-- A seal word that was being written as HOLD fell below 4.0 V, as the journal slot holds it: the next start checks it (R431). -/
def State.tornSeal (s : State) (torn : Option Word) : State :=
  match torn, s.nvla.closing with
  | some w, c :: _ => s.modNvla fun n => { n with
      durable := n.durable ++ [{ core := c, words := n.groups[c].words, last := n.last[c] + 1, stamp := w }] }
  | _, _ => s

/-- HOLD_RUNDOWN: HOLD falls below 4.0 V and everything stops (R677, R678, R687); what a seal word that was being written then has become is a
free value (log 17). -/
def execHoldRundown (s : State) : Host.Outcome State Fault Refusal :=
  let p := s.power
  if p.stage = .off then .next (s.modPower fun p => { p with holdRun := false })
  else if ¬ p.pfail then .next s
  else if 7 ≤ p.entry then .next (s.powerOff false)
  else .next (((s.tornSeal (Config.tornSeal s.free)).nextFree.modTarn TarnSt.unsaved).powerOff false)

/-! ### The completion of a wake (R630, R631, R634, R661) -/

/-- WAKE_COMPLETE: from Ice a start begins; from the other states the ladder is back in Surface, EVT.WOKE and 0802h tell the source and
the state left. A line that makes an IDLE context ready is a wake source of its own. -/
def execWakeComplete (s : State) : Host.Outcome State Fault Refusal :=
  let s := if s.power.waking.isNone ∧ s.lineWakes then s.wake .line else s
  match s.power.waking with
  | none => .next s
  | some (w, left) =>
    let e := s.power.entry
    let s := if 7 ≤ e then s.beginStart 3 else s.toSurface e
    let s := (s.setBits Reg.pwrEvt 2).hlog 0x0802 sevNotice 0xFF [BitVec.ofNat 8 w.bit, BitVec.ofNat 8 left]
    let s := if 6 ≤ e then s.flushLatched else s
    .next s.serveWaiting

end Sys2Proof.Machine
end

