-- ==== Sys2Proof/Machine/NargaText.lean ====
section
/-! DEFINITION. The texts of Narga's data lines (spec/15 Tables 15.2 and 15.3). The spec names the fields of each line; Example 15.2
gives the form of `ch`, and the rest is worded alike (log 9). -/

namespace Sys2Proof.Machine

/-- A number in decimal. -/
def natText (n : Nat) : String := String.ofList (Nat.toDigits 10 n)

/-- A number in hexadecimal with its suffix. -/
def hText (n v : Nat) : String := hexText n v ++ "h"

def legalText : Legal → String
  | .isIn => "IN" | .out => "OUT" | .sealedOut => "SEALED-OUT"

def sessText : Sess → String
  | .none => "NONE" | .open => "OPEN" | .stopped => "STOPPED" | .frozen => "FROZEN" | .signing => "SIGNING"

def runText : RunSt → String
  | .held => "HELD" | .run => "RUN" | .trap => "TRAP" | .wait => "WAIT" | .load => "LOAD" | .fault => "FAULT"

def healthText : Health → String
  | .good => "GOOD" | .worn => "WORN" | .failed => "FAILED"

def cnvText : CnvState → String
  | .off => "OFF" | .ready => "READY" | .run => "RUN" | .cal => "CAL" | .fault => "FAULT" | .permFault => "PERMFAULT"

def portText : PortState → String
  | .dry => "DRY" | .seep => "SEEP" | .fill => "FILL" | .level => "LEVEL" | .flow => "FLOW" | .quarantine => "QUARANTINE" | .failed => "FAILED"

def cnvName (u : Cnv) : String := if u = 0 then "a" else "b"

/-- `on` or `off`. -/
def onText (b : Bool) : String := if b then "on" else "off"

/-- The line of a channel (Example 15.2). -/
def chLine (s : State) (n : Chan) : String :=
  let c := s.chan n
  let e := s.eng n
  "ch " ++ natText n.val ++ " " ++ legalText c.legal ++ " perm " ++ natText (b2n c.perm) ++ " " ++ sessText c.sess ++ " session " ++
    natText c.session.toNat ++ " fwd " ++ decText 20 c.fwd ++ " rev " ++ decText 20 c.rev ++ " ses " ++ decText 20 c.ses ++ " ce " ++
    runText e.runst ++ " fcode " ++ hText 2 e.fcode.toNat ++ " health " ++ healthText (chanHealth s n)

/-- The lines of `stat`. -/
def statLines (s : State) : List String :=
  (unitNames.map fun u => u.1 ++ " " ++ healthText (unitOf s u.2).health) ++
    allChans.map fun n => "ch" ++ natText n.val ++ " " ++ healthText (chanHealth s n) ++ " " ++ legalText (s.chan n).legal

/-- The line of a converter. -/
def cnvLine (s : State) (u : Cnv) : String :=
  let c := s.cnv u
  "cnv " ++ cnvName u ++ " " ++ cnvText c.state ++ " fcause " ++ natText c.fcause ++ " hf24 " ++ natText (hf24 s.us c.faultTimes) ++
    " cal " ++ natText c.calDone ++ " ovr " ++ natText (field (s.reg (Reg.cnvStat u.val)) 12 4)

/-- The lines of a port: state and counters. -/
def portLines (s : State) (p : Port) : List String :=
  let x := s.port p
  let v (a : Nat) : String := natText (regView s .wellhead a).toNat
  ["port " ++ natText p.val ++ " " ++ portText x.state ++ " rate " ++ natText x.rate ++ " mode " ++ natText (b2n x.hgMode) ++ " fails " ++
      natText x.fails ++ " stuck " ++ natText (b2n x.stuck),
   "crc " ++ v (Reg.usdCntCrc p.val) ++ " naktx " ++ v (Reg.usdCntNaktx p.val) ++ " nakrx " ++ v (Reg.usdCntNakrx p.val) ++ " replay " ++
      v (Reg.usdCntReplay p.val) ++ " dup " ++ v (Reg.usdCntDup p.val) ++ " holddrop " ++ v (Reg.usdCntHolddrop p.val) ++ " violrx " ++
      v (Reg.usdCntViolrx p.val)]

/-- The line of `port peer`. -/
def peerLine (s : State) (p : Port) : String :=
  let x := s.port p
  "peer " ++ hText 3 x.partner.node.toNat ++ " epoch " ++ natText x.partner.epoch.toNat ++ " rtt " ++ natText x.rtt ++ " h " ++
    natText (s.usdHeadroom p) ++ " timer " ++ natText x.timerEff

/-- What a routing entry names (R498). -/
def routeText (e : Nat) : String := if e < 4 then "p" ++ natText e else if e = 8 then "own" else "drop"

def tunnelText : TunnelSetting → String
  | .off => "off" | .any => "any" | .node id => hText 3 id.toNat

/-- The day of a count of days since 2000-01-01: year, month, day. -/
def dateOf (days : Nat) : Nat × Nat × Nat :=
  let z := days + 730425
  let era := z / 146097
  let doe := z % 146097
  let yoe := (doe - doe / 1460 + doe / 36524 - doe / 146096) / 365
  let doy := doe - (365 * yoe + yoe / 4 - yoe / 100)
  let mp := (5 * doy + 2) / 153
  let m := if mp < 10 then mp + 3 else mp - 9
  (yoe + era * 400 + b2n (decide (m ≤ 2)), m, doy - (153 * mp + 2) / 5 + 1)

/-- A time in UTC (R535). -/
def timeText (secs : Nat) : String :=
  let (y, m, d) := dateOf (secs / 86400)
  let t := secs % 86400
  decText 4 y ++ "-" ++ decText 2 m ++ "-" ++ decText 2 d ++ "T" ++ decText 2 (t / 3600) ++ ":" ++ decText 2 (t / 60 % 60) ++ ":" ++
    decText 2 (t % 60) ++ "Z"

/-- The lines of `tarn`. -/
def tarnLines (s : State) : List String :=
  let t := s.tarn
  ["seal " ++ (if t.sealOpen then "open" else "closed") ++ " mesh " ++ (if t.meshLatched then "broken" else "good") ++ " case " ++
      (if t.caseOpen then "open" else "closed"),
   "log head " ++ natText t.logHead.toNat ++ " exported " ++ natText t.logExp.toNat ++ " unexported " ++ natText t.unexported,
   "sessions " ++ natText t.sesCtr.toNat,
   "keys" ++ String.join ((List.range 4).map fun k =>
      " " ++ natText k ++ " " ++ (match t.keys[Fin.ofNat 4 k].state with | .empty => "empty" | .valid => "valid" | .revoked => "revoked"))]

/-- The lines of `pwr`. -/
def pwrLines (s : State) : List String :=
  let r (i : Fin 12) : String := toString (s.well.sensors[i]).reading
  ["ps" ++ natText s.power.ps ++ " vin " ++ r 4 ++ " hold " ++ r 11 ++ " nvlhold " ++ natText (regView s .wellhead Reg.nvlHold).toNat ++
    " gmax " ++ natText s.nvla.gmax]

/-- The clocks of CLK_STAT in its bit order. -/
def clockNames : List String := ["xin", "xrtc", "rco", "spll", "cpll", "tpll"]

/-- The line of a clock: whether it is within its range or locked, its measured frequency, its monitor. -/
def clkLine (s : State) (k : Nat) : String :=
  clockNames.getD k "" ++ " " ++ (if bit (clkStatView s) k then "good" else "lost") ++
    (if k < 3 then " " ++ natText (regView s .wellhead (Reg.clkMeas k)).toNat ++ " hz" else "") ++ " monitor " ++
    (if bit (s.reg Reg.clkLoss) k then "loss" else "clear")

/-- The limits of a clock monitor (Table 18.12). -/
def clkLimits (k : Nat) : String :=
  match k with
  | 0 => "23750000 26250000" | 1 => "31130 34406" | 2 => "15520000 16480000" | _ => "lock"

/-- The line of `xclk mon`: the raw count and the limits. -/
def monLine (s : State) (k : Nat) : String :=
  clockNames.getD k "" ++ " count " ++
    (if k < 3 then natText (regView s .wellhead (Reg.clkMeas k)).toNat else natText (b2n (bit (clkStatView s) k))) ++ " limits " ++ clkLimits k

def stateText (n : Nat) : String := match n with | 0 => "CONFIRMED" | 1 => "TRIAL" | _ => "REVERTED"

/-- The line of an image slot: version, state, whether active. -/
def imgLine (s : State) (t : Fin 3) (b : Bool) : String :=
  let e := s.directory.entries[t]
  (match t with | 0 => "wfw" | 1 => "tfw" | _ => "lfw") ++ (if b then " b" else " a") ++ " version " ++
    hText 8 (imageHead (flashByte s) (imgAddr (t.val + 1) b)).version.toNat ++
    (if e.active = b then " " ++ stateText e.state ++ " active" else " inactive")

/-- The line of an engine's recorded microcode copy. -/
def mcLine (s : State) (n : Chan) : String :=
  let e := s.eng n
  "mc" ++ natText n.val ++ " copy " ++ natText (b2n e.copy1) ++ " version " ++
    hText 8 (imageHead (nvlByte s) (mcodeCopy n e.copy1)).version.toNat ++ (if e.digest.isSome then " recorded" else " none")

/-- The lines of `img`. -/
def imgLines (s : State) : List String :=
  ([0, 1, 2] : List (Fin 3)).flatMap (fun t => [imgLine s t false, imgLine s t true]) ++ allChans.map fun n => mcLine s n

/-- Part and stepping (Example 15.1). -/
def partText : String := if Config.gradeX then "HLB8-X B" else "HLB8-I B"

/-- The lines of `id full`. -/
def idLines (s : State) : List String :=
  ["sysid " ++ hText 8 (regView s .wellhead Reg.sysId).toNat, "uid " ++ hText 16 Config.uid.toNat,
   "node " ++ hText 3 s.nodeId.toNat ++ " v " ++ natText (b2n s.nodeValid) ++ " epoch " ++ natText s.mesh.epoch.toNat] ++ imgLines s

/-- The basic verbs with their synopses (Table 15.2). -/
def basicVerbs : List (String × String) :=
  [("help", "help [verb]"), ("id", "id [full]"), ("stat", "stat"), ("ch", "ch [n] [in, out, reload or close]"), ("cnv", "cnv u [cal]"),
   ("port", "port p [peer, retrain, on or off]"), ("route", "route node [set id]; route id [set p0-p3 or drop]; route tunnel [off, any or id]"),
   ("log", "log health [k]; log legal [k]; log health from s [k]; log legal from s [k]"),
   ("tarn", "tarn [time [time], logack s, nonce, stage off hex or submit]"), ("pwr", "pwr [go ps0-ps5]"), ("clk", "clk"),
   ("img", "img [verify or activate] type slot"), ("reconcile", "reconcile unit"), ("app", "app text"),
   ("reset", "reset core c; reset port p; reset device"), ("more", "more"), ("expert", "expert on; expert off")]

/-- The expert verbs with their synopses (Table 15.3). -/
def expertVerbs : List (String × String) :=
  [("xreg", "xreg addr [value]"), ("xch", "xch n scrub i; xch n inj word bit"), ("xcnv", "xcnv u raw on; raw off; surge"),
   ("xport", "xport p loop; prbs; test off; head b; gohyst b"), ("xclk", "xclk mon [clock]")]

end Sys2Proof.Machine
end

