-- ==== Sys2Proof/Machine/Narga.lean ====
section
/-! DEFINITION. Narga (spec/15): the checks of a line, the verbs, expert level and what ends later. -/

namespace Sys2Proof.Machine

/-! ### A line (R541 to R546) -/

/-- What a verb answers: its data lines and final status line; data lines and a command that goes on, with BZ 501 where `queued` (R546); or
the lines left of its session's last response (R549). -/
inductive Reply where
  | done (data : List String) (final : String)
  | later (data : List String) (job : BgJob) (queued : Bool)
  | rest

/-- OK 000 with data lines. -/
def ok (data : List String) : Reply := .done data "OK 000"

/-- What the checks of R544 need to know of a line beside its flaw: its length, its verb, an expert verb's number, its numbers' ranges, its
power state, and whether it needs one of the two background places (R546). -/
structure LineCtx where
  tooLong : Bool := false
  verb : Bool := true
  expert : Option Nat := none
  noun : Bool := true
  numbers : Bool := true
  power : Bool := true
  background : Bool := false

/-- The commands that run in the background: those that took BZ 501 (R546). -/
def State.bgCount (s : State) : Nat := (s.narga.jobs.filter fun j => !j.holds).length

/-- Whether a command goes on that keeps the next line waiting (R545). -/
def State.nargaWorks (s : State) : Bool := s.narga.jobs.any BgJob.holds

/-- The first check that a line fails, in the order of R544. -/
def State.lineFails (s : State) (l : NLine) (x : LineCtx) : Option String :=
  let z := s.narga.sess[l.sess]
  if x.tooLong then some "ER 104"
  else if l.flaw = some .badByte then some "ER 100"
  else if l.flaw = some .badCheck then some "ER 105"
  else if ¬ x.verb then some "ER 100"
  else if x.expert.isSome ∧ ¬ z.expert then some "ER 200"
  else if l.flaw = some .badNoun ∨ ¬ x.noun then some "ER 101"
  else if l.flaw = some .badCount then some "ER 103"
  else if l.flaw = some .badNumber ∨ ¬ x.numbers then some "ER 102"
  else if z.busy ∨ 8 ≤ s.narga.waiting.length ∨ (x.background ∧ 2 ≤ s.bgCount) then some "BZ 500"
  else if ¬ x.power then some "ER 302"
  else if s.narga.updateLock then some "ER 203"
  else none

/-- More than 16 lines of a session answered ER 1xx within 1 s: 0743h at most once per minute per session, with the count (R567). -/
def State.garbageLine (s : State) (i : Session) : State :=
  let z := s.narga.sess[i]
  let n := if s.us < z.garbageAt + seconds 1 then z.garbage + 1 else 1
  let s := s.modSess i fun z => { z with garbage := n, garbageAt := if n = 1 then s.us else z.garbageAt }
  if 16 < n then s.hlogKey i.val 0x0743 sevNotice 0x60 (minutes 1) (BitVec.ofNat 8 i.val :: beBytes 2 n) else s

/-- Whether a final line is one of ER 1xx. -/
def isEr1 (t : String) : Bool := decide (t.toList.take 4 = ['E', 'R', ' ', '1'])

/-- 0742h before an expert verb executes, with the first 14 bytes of its arguments (R558). -/
def State.expertVerbLog (s : State) (l : NLine) (x : LineCtx) : State :=
  match x.expert with
  | none => s
  | some verb => s.hlog 0x0742 sevNotice 0x60 (BitVec.ofNat 8 l.sess.val :: BitVec.ofNat 8 verb :: l.args.take 14)

/-- A line that Narga takes: a machine line becomes the last of its session (R541). -/
def State.lineTaken (s : State) (l : NLine) : State :=
  s.modSess l.sess fun z =>
    let z := { z with lastAt := s.us, active := true }
    if l.tag.isNone then z else { z with lastTag := l.tagged, stored := [] }

/-- Whether a machine line repeats its session's last one, by tag and check (R541). -/
def State.repeats (s : State) (l : NLine) : Bool := l.tagged.isSome && decide ((s.narga.sess[l.sess]).lastTag = l.tagged)

/-- The stored response is sent again, line for line (R541). -/
def State.resend (s : State) (i : Session) : State :=
  let s := s.modSess i fun z => { z with lastAt := s.us }
  if i = 0 then s.nargaSend 0 (s.narga.sess[i]).stored
  else s.tunnelSend i (s.narga.sess[i]).stored

/-- The next lines of a session's last response (R549). -/
def State.sendRest (s : State) (i : Session) : State :=
  let left := (s.narga.sess[i]).remaining
  (s.modSess i fun z => { z with stored := left.take (linesThatFit 244 left) }).tunnelSend i left

/-- The reply of a verb goes out, or its command goes on. -/
def State.answerLine (s : State) (l : NLine) (r : Reply) : State :=
  match r with
  | .done data final => s.respond l.sess l.tag data final
  | .later data job queued =>
    let s := (s.modNarga fun n => { n with jobs := n.jobs ++ [job] }).modSess l.sess fun z => { z with busy := true }
    let s := s.each data fun s d => s.respondPart l.sess l.tag ("= " ++ d)
    if queued then s.respondPart l.sess l.tag "BZ 501" else s
  | .rest => s.sendRest l.sess

/-- Whether a line can have reached Narga: Wellhead runs, and a tunnel line has an open session and is a machine line. -/
def State.lineReaches (s : State) (l : NLine) : Bool :=
  s.wellheadRuns && (decide (l.sess = 0) || ((s.narga.sess[l.sess]).active && l.tag.isSome))

/-- A line that waits behind the command under way; its session is busy until it has its final status (R545). -/
def State.lineWaits (s : State) (l : NLine) (v : NVerb) : State :=
  (s.modNarga fun n => { n with waiting := n.waiting ++ [(l, v)] }).modSess l.sess fun z => { z with busy := true }

/-- A line: repeated, refused by the first check it fails, waiting behind the command under way, or executed (R541, R544, R545). -/
def State.nargaLine (s : State) (l : NLine) (v : NVerb) (x : LineCtx) (f : State → State × Reply) : State :=
  if ¬ s.lineReaches l then s
  else if s.repeats l then s.resend l.sess
  else match s.lineFails l x with
  | some t =>
    let s := (s.lineTaken l).respond l.sess l.tag [] t
    if isEr1 t then s.garbageLine l.sess else s
  | none =>
    if s.nargaWorks then s.lineWaits l v
    else
      let (s, r) := f ((s.lineTaken l).expertVerbLog l x)
      s.answerLine l r

/-- A line whose verb only answers. -/
def State.nargaShow (s : State) (l : NLine) (v : NVerb) (x : LineCtx) (f : State → Reply) : Host.Outcome State Fault Refusal :=
  .next (s.nargaLine l v x fun s => (s, f s))

/-- A line whose verb acts. -/
def State.nargaDo (s : State) (l : NLine) (v : NVerb) (x : LineCtx) (f : State → State × Reply) : Host.Outcome State Fault Refusal :=
  .next (s.nargaLine l v x f)

/-! ### TMB commands through slot 4 (R85, R547) -/

/-- Narga's line for a TMB result (Table 3.7). -/
def tmbText (r : Nat) : String :=
  match r with
  | 0 => "OK 000" | 1 => "BZ 500" | 2 => "ER 202 reserved" | 3 => "ER 102" | 4 => "ER 300" | 5 => "ER 301" | 6 => "ER 202 nosession"
  | 7 => "ER 202 notfrozen" | 8 => "ER 102" | 9 => "ER 202 logfull" | 10 => "ER 201" | 11 => "ER 202 badsig" | 12 => "ER 202 badnonce"
  | 13 => "ER 202 nokey" | 14 => "ER 400" | _ => "ER 202 refused"

/-- Wellhead submits a command in slot 4 with its arguments. -/
def State.slot4 (s : State) (code ch : Nat) (args : List Word) : State :=
  let s := s.each args.zipIdx fun s p => s.setReg (Reg.tmbArg 4 p.2) p.1
  s.tmbSubmit 4 (BitVec.ofNat 32 (code + ch * 256))

/-- The mapped result of slot 4; a Tarn that does not answer is a timeout. -/
def State.slot4Text (s : State) : String := if s.tarnOn then tmbText (field (s.reg (Reg.tmbRsp 4)) 0 8) else "ER 401"

/-- Whether slot 4 goes on working on a command. -/
def State.slot4Busy (s : State) : Bool := bit (s.reg (Reg.tmbRsp 4)) 31

/-- What follows Tarn's answer to a command other than `close`'s FREEZE (Table 15.2, R553, R590, R614, R617): the data lines and the final one. -/
def State.slotText (s : State) (k : SlotNext) : State × List String × String :=
  let final := s.slot4Text
  match k with
  | .text => (s, [], final)
  | .sign _ => (s, [], final)
  | .nonce => (s, (if final = "OK 000" then
      ["nonce " ++ hexText 8 (s.reg (Reg.tmbRdata 4 0)).toNat ++ hexText 8 (s.reg (Reg.tmbRdata 4 1)).toNat] else []), final)
  | .submit => (s.emptyStaging, [], final)
  | .reload n activate =>
    let s := if activate then s.modNarga fun m => { m with updateLock := false } else s
    (if activate ∧ final = "OK 000" then s.hlog 0x0A04 sevNotice 0xFF [4, BitVec.ofNat 8 n.val] else s, [], final)
  | .views n => ((s.compareView n).hlog 0x0722 sevNotice (0x70 + n.val) (viewData s n), [], final)

/-- A command goes to Tarn in slot 4; Narga goes on when Tarn has answered (R85, R545). -/
def State.slotReply (s : State) (l : NLine) (k : SlotNext) (code ch : Nat) (args : List Word) (data : List String) : State × Reply :=
  let s := s.slot4 code ch args
  if s.slot4Busy ∧ s.tarnOn then (s, .later data (.slot l.sess l.tag k) false)
  else
    let (s, more, final) := s.slotText k
    (s, .done (data ++ more) final)

/-- Tarn has answered in slot 4: after the FREEZE of `close` comes a SIGN with UNPRICED. -/
def State.slotAnswered (s : State) (l : NLine) (k : SlotNext) : State × Reply :=
  match k with
  | .sign n => if s.slot4Text = "OK 000" then s.slotReply l .text 3 n.val [0, 0, 1] [] else (s, .done [] s.slot4Text)
  | k =>
    let (s, data, final) := s.slotText k
    (s, .done data final)

/-- A command through slot 4 and its mapped result. -/
def State.tmbReply (s : State) (l : NLine) (code ch : Nat) (args : List Word) : State × Reply := s.slotReply l .text code ch args []

/-- A RELOAD through slot 4 (R615); an activation holds the update lock until its final status line (R617). -/
def State.reloadReply (s : State) (l : NLine) (n : Chan) (a : Nat) (activate : Bool) : State × Reply :=
  let (s, r) := s.slotReply l (.reload n activate) 9 n.val [BitVec.ofNat 32 a] []
  match r with
  | .later _ _ _ => (if activate then s.modNarga fun m => { m with updateLock := true } else s, r)
  | _ => (s, r)

/-- PS0 and PS1. -/
def State.ps01 (s : State) : Bool := decide (s.power.entry ≤ 1)

/-- A register write by Wellhead. -/
def State.wellWrite (s : State) (a : Nat) (v : Word) : State := s.busCommit .wellhead a v

/-- An expert-register write within one command: EXP set, the write, EXP restored; ER 202 when the block accepted no change (R559). -/
def State.expertWrite (s : State) (a : Nat) (v : Word) : State × Reply :=
  let c := ctrlOf a
  let old := s.reg c
  let s := s.setReg c (old ||| 0x80000000)
  let took := s.answers .wellhead a && s.expertAccepts .wellhead a v
  let s := (s.wellWrite a v).setReg c old
  (s, .done [] (if took then "OK 000" else "ER 202"))

/-! ### Editing and the checks of a line -/

/-- NARGA_ERASE: BS or DEL erases the last byte of a typed line; in a machine line it is a byte like any other (R536, R538). -/
def execNargaErase (b : Byte) (s : State) : Host.Outcome State Fault Refusal :=
  if ¬ s.wellheadRuns then .next s
  else if machineLine s.narga.typed 0 then .next (s.nargaByte b false)
  else .next s.typedErase

/-- NARGA_KILL: 15h erases the whole line (R536). -/
def execNargaKill (s : State) : Host.Outcome State Fault Refusal :=
  if ¬ s.wellheadRuns then .next s
  else if machineLine s.narga.typed 0 then .next (s.nargaByte 0x15 false)
  else .next s.typedKill

/-- NARGA_CANCEL: 03h discards the line and is answered with the prompt (R536). -/
def execNargaCancel (s : State) : Host.Outcome State Fault Refusal :=
  if ¬ s.wellheadRuns then .next s
  else if machineLine s.narga.typed 0 then .next (s.nargaByte 3 false)
  else .next s.typedCancel

/-- NARGA_LINE_TOO_LONG (R534). -/
def execNargaLineTooLong (l : NLine) (s : State) : Host.Outcome State Fault Refusal :=
  s.nargaShow l .lineTooLong { tooLong := true } fun _ => ok []

/-- NARGA_UNKNOWN_VERB (R544, R552). -/
def execNargaUnknownVerb (l : NLine) (s : State) : Host.Outcome State Fault Refusal := s.nargaShow l .unknownVerb { verb := false } fun _ => ok []

/-! ### Basic verbs (Table 15.2) -/

/-- The verbs of a session's level. -/
def State.verbsOf (s : State) (i : Session) : List (String × String) :=
  if s.narga.sess[i].expert then basicVerbs ++ expertVerbs else basicVerbs

/-- `help`. -/
def execNargaHelp (l : NLine) (verb : Option String) (s : State) : Host.Outcome State Fault Refusal :=
  match verb with
  | none => s.nargaShow l (.help verb) {} fun s => ok ((s.verbsOf l.sess).map fun v => v.1)
  | some v =>
    match (s.verbsOf l.sess).find? fun x => decide (x.1 = v) with
    | some x => s.nargaShow l (.help verb) {} fun _ => ok [x.2]
    | none => s.nargaShow l (.help verb) { verb := false } fun _ => ok []

/-- `id` (Example 15.1). -/
def execNargaId (l : NLine) (s : State) : Host.Outcome State Fault Refusal :=
  s.nargaShow l .id {} fun _ => .done [] ("OK 000 " ++ partText)

/-- `id full`. -/
def execNargaIdFull (l : NLine) (s : State) : Host.Outcome State Fault Refusal := s.nargaShow l .idFull {} fun s => ok (idLines s)

/-- `stat`. -/
def execNargaStat (l : NLine) (s : State) : Host.Outcome State Fault Refusal :=
  s.nargaShow l .stat {} fun s => .done (statLines s) (if s.well.replN then "OK 001 replace on" else "OK 000")

/-- A channel number. -/
def toChan (n : Nat) : Chan := Fin.ofNat 8 n

/-- `ch` [n]. -/
def execNargaCh (l : NLine) (n : Option Nat) (s : State) : Host.Outcome State Fault Refusal :=
  match n with
  | none => s.nargaShow l (.ch n) {} fun s => ok (allChans.map fun n => chLine s n)
  | some n => s.nargaShow l (.ch n) { numbers := decide (n < 8) } fun s => ok [chLine s (toChan n)]

/-- `ch` n `in`: REEVAL. -/
def execNargaChIn (l : NLine) (n : Nat) (s : State) : Host.Outcome State Fault Refusal :=
  s.nargaDo l (.chIn n) { numbers := decide (n < 8) } fun s => s.tmbReply l 5 n []

/-- `ch` n `out`: SETOUT. -/
def execNargaChOut (l : NLine) (n : Nat) (s : State) : Host.Outcome State Fault Refusal :=
  s.nargaDo l (.chOut n) { numbers := decide (n < 8) } fun s => s.tmbReply l 4 n []

/-- `ch` n `reload`: RELOAD of the recorded copy (R615). -/
def execNargaChReload (l : NLine) (n : Nat) (s : State) : Host.Outcome State Fault Refusal :=
  s.nargaDo l (.chReload n) { numbers := decide (n < 8), power := s.ps01 } fun s =>
    s.reloadReply l (toChan n) (mcodeCopy (toChan n) (s.eng (toChan n)).copy1) false

/-- `ch` n `close`: FREEZE, then SIGN with UNPRICED. -/
def execNargaChClose (l : NLine) (n : Nat) (s : State) : Host.Outcome State Fault Refusal :=
  s.nargaDo l (.chClose n) { numbers := decide (n < 8) } fun s =>
    let s := s.slot4 2 n []
    if s.slot4Busy ∧ s.tarnOn then (s, .later [] (.slot l.sess l.tag (.sign (toChan n))) false) else s.slotAnswered l (.sign (toChan n))

/-- `cnv` u. -/
def execNargaCnv (l : NLine) (u : Cnv) (s : State) : Host.Outcome State Fault Refusal := s.nargaShow l (.cnv u) {} fun s => ok [cnvLine s u]

/-- `cnv` u `cal`: CALFULL. -/
def execNargaCnvCal (l : NLine) (u : Cnv) (s : State) : Host.Outcome State Fault Refusal :=
  s.nargaDo l (.cnvCal u) { power := s.ps01 } fun s =>
    if s.groupInSession u then (s, .done [] "ER 301")
    else if (s.cnv u).state = .permFault then (s, .done [] "ER 300")
    else (s.calFull u, ok [])

/-- A port number. -/
def toPort (p : Nat) : Port := Fin.ofNat 4 p

/-- `port` p. -/
def execNargaPort (l : NLine) (p : Nat) (s : State) : Host.Outcome State Fault Refusal :=
  s.nargaShow l (.port p) { numbers := decide (p < 4) } fun s => ok (portLines s (toPort p))

/-- `port` p `peer` (R485). -/
def execNargaPortPeer (l : NLine) (p : Nat) (s : State) : Host.Outcome State Fault Refusal :=
  s.nargaShow l (.portPeer p) { numbers := decide (p < 4) } fun s =>
    if (s.port (toPort p)).inFlow then ok [peerLine s (toPort p)] else .done [] "ER 303"

/-- `port` p `retrain`. -/
def execNargaPortRetrain (l : NLine) (p : Nat) (s : State) : Host.Outcome State Fault Refusal :=
  s.nargaDo l (.portRetrain p) { numbers := decide (p < 4) } fun s => (s.wellWrite (Reg.usdCtrl p) (s.reg (Reg.usdCtrl p) ||| 0x20), ok [])

/-- `port` p `on`. -/
def execNargaPortOn (l : NLine) (p : Nat) (s : State) : Host.Outcome State Fault Refusal :=
  s.nargaDo l (.portOn p) { numbers := decide (p < 4) } fun s => (s.wellWrite (Reg.usdCtrl p) (s.reg (Reg.usdCtrl p) ||| 1), ok [])

/-- `port` p `off`. -/
def execNargaPortOff (l : NLine) (p : Nat) (s : State) : Host.Outcome State Fault Refusal :=
  s.nargaDo l (.portOff p) { numbers := decide (p < 4) } fun s => (s.wellWrite (Reg.usdCtrl p) (s.reg (Reg.usdCtrl p) &&& ~~~ 1), ok [])

/-- `route` node. -/
def execNargaRouteNode (l : NLine) (s : State) : Host.Outcome State Fault Refusal :=
  s.nargaShow l .routeNode {} fun s =>
    ok ["node " ++ hText 3 s.nodeId.toNat ++ " v " ++ natText (b2n s.nodeValid) ++ " epoch " ++ natText s.mesh.epoch.toNat]

/-- Whether a tag is WAIT or SENT (R496). -/
def State.tagsBusy (s : State) : Bool := s.mesh.tags.toList.any fun t => decide (t.state = .wait ∨ t.state = .sent)

/-- `route node set` id (R496). -/
def execNargaRouteNodeSet (l : NLine) (id : Nat) (s : State) : Host.Outcome State Fault Refusal :=
  s.nargaDo l (.routeNodeSet id) { numbers := decide (id < 4096) } fun s =>
    if s.tagsBusy then (s, .done [] "BZ 500") else (s.wellWrite Reg.rtNode (BitVec.ofNat 32 (0x80000000 + id)), ok [])

/-- `route` id. -/
def execNargaRoute (l : NLine) (id : Nat) (s : State) : Host.Outcome State Fault Refusal :=
  s.nargaShow l (.route id) { numbers := decide (id < 4096) } fun s =>
    ok ["route " ++ hText 3 id ++ " " ++ routeText (s.routeEntry (BitVec.ofNat 12 id))]

/-- `route` id `set` (R498). -/
def execNargaRouteSet (l : NLine) (id : Nat) (nbr : Option Nat) (s : State) : Host.Outcome State Fault Refusal :=
  s.nargaDo l (.routeSet id nbr) { noun := decide (nbr.getD 0 < 4), numbers := decide (id < 4096) } fun s =>
    if id = s.nodeId.toNat then (s, .done [] "ER 202")
    else
      let a := Reg.rtRoute (id / 8)
      let k := 2 ^ (4 * (id % 8))
      (s.wellWrite a ((s.reg a &&& ~~~ BitVec.ofNat 32 (15 * k)) ||| BitVec.ofNat 32 (nbr.getD 15 * k)), ok [])

/-- `route tunnel` (R551). -/
def execNargaRouteTunnel (l : NLine) (set : Option TunnelSetting) (s : State) : Host.Outcome State Fault Refusal :=
  s.nargaDo l (.routeTunnel set) {} fun s =>
    match set with
    | none => (s, ok ["tunnel " ++ tunnelText s.narga.tunnel])
    | some t => (s.modNarga fun n => { n with tunnel := t }, ok [])

/-- Health records as data lines, 64 hexadecimal digits each; an uncorrectable one ends the command with ER 402. -/
def State.healthLines (s : State) (qs : List Word) : State × Reply :=
  match qs.find? fun q => s.nvBad (healthSlot q) 32 with
  | some q => (s.nvUncorrectable (healthSlot q), .done [] "ER 402")
  | none => (s, ok (qs.map fun q => hexBytes (s.bytes (healthSlot q) 32)))

/-- The default and range of a count of records. -/
def recordCount (k : Option Nat) : Nat := k.getD 8

def countOk (k : Option Nat) : Bool := decide (1 ≤ recordCount k ∧ recordCount k ≤ 64)

/-- `log health` [k]: the k newest records, newest first. -/
def execNargaLogHealth (l : NLine) (k : Option Nat) (s : State) : Host.Outcome State Fault Refusal :=
  s.nargaDo l (.logHealth k) { numbers := countOk k } fun s =>
    match s.well.logSeq with
    | none => (s, ok [])
    | some q => s.healthLines ((List.range (min (recordCount k) (min 8192 (q.toNat + 1)))).map fun i => q - BitVec.ofNat 32 i)

/-- The legal records with sequence numbers from `lo`, `n` of them, oldest first. -/
def TarnSt.recordsFrom (t : TarnSt) (lo n : Nat) : List (List Byte) :=
  let head := t.logHead.toNat
  (((List.range n).filter fun i => decide (lo + i ≤ head)).filterMap fun i => t.log[head - (lo + i)]?)

/-- `log legal` [k]: newest first, 128 hexadecimal digits each. -/
def execNargaLogLegal (l : NLine) (k : Option Nat) (s : State) : Host.Outcome State Fault Refusal :=
  s.nargaShow l (.logLegal k) { numbers := countOk k } fun s => ok ((s.tarn.log.take (recordCount k)).map hexBytes)

/-- `log health from` s [k]: ER 102 for a sequence no longer held. -/
def execNargaLogHealthFrom (l : NLine) (q : Nat) (k : Option Nat) (s : State) : Host.Outcome State Fault Refusal :=
  let head := match s.well.logSeq with | none => 0 | some h => h.toNat + 1
  s.nargaDo l (.logHealthFrom q k) { numbers := countOk k && decide (q < head ∧ head ≤ q + 8192) } fun s =>
    s.healthLines ((List.range (min (recordCount k) (head - q))).map fun i => BitVec.ofNat 32 (q + i))

/-- `log legal from` s [k]. -/
def execNargaLogLegalFrom (l : NLine) (q : Nat) (k : Option Nat) (s : State) : Host.Outcome State Fault Refusal :=
  let head := s.tarn.logHead.toNat
  s.nargaShow l (.logLegalFrom q k) { numbers := countOk k && decide (q ≤ head ∧ head < q + s.tarn.log.length) } fun s =>
    ok ((s.tarn.recordsFrom q (recordCount k)).map hexBytes)

/-- `tarn`. -/
def execNargaTarn (l : NLine) (s : State) : Host.Outcome State Fault Refusal := s.nargaShow l .tarn {} fun s => ok (tarnLines s)

/-- `tarn time` [time]. -/
def execNargaTarnTime (l : NLine) (set : Option Nat) (s : State) : Host.Outcome State Fault Refusal :=
  match set with
  | none => s.nargaShow l (.tarnTime set) {} fun s => ok ["time " ++ timeText (s.rtc.toNat / 65536)]
  | some t => s.nargaDo l (.tarnTime set) { numbers := decide (t < 2 ^ 32) } fun s => s.tmbReply l 10 0 [BitVec.ofNat 32 t, 0]

/-- `tarn logack` s. -/
def execNargaTarnLogack (l : NLine) (q : Nat) (s : State) : Host.Outcome State Fault Refusal :=
  s.nargaDo l (.tarnLogack q) { numbers := decide (q < 2 ^ 32) } fun s => s.tmbReply l 8 0 [BitVec.ofNat 32 q]

/-- `tarn nonce`. -/
def execNargaTarnNonce (l : NLine) (s : State) : Host.Outcome State Fault Refusal :=
  s.nargaDo l .tarnNonce {} fun s => s.slotReply l .nonce 6 0 [] []

/-- The staging area of `tarn stage` (R553). -/
def stagingArea : Nat := 0x017A2000

/-- `tarn stage` off hex (R553). -/
def execNargaTarnStage (l : NLine) (off : Nat) (data : List Byte) (s : State) : Host.Outcome State Fault Refusal :=
  s.nargaDo l (.tarnStage off data) { numbers := decide (1 ≤ data.length ∧ data.length ≤ 32 ∧ off + data.length ≤ 144) } fun s =>
    (s.putBytes (stagingArea + off) data, ok [])

/-- `tarn submit`: SIGNED with the staging area's address, which is emptied (R553). -/
def execNargaTarnSubmit (l : NLine) (s : State) : Host.Outcome State Fault Refusal :=
  s.nargaDo l .tarnSubmit {} fun s => s.slotReply l .submit 7 0 [BitVec.ofNat 32 stagingArea] []

/-- `pwr`. -/
def execNargaPwr (l : NLine) (s : State) : Host.Outcome State Fault Refusal := s.nargaShow l .pwr {} fun s => ok (pwrLines s)

/-- Narga's line for a refusal of the ladder (Table 18.2). -/
def refuseText (r : Nat) : String :=
  match r with | 1 => "ER 301" | 4 => "ER 203" | 5 => "ER 202" | 6 => "ER 202" | _ => "BZ 500"

/-- `pwr go` ps (R625, R626). -/
def execNargaPwrGo (l : NLine) (ps : Nat) (s : State) : Host.Outcome State Fault Refusal :=
  s.nargaDo l (.pwrGo ps) { noun := decide (ps < 6) } fun s =>
    if 3 ≤ ps ∧ s.anySession then (s, .done [] "ER 301")
    else
      let refused := if ps = 0 then none else s.ladderRefusal ps
      (s.wellWrite Reg.pwrReq (BitVec.ofNat 32 ps), .done [] (match refused with | none => "OK 000" | some r => refuseText r))

/-- `clk`. -/
def execNargaClk (l : NLine) (s : State) : Host.Outcome State Fault Refusal :=
  s.nargaShow l .clk {} fun s => ok ((List.range 6).map fun k => clkLine s k)

/-- `img`. -/
def execNargaImg (l : NLine) (s : State) : Host.Outcome State Fault Refusal := s.nargaShow l .img {} fun s => ok (imgLines s)

/-- `img verify` (R614). -/
def execNargaImgVerify (l : NLine) (img : ImageRef) (s : State) : Host.Outcome State Fault Refusal :=
  s.nargaShow l (.imgVerify img) {} fun s =>
    match s.imageCheck img with
    | .ok _ => ok []
    | .error r => .done [] ("ER 202 reason " ++ natText r)

/-- `img activate` of a verified image (R614): the directory, or for microcode the copy and its RELOAD. -/
def State.imageActivate (s : State) (l : NLine) (img : ImageRef) (h : ImageHead) : State × Reply :=
  match img with
  | .wfw b => (s.activateSlot 0 b, ok [])
  | .tfw b => (s.activateSlot 1 b, ok [])
  | .lfw b => (s.activateSlot 2 b, ok [])
  | .mcode n =>
    let a := mcodeCopy n (s.spareCopy n)
    (s.copyMicrocode n (mcodeSource n.val) (0xC0 + h.length)).reloadReply l n a true

/-- `img activate` (R614). -/
def execNargaImgActivate (l : NLine) (img : ImageRef) (s : State) : Host.Outcome State Fault Refusal :=
  s.nargaDo l (.imgActivate img) {} fun s =>
    match s.imageCheck img with
    | .ok h => s.imageActivate l img h
    | .error r => (s, .done [] ("ER 202 reason " ++ natText r))

/-- Whether a unit's own status shows a fault (R590). -/
def State.unitFault (s : State) (u : Nat) : Bool :=
  if u < 4 then let x := s.core (Fin.ofNat 4 u); decide (x.core = .halted) && severeHalt x.hcause.toNat
  else if u / 16 = 1 then decide ((s.eng (Fin.ofNat 8 u)).runst = .fault)
  else if u / 16 = 2 then (s.cnv (Fin.ofNat 2 u)).faulty
  else if u / 16 = 3 then decide ((s.port (Fin.ofNat 4 u)).state = .failed)
  else if u = 0x40 then decide (s.nvla.spares = 0)
  else if u = 0x50 then s.tarn.keyLost || s.tarn.signStop
  else false

/-- `reconcile` of a unit other than a channel (R590): FAILED when its status shows a fault, WORN when it has recovered. -/
def State.reexamine (s : State) (u : Nat) : State :=
  let x := unitOf s u
  let note (h : Health) (r : Bool) : HealthNotice := { unit := BitVec.ofNat 8 u, health := h, perm := false, event := 0x0722, recover := r }
  if s.unitFault u then (if x.health = .failed then s else s.healthChange (note .failed false))
  else if x.health = .failed ∧ ¬ x.perm then s.healthChange (note .worn true)
  else s

/-- `reconcile` unit (R554, R590). -/
def execNargaReconcile (l : NLine) (unit : Byte) (s : State) : Host.Outcome State Fault Refusal :=
  let u := unit.toNat
  let chan := decide (0x70 ≤ u ∧ u < 0x78)
  s.nargaDo l (.reconcile unit) { noun := chan || unitNames.any fun x => decide (x.2 = u) } fun s =>
    if chan then
      let n := toChan (u - 0x70)
      let data := ["legal " ++ legalText (s.chan n).legal, "health " ++ healthText (chanHealth s n)]
      s.slotReply l (.views n) 5 n.val [] data
    else
      let old := (unitOf s u).health
      let s' := s.reexamine u
      (s'.hlog 0x0722 sevNotice u [unit, BitVec.ofNat 8 old.code, BitVec.ofNat 8 (unitOf s' u).health.code],
        .done ["legal none", "health " ++ healthText old] (if (unitOf s' u).health = old then "OK 000" else "OK 001 changed"))

/-- Whether some ledger core runs ungated (R555, R612, R667). -/
def State.someCoreRuns (s : State) : Bool :=
  decide (s.power.entry = 0) && allCores.any fun c => decide ((s.core c).core = .run)

/-- `app` text (R555, R592): one exchange at a time. -/
def execNargaApp (l : NLine) (text : List Byte) (s : State) : Host.Outcome State Fault Refusal :=
  s.nargaDo l (.app text) { power := s.someCoreRuns, background := true } fun s =>
    if s.well.appPend then (s, .done [] "BZ 500") else (s.appBegin text, .later [] (.app l.sess l.tag) true)

/-- `reset core` c: the reset begins after the final status line (R556, R412, R682). -/
def execNargaResetCore (l : NLine) (c : Nat) (s : State) : Host.Outcome State Fault Refusal :=
  s.nargaDo l (.resetCore c) { numbers := decide (c < 4), power := decide (s.power.stage = .released) && !s.power.pfail } fun s =>
    if s.coreSpent (Fin.ofNat 4 c) then (s, .done [] "ER 300")
    else (s.modNarga fun n => { n with resetCore := some (Fin.ofNat 4 c) }, ok [])

/-- `reset port` p (R672): Dry, then an attempt as if after a first failure. -/
def execNargaResetPort (l : NLine) (p : Nat) (s : State) : Host.Outcome State Fault Refusal :=
  s.nargaDo l (.resetPort p) { numbers := decide (p < 4) } fun s => ((s.portReset (toPort p)).beginAttempt (toPort p), ok [])

/-- `reset device` (R556). -/
def execNargaResetDevice (l : NLine) (s : State) : Host.Outcome State Fault Refusal :=
  s.nargaDo l .resetDevice {} fun s =>
    if s.anySession then (s, .done [] "ER 301") else (s.modNarga fun n => { n with resetDevice := true }, ok [])

/-- `more` (R549): the next lines of the session's last response, with their own tags; OK 001 with nothing left. -/
def execNargaMore (l : NLine) (s : State) : Host.Outcome State Fault Refusal :=
  s.nargaShow l .more {} fun s => if ((s.narga.sess[l.sess]).remaining).isEmpty then .done [] "OK 001" else .rest

/-- `expert on` (R557). -/
def execNargaExpertOn (l : NLine) (s : State) : Host.Outcome State Fault Refusal :=
  s.nargaDo l .expertOn {} fun s =>
    ((s.modSess l.sess fun z => { z with expert := true }).hlog 0x0740 sevNotice 0x60 [BitVec.ofNat 8 l.sess.val], .done [] "OK 001 expert")

/-- `expert off` (R553, R557). -/
def execNargaExpertOff (l : NLine) (s : State) : Host.Outcome State Fault Refusal :=
  s.nargaDo l .expertOff {} fun s => ((s.expertEnd l.sess 0).emptyStaging, ok [])

/-! ### Expert verbs (Table 15.3) -/

/-- `xreg` addr: a 32-bit read by Wellhead. -/
def execNargaXregRead (l : NLine) (a : Nat) (s : State) : Host.Outcome State Fault Refusal :=
  s.nargaDo l (.xregRead a) { expert := some 1, numbers := decide (a % 4 = 0 ∧ a < 2 ^ 32) } fun s =>
    match s.readError .wellhead a .word with
    | some kind => (s.busError .wellhead a false .word kind false, .done [] "ER 400 bus error")
    | none =>
      let (s, v) := if region a = .dev then s.readWhole .wellhead a
        else (s.nvReadCheck a, BitVec.ofNat 32 (leNat (bytesAt (physByte s .wellhead) a 4)))
      (s, ok [hText 8 v.toNat])

/-- `xreg` addr value: a 32-bit write in the device-register region. -/
def execNargaXregWrite (l : NLine) (a : Nat) (v : Nat) (s : State) : Host.Outcome State Fault Refusal :=
  s.nargaDo l (.xregWrite a v) { expert := some 1, numbers := decide (a % 4 = 0 ∧ a < 2 ^ 32 ∧ v < 2 ^ 32) } fun s =>
    if ¬ (0x04000000 ≤ a ∧ a ≤ 0x040FFFFF) then (s, .done [] "ER 202")
    else match s.writeError .wellhead a .word with
    | some kind => (s.busError .wellhead a true .word kind false, .done [] "ER 400 bus error")
    | none =>
      if (match regInfo a with | some i => i.expert | none => false) then s.expertWrite a (BitVec.ofNat 32 v)
      else (s.wellWrite a (BitVec.ofNat 32 v), ok [])

/-- `xch` n `scrub` i (R138). -/
def execNargaXchScrub (l : NLine) (n : Nat) (i : Nat) (s : State) : Host.Outcome State Fault Refusal :=
  s.nargaDo l (.xchScrub n i) { expert := some 2, numbers := decide (n < 8 ∧ 256 ≤ i ∧ i ≤ 65535) } fun s =>
    s.expertWrite (Reg.ceXscrub n) (BitVec.ofNat 32 i)

/-- `xch` n `inj` word bit (R138). -/
def execNargaXchInj (l : NLine) (n : Nat) (word : Nat) (bit : Nat) (s : State) : Host.Outcome State Fault Refusal :=
  s.nargaDo l (.xchInj n word bit) { expert := some 2, numbers := decide (n < 8 ∧ word < 2048 ∧ bit ≤ 103) } fun s =>
    if s.inSession (toChan n) then (s, .done [] "ER 301")
    else if (s.chan (toChan n)).legal ≠ .out then (s, .done [] "ER 202")
    else s.expertWrite (Reg.ceXinj n) (BitVec.ofNat 32 (word + bit * 2 ^ 16 + 2 ^ 24))

/-- `xcnv` u `raw on` / `raw off` (R179). -/
def execNargaXcnvRaw (l : NLine) (u : Cnv) (on : Bool) (s : State) : Host.Outcome State Fault Refusal :=
  s.nargaDo l (.xcnvRaw u on) { expert := some 3 } fun s =>
    if s.groupInSession u then (s, .done [] "ER 301") else s.expertWrite (Reg.cnvXraw u.val) (BitVec.ofNat 32 (b2n on))

/-- `xcnv` u `surge` (R179). -/
def execNargaXcnvSurge (l : NLine) (u : Cnv) (s : State) : Host.Outcome State Fault Refusal :=
  s.nargaDo l (.xcnvSurge u) { expert := some 3 } fun s =>
    if s.groupInSession u then (s, .done [] "ER 301") else s.expertWrite (Reg.cnvXsurge u.val) 1

/-- USD_XTEST through Narga: ER 304 unless the port is disabled and Dry (R486). -/
def State.xtestReply (s : State) (p : Nat) (v : Word) : State × Reply :=
  if s.usdEn (toPort p) ∨ (s.port (toPort p)).state ≠ .dry then (s, .done [] "ER 304") else s.expertWrite (Reg.usdXtest p) v

/-- `xport` p `loop`. -/
def execNargaXportLoop (l : NLine) (p : Nat) (s : State) : Host.Outcome State Fault Refusal :=
  s.nargaDo l (.xportLoop p) { expert := some 4, numbers := decide (p < 4) } fun s => s.xtestReply p 1

/-- `xport` p `prbs`. -/
def execNargaXportPrbs (l : NLine) (p : Nat) (s : State) : Host.Outcome State Fault Refusal :=
  s.nargaDo l (.xportPrbs p) { expert := some 4, numbers := decide (p < 4) } fun s => s.xtestReply p 2

/-- `xport` p `test off`. -/
def execNargaXportTestOff (l : NLine) (p : Nat) (s : State) : Host.Outcome State Fault Refusal :=
  s.nargaDo l (.xportTestOff p) { expert := some 4, numbers := decide (p < 4) } fun s => s.xtestReply p 0

/-- `xport` p `head` b (R486). -/
def execNargaXportHead (l : NLine) (p : Nat) (b : Nat) (s : State) : Host.Outcome State Fault Refusal :=
  s.nargaDo l (.xportHead p b) { expert := some 4, numbers := decide (p < 4 ∧ b < 65536) } fun s =>
    s.expertWrite (Reg.usdXhead p) (BitVec.ofNat 32 b)

/-- `xport` p `gohyst` b (R486). -/
def execNargaXportGohyst (l : NLine) (p : Nat) (b : Nat) (s : State) : Host.Outcome State Fault Refusal :=
  s.nargaDo l (.xportGohyst p b) { expert := some 4, numbers := decide (p < 4 ∧ 512 ≤ b ∧ b ≤ 8192) } fun s =>
    s.expertWrite (Reg.usdXgohyst p) (BitVec.ofNat 32 b)

/-- `xclk mon` [clock]. -/
def execNargaXclkMon (l : NLine) (clock : Option Nat) (s : State) : Host.Outcome State Fault Refusal :=
  s.nargaShow l (.xclkMon clock) { expert := some 5, noun := decide (clock.getD 0 < 6) } fun s =>
    ok (match clock with | none => (List.range 6).map fun k => monLine s k | some k => [monLine s k])

/-! ### What ends later -/

/-- EXPERT_IDLE_TIMEOUT: no line for 10 min (R557). -/
def execExpertIdleTimeout (i : Session) (s : State) : Host.Outcome State Fault Refusal := .next (s.expertEnd i 1)

/-- TUNNEL_SESSION_IDLE: a tunnel session idle for 60 s ends (R550). -/
def execTunnelSessionIdle (i : Session) (s : State) : Host.Outcome State Fault Refusal :=
  if i = 0 ∨ (s.narga.sess[i]).busy then .next s else .next ((s.expertEnd i 2).modSess i fun _ => {})

end Sys2Proof.Machine
end

