-- ==== Sys2Proof/Machine/NargaLines.lean ====
section
/-! DEFINITION. The lines that Narga takes from CON0 and from the Wellhead slot, and the lines that wait (spec/15 R532, R545, R546, R548). -/

namespace Sys2Proof.Machine

/-- A line that has been read is taken: the verb's own meaning. -/
def execSpoken (l : NLine) (v : NVerb) (s : State) : Host.Outcome State Fault Refusal :=
  match v with
  | .lineTooLong => execNargaLineTooLong l s
  | .unknownVerb => execNargaUnknownVerb l s
  | .help verb => execNargaHelp l verb s
  | .id => execNargaId l s
  | .idFull => execNargaIdFull l s
  | .stat => execNargaStat l s
  | .ch n => execNargaCh l n s
  | .chIn n => execNargaChIn l n s
  | .chOut n => execNargaChOut l n s
  | .chReload n => execNargaChReload l n s
  | .chClose n => execNargaChClose l n s
  | .cnv u => execNargaCnv l u s
  | .cnvCal u => execNargaCnvCal l u s
  | .port p => execNargaPort l p s
  | .portPeer p => execNargaPortPeer l p s
  | .portRetrain p => execNargaPortRetrain l p s
  | .portOn p => execNargaPortOn l p s
  | .portOff p => execNargaPortOff l p s
  | .routeNode => execNargaRouteNode l s
  | .routeNodeSet id => execNargaRouteNodeSet l id s
  | .route id => execNargaRoute l id s
  | .routeSet id nbr => execNargaRouteSet l id nbr s
  | .routeTunnel set => execNargaRouteTunnel l set s
  | .logHealth k => execNargaLogHealth l k s
  | .logLegal k => execNargaLogLegal l k s
  | .logHealthFrom q k => execNargaLogHealthFrom l q k s
  | .logLegalFrom q k => execNargaLogLegalFrom l q k s
  | .tarn => execNargaTarn l s
  | .tarnTime set => execNargaTarnTime l set s
  | .tarnLogack q => execNargaTarnLogack l q s
  | .tarnNonce => execNargaTarnNonce l s
  | .tarnStage off data => execNargaTarnStage l off data s
  | .tarnSubmit => execNargaTarnSubmit l s
  | .pwr => execNargaPwr l s
  | .pwrGo ps => execNargaPwrGo l ps s
  | .clk => execNargaClk l s
  | .img => execNargaImg l s
  | .imgVerify img => execNargaImgVerify l img s
  | .imgActivate img => execNargaImgActivate l img s
  | .reconcile unit => execNargaReconcile l unit s
  | .app text => execNargaApp l text s
  | .resetCore c => execNargaResetCore l c s
  | .resetPort p => execNargaResetPort l p s
  | .resetDevice => execNargaResetDevice l s
  | .more => execNargaMore l s
  | .expertOn => execNargaExpertOn l s
  | .expertOff => execNargaExpertOff l s
  | .xregRead a => execNargaXregRead l a s
  | .xregWrite a v => execNargaXregWrite l a v s
  | .xchScrub n i => execNargaXchScrub l n i s
  | .xchInj n word bit => execNargaXchInj l n word bit s
  | .xcnvRaw u on => execNargaXcnvRaw l u on s
  | .xcnvSurge u => execNargaXcnvSurge l u s
  | .xportLoop p => execNargaXportLoop l p s
  | .xportPrbs p => execNargaXportPrbs l p s
  | .xportTestOff p => execNargaXportTestOff l p s
  | .xportHead p b => execNargaXportHead l p b s
  | .xportGohyst p b => execNargaXportGohyst l p b s
  | .xclkMon clock => execNargaXclkMon l clock s

/-- The state after a line is taken. -/
def State.lineSpoken (s : State) (x : NLine × NVerb) : State :=
  match execSpoken x.1 x.2 s with
  | .next t => t
  | _ => s

/-- The lines that ended are taken in their order (R545). -/
def State.takeEnded (s : State) : State := (s.modNarga fun n => { n with ended := [] }).each s.narga.ended State.lineSpoken

/-- Waiting lines are taken in their order until a command goes on that keeps the next one waiting; at most 8 wait (R545). -/
def State.takeWaiting : Nat → State → State
  | 0, s => s
  | k + 1, s =>
    if s.nargaWorks then s
    else match s.narga.waiting with
    | [] => s
    | x :: rest =>
      let s := (s.modNarga fun n => { n with waiting := rest }).modSess x.1.sess fun z => { z with busy := false }
      (s.lineSpoken x).takeWaiting k

/-- UART_RXD_READ (R32, R691): a byte is read; a line that ends with it is taken. -/
def execUartRxdRead (m : Master) (u : Uart) (s : State) : Host.Outcome State Fault Refusal :=
  match execSnapshotRead m (Reg.conRxd u.val) (match m with | .lc _ _ _ => .half | .test => .half | _ => .word) s with
  | .next t => .next t.takeEnded
  | o => o

/-- TXN_W_TAKE (R523): the tunnel line in the Wellhead slot is taken (R548). -/
def execTxnWTake (v : Word) (s : State) : Host.Outcome State Fault Refusal :=
  if field v 0 4 = 6 then .next (s.wCommand v).takeEnded else .next s

/-- Tarn has answered the command under way of a session: its final status line, or a further command through slot 4. -/
def State.slotEnded (s : State) (i : Session) (tag : Option String) (k : SlotNext) : State :=
  let l : NLine := { sess := i, tag := tag, check := 0, args := [], flaw := none }
  let (s, r) := (s.modNarga fun m => { m with jobs := m.jobs.erase (.slot i tag k) }).slotAnswered l k
  match r with
  | .done data final => (s.each data fun s d => s.respondPart i tag ("= " ++ d)).respondLate i tag final
  | r => s.answerLine l r

/-- BACKGROUND_COMMAND_DONE: Tarn has answered in slot 4; the command under way ends or goes on, and the waiting lines follow (R545, R546). -/
def execBackgroundCommandDone (s : State) : Host.Outcome State Fault Refusal :=
  if s.slot4Busy ∨ ¬ s.wellheadRuns then .next s
  else match s.narga.jobs.find? BgJob.holds with
  | some (.slot i tag k) => .next ((s.slotEnded i tag k).takeWaiting 8)
  | _ => .next s

end Sys2Proof.Machine
end

