-- ==== Sys2Proof/Machine/System.lean ====
section
/-! DEFINITION. Control, return-stack and system instructions of both forms (spec/06, spec/07): branches, calls, traps, the context word,
SYNC, spills, storage keys. -/

namespace Sys2Proof.Machine

/-! ### Shapes -/

/-- The opcode of an instruction that both forms have. -/
def formOp (f : Form) (a s : Byte) : Op Unit := opcode (match f with | .A => a | .S => s)

/-- The opcode of a privileged instruction: a second byte of page F8h, or an S-form cell (R217, R252, R256). -/
def systemOp (f : Form) (second s : Byte) : Op Unit :=
  match f with
  | .A => do fetchByte 0xF8 none; fetchOpcode second true false noPhase
  | .S => fetchOpcode s true false noPhase

/-- The count byte of SPILL and FILL (R253). -/
def countByte (n : Byte) : Op Unit := fetchByte n (if n = 0 ∨ 32 < n.toNat then some 2 else none)

/-- The instruction goes on at an address. -/
def goTo (a : Half) : Op Unit := setRegs fun _ r => { r with pc := a }

/-- EC 0Fh at the CALL limit (R210, R226). -/
def callRoom : Op Unit := do
  let r ← get
  if field (r.st.reg (Reg.xrslim r.c.val)) 0 6 ≤ r.stack.length then pcFault 0x0F

/-- A call: the address of the next instruction is pushed (R209, R228). -/
def pushCall (a : Half) : Op Unit := do
  modify fun r => { r with stack := { pc := r.r.pc, ctx := r.r.ctx, t := false } :: r.stack }
  goTo a

/-- A call with its check of the CALL limit. -/
def callTo (a : Half) : Op Unit := do
  callRoom
  pushCall a

/-- The part of the state outside the instruction changes with it. -/
def alter (f : State → Core → Ctx → State) : Op Unit := modify fun r => { r with st := f r.st r.c r.k }

/-- The bytes of a spill area are checked as supervisor data accesses, before the first of them is made (R214, R254, R311, R365). -/
def checkArea (write : Bool) : List Nat → Op (List Loc)
  | [] => pure []
  | n :: t => do
    let a : Half := BitVec.ofNat 16 n
    if 65536 ≤ n then raise { ec := 5, la := a, kind := 3 }
    let x ← checkAt a { (← get).access 3 with needR := !write, needW := write }
    let l ← checkArea write t
    pure (x :: l)

/-- The stack port reaches ledger SRAM alone (log 23). -/
def reachArea (write : Bool) : List Loc → Op Unit
  | [] => pure ()
  | l :: t => do
    if region l.pa ≠ .sram then busFault l.la l.pa write .word (sramPortKind l.pa) false 3
    modify fun r => r.touch l.pa write
    reachArea write t

/-- EC 13h of a fill that meets an uncorrectable word. -/
def areaGood : List Loc → Op Unit
  | [] => pure ()
  | l :: t => do
    if (← get).st.eccBad l.pa then eccFault l.la l.pa 3
    areaGood t

/-- The physical addresses of a spill area; a spill or fill of bytes that an earlier store still holds in the buffer waits for it (R260,
log 28). -/
def areaBytes (write : Bool) (l : List Nat) : Op (List Nat) := do
  let locs ← checkArea write l
  reachArea write locs
  let r ← get
  if locs.any fun x => (bufByte (r.st.core r.c).buf x.pa).isSome then throw .wait
  if !write then areaGood locs
  pure (locs.map fun x => x.pa)

/-- LCC_KRSN.RSN, LCC_KRSB.RSB and RSLIM of the context as byte addresses (Table 6.3). -/
def Run.rsn (r : Run) : Nat := field (effReg r.st r.c (Reg.krsn r.c.val r.k.val)) 0 16
def Run.rsb (r : Run) : Nat := field (effReg r.st r.c (Reg.krsb r.c.val r.k.val)) 2 14 * 4
def Run.rslim (r : Run) : Nat := field (effReg r.st r.c (Reg.krsb r.c.val r.k.val)) 18 14 * 4

/-- The 4 bytes of a spilled entry, with T in bit 8 of CTX (R213). -/
def RsEntry.bytes (e : RsEntry) : List Byte :=
  let ctx : Half := (e.ctx &&& 0xFEFF) ||| if e.t then 0x100 else 0
  [lowByte e.pc, highByte e.pc, lowByte ctx, highByte ctx]

/-- The entry that 4 bytes hold; its FS is taken from its block when it is popped (R213, R255). -/
def entryOf (l : List Byte) : RsEntry :=
  let ctx := half (l.getD 2 0) (l.getD 3 0)
  { pc := half (l.getD 0 0) (l.getD 1 0), ctx := ctx &&& 0xFEFF, t := ctx.getLsbD 8 }

/-- The elements of a list four by four. -/
def fours {α : Type} : Nat → List α → List (List α)
  | 0, _ => []
  | n + 1, l => l.take 4 :: fours n (l.drop 4)

/-- A spilled entry goes to memory through the stack port, beside the store buffer (R254). -/
def State.spillEntry (s : State) (c : Core) (k : Ctx) (pa : Nat) (l : List Byte) : State :=
  let (mask, data) := packWord pa l
  s.writeEntry c { word := pa / 8, mask, data, se := false, ctx := k, sup := true, key := none }

/-- The depths of the entries whose RTI something waits for move as older entries leave the core or come back (R213, R399, R418). -/
def State.shiftReturns (s : State) (c : Core) (k : Ctx) (d : Int) : State :=
  s.modCore c fun x => { x with
    ec11Back := if k = 0 then x.ec11Back.map fun e => (e.1 + d, e.2) else x.ec11Back
    kept := x.kept.map fun e => if e.2.1 = k then (e.1, e.2.1, e.2.2 + d) else e }

/-- RSN of the context takes a value; one that another master has committed meanwhile is still the later. -/
def State.setRsn (s : State) (c : Core) (k : Ctx) (n : Nat) : State :=
  let a := Reg.krsn c.val k.val
  let v : Word := BitVec.ofNat 32 (n % 65536)
  if (s.core c).lateRegs.any fun e => decide (e.1 = a) then
    s.modCore c fun x => { x with lateRegs := x.lateRegs.map fun e => if e.1 = a then (a, v) else e }
  else s.setReg a v

/-- The RTI of an entry lets the lines go that were re-routed while it was taken (R418). -/
def State.leaveKept (s : State) (c : Core) (k : Ctx) (depth : Int) : State :=
  s.modCore c fun x => { x with kept := x.kept.filter fun e => ¬ (e.2.1 = k ∧ e.2.2 = depth) }

/-- The change of context 0 back to the state it had when EC 11h was delivered, with the RTI of that entry (R399). -/
def State.leaveEc11 (s : State) (c : Core) (k : Ctx) (depth : Int) : State :=
  match (s.core c).ec11Back with
  | (d, st) :: rest =>
    if k = 0 ∧ d = depth then (s.modCore c fun x => { x with ec11Back := rest }).modCtx c 0 fun x => { x with state := st } else s
  | [] => s

/-! ### Both forms -/

/-- NOP does nothing (R246). -/
def nopOp (f : Form) : Op Unit := formOp f 0x80 0x00
/-- The meaning of Nop (its operation in the context that runs). -/
def execNop (c : Core) (f : Form) (s : State) : Host.Outcome State Fault Refusal := instr c f (nopOp f) s
/-- RCTX: Y ← CTX (R196). -/
def rctxOp (f : Form) : Op Unit :=
  do
    formOp f 0xA8 0x6A
    setRegs fun v r => { r with y := v.ctx }
/-- The meaning of Rctx (its operation in the context that runs). -/
def execRctx (c : Core) (f : Form) (s : State) : Host.Outcome State Fault Refusal := instr c f (rctxOp f) s
/-- WCTX: CTX ← Y with FS ignored; in user state only CD may change, which is EC 03h at its byte, before EC 02h (R196, R236). -/
def wctxOp (f : Form) : Op Unit :=
  do
    let r ← get
    let y := r.seen.y
    fetchByte (match f with | .A => 0xA9 | .S => 0x6B)
      (if r.user ∧ y &&& 0xFEF0 ≠ r.base.ctx &&& 0xFEF0 then some 3
       else if 9 < field y 0 4 ∨ r.base.ph ≠ 0 then some 2 else none)
    setRegs fun v r => { r with ctx := (y &&& 0xFEFF) ||| (v.ctx &&& 0x0100) }
/-- The meaning of Wctx (its operation in the context that runs). -/
def execWctx (c : Core) (f : Form) (s : State) : Host.Outcome State Fault Refusal := instr c f (wctxOp f) s
/-- SYNC waits for the stores of its context; SYNC_DONE completes it (R222). -/
def syncOp (f : Form) : Op Unit :=
  do
    formOp f 0xAA 0x69
    throw .wait
/-- The meaning of Sync (its operation in the context that runs). -/
def execSync (c : Core) (f : Form) (s : State) : Host.Outcome State Fault Refusal := instr c f (syncOp f) s
/-- WAIT puts the context in IDLE (R200). -/
def waitOp (f : Form) : Op Unit :=
  do
    formOp f 0xAB 0x68
    alter fun s c k => s.modCtx c k fun x => { x with state := .idle }
/-- The meaning of Wait (its operation in the context that runs). -/
def execWait (c : Core) (f : Form) (s : State) : Host.Outcome State Fault Refusal := instr c f (waitOp f) s
/-- SVC n raises EC 15h, resuming at the next instruction (R218). -/
def svcOp (f : Form) (n : Byte) : Op Unit :=
  do
    formOp f 0xAC 0x66
    fetchByte n none
    trapNext 0x15 n.toNat
/-- The meaning of Svc (its operation in the context that runs). -/
def execSvc (c : Core) (f : Form) (n : Byte) (s : State) : Host.Outcome State Fault Refusal := instr c f (svcOp f n) s
/-- BPT raises EC 16h, resuming at the next instruction (R237). -/
def bptOp (f : Form) : Op Unit :=
  do
    formOp f 0xAD 0x67
    trapNext 0x16 0
/-- The meaning of Bpt (its operation in the context that runs). -/
def execBpt (c : Core) (f : Form) (s : State) : Host.Outcome State Fault Refusal := instr c f (bptOp f) s
/-- JMP: PC ← a (Table 7.4, Table 7.8). -/
def jmpOp (f : Form) (a : Half) : Op Unit :=
  do
    formOp f 0xB0 0x64
    fetchHalf a
    goTo a
/-- The meaning of Jmp (its operation in the context that runs). -/
def execJmp (c : Core) (f : Form) (a : Half) (s : State) : Host.Outcome State Fault Refusal := instr c f (jmpOp f a) s
/-- JMPX: PC ← (a + X) mod 1_0000h (Table 7.4). -/
def jmpxOp (a : Half) : Op Unit :=
  do
    opcode 0xB1
    fetchHalf a
    goTo (a + (← get).seen.x)
/-- The meaning of Jmpx (its operation in the context that runs). -/
def execJmpx (c : Core) (a : Half) (s : State) : Host.Outcome State Fault Refusal := instr c .A (jmpxOp a) s
/-- CALL: push next; PC ← a (R210). -/
def callOp (f : Form) (a : Half) : Op Unit :=
  do
    formOp f 0xB2 0x61
    fetchHalf a
    callTo a
/-- The meaning of Call (its operation in the context that runs). -/
def execCall (c : Core) (f : Form) (a : Half) (s : State) : Host.Outcome State Fault Refusal := instr c f (callOp f a) s
/-- CALLX: push next; PC ← X (R210). -/
def callxOp : Op Unit :=
  do
    opcode 0xB3
    callTo (← get).seen.x
/-- The meaning of Callx (its operation in the context that runs). -/
def execCallx (c : Core) (s : State) : Host.Outcome State Fault Refusal := instr c .A callxOp s
/-- A return does not count for a mode switch (R219). -/
def uncounted : Op Unit := modify fun r => { r with counts := false }

/-- RET pops an entry with T = 0 and goes on at its PC, with the CTX that RSWR has given it (R212, R264). -/
def retOp (f : Form) : Op Unit :=
  do
    formOp f 0xB4 0x63
    let r ← get
    match r.stack with
    | [] => pcFault 0x10
    | e :: rest =>
      if e.t then pcFault 0x10
      set { r with stack := rest }
      uncounted
      setRegs fun _ r => { r with pc := e.pc, ctx := if e.rewritten then e.ctx else r.ctx }
/-- The meaning of Ret (its operation in the context that runs). -/
def execRet (c : Core) (f : Form) (s : State) : Host.Outcome State Fault Refusal := instr c f (retOp f) s
/-- BRA: PC ← next + r (Table 7.4). -/
def braOp (f : Form) (d : Half) : Op Unit :=
  do
    formOp f 0xB5 0x60
    fetchHalf d
    branchIf true d
/-- The meaning of Bra (its operation in the context that runs). -/
def execBra (c : Core) (f : Form) (d : Half) (s : State) : Host.Outcome State Fault Refusal := instr c f (braOp f d) s
/-- DBNX: X ← X − 1, and a branch while it is not 0 (R263). -/
def dbnxOp (d : Half) : Op Unit :=
  do
    opcode 0xB6
    fetchHalf d
    let n := (← get).seen.x - 1
    setRegs fun _ r => { r with x := n }
    predicted (decide (n ≠ 0)) d
/-- The meaning of Dbnx (its operation in the context that runs). -/
def execDbnx (c : Core) (d : Half) (s : State) : Host.Outcome State Fault Refusal := instr c .A (dbnxOp d) s
/-- DBNY: Y ← Y − 1, and a branch while it is not 0 (R263). -/
def dbnyOp (d : Half) : Op Unit :=
  do
    opcode 0xB7
    fetchHalf d
    let n := (← get).seen.y - 1
    setRegs fun _ r => { r with y := n }
    predicted (decide (n ≠ 0)) d
/-- The meaning of Dbny (its operation in the context that runs). -/
def execDbny (c : Core) (d : Half) (s : State) : Host.Outcome State Fault Refusal := instr c .A (dbnyOp d) s
/-- The emulation call raises EC 14h, resuming at the next instruction; in S-form it is one byte with number 00h (R258). -/
def emulationCallOp (f : Form) (e : Byte) : Op Unit :=
  do
    opcode 0xFF
    match f with
    | .A => do fetchByte e none; trapNext 0x14 e.toNat
    | .S => trapNext 0x14 0
/-- The meaning of EmulationCall (its operation in the context that runs). -/
def execEmulationCall (c : Core) (f : Form) (e : Byte) (s : State) : Host.Outcome State Fault Refusal := instr c f (emulationCallOp f e) s
/-- The undefined cells of Table 7.4 and R251: primary bytes that raise EC 01h. -/
def undefinedPrimary (b : Nat) : Bool :=
  decide (b = 0xAE ∨ b = 0xAF ∨ b = 0xBE ∨ b = 0xBF ∨ (0xC0 ≤ b ∧ b ≤ 0xEF) ∨ b = 0xF2 ∨ b = 0xF3 ∨ b = 0xF6 ∨ b = 0xF7 ∨
    (0xF9 ≤ b ∧ b ≤ 0xFE))

/-- The undefined second bytes of a page (R249 to R252, R277, R287). -/
def undefinedSecond (page b : Nat) : Bool :=
  match page with
  | 0xF0 => decide (0x48 ≤ b)
  | 0xF1 => decide (0x60 ≤ b)
  | 0xF4 => decide (0x0E ≤ b)
  | 0xF5 => decide (0x08 ≤ b)
  | 0xF8 => decide (0x0B ≤ b)
  | _ => false

/-- The undefined cells of Table 7.8. -/
def undefinedS (b : Nat) : Bool :=
  decide (b = 0x2E ∨ b = 0x2F ∨ (0x38 ≤ b ∧ b ≤ 0x3F) ∨ (0x6C ≤ b ∧ b ≤ 0x6F) ∨ (0x79 ≤ b ∧ b ≤ 0xBF) ∨ (0xF0 ≤ b ∧ b ≤ 0xFE))

/-- An undefined opcode raises EC 01h at the byte that reveals it (R236, R246, R251, R256); bytes that are defined are not this command. -/
def undefinedOpcodeOp (f : Form) (op : Byte) (second : Byte) : Op Unit :=
  match f with
  | .S => if undefinedS op.toNat then fetchByte op (some 1) else throw .notHere
  | .A =>
    if undefinedPrimary op.toNat then fetchByte op (some 1)
    else if undefinedSecond op.toNat second.toNat then do
      fetchByte op none
      fetchByte second (some 1)
    else throw .notHere
/-- The meaning of UndefinedOpcode (its operation in the context that runs). -/
def execUndefinedOpcode (c : Core) (f : Form) (op : Byte) (second : Byte) (s : State) : Host.Outcome State Fault Refusal := instr c f (undefinedOpcodeOp f op second) s
/-! ### The system page F8h and S-form 70h to 78h (Table 7.7) -/

/-- RTI pops an entry with T = 1 and restores PC and CTX; values that waited for SYNC apply (R212, R222, R399). -/
def rtiOp (f : Form) : Op Unit :=
  do
    systemOp f 0x00 0x70
    let r ← get
    match r.stack with
    | [] => pcFault 0x10
    | e :: rest =>
      if !e.t then pcFault 0x10
      set { r with stack := rest }
      uncounted
      setRegs fun _ r => { r with pc := e.pc, ctx := e.ctx }
      alter fun s c k => ((s.syncApply c).leaveEc11 c k rest.length).leaveKept c k rest.length
/-- The meaning of Rti (its operation in the context that runs). -/
def execRti (c : Core) (f : Form) (s : State) : Host.Outcome State Fault Refusal := instr c f (rtiOp f) s
/-- SPILL n writes the n oldest entries, oldest first, and adds n to RSN (R213, R214, R254). -/
def spillOp (f : Form) (n : Byte) : Op Unit :=
  do
    systemOp f 0x01 0x71
    countByte n
    let r ← get
    let m := n.toNat
    let base := r.rsb + r.rsn * 4
    if r.rslim < base + m * 4 ∨ r.stack.length < m then pcFault 0x12
    let pas ← areaBytes true ((List.range (m * 4)).map (base + ·))
    let old := (r.stack.drop (r.stack.length - m)).reverse
    let words := (fours m pas).zip (old.map RsEntry.bytes)
    alter fun s c k =>
      ((words.foldl (fun s w => s.spillEntry c k (w.1.headD 0) w.2) s).setRsn c k (r.rsn + m)).shiftReturns c k (-m)
    modify fun r => { r with stack := r.stack.take (r.stack.length - m) }
/-- The meaning of Spill (its operation in the context that runs). -/
def execSpill (c : Core) (f : Form) (n : Byte) (s : State) : Host.Outcome State Fault Refusal := instr c f (spillOp f n) s
/-- FILL n reads the n newest spilled entries back beneath the oldest in the core and takes n from RSN (R213, R214). -/
def fillOp (f : Form) (n : Byte) : Op Unit :=
  do
    systemOp f 0x02 0x72
    countByte n
    let r ← get
    let m := n.toNat
    let limit := if r.k = 0 then 40 else 32
    if r.rsn < m ∨ limit < r.stack.length + m then pcFault 0x12
    let pas ← areaBytes false ((List.range (m * 4)).map (r.rsb + (r.rsn - m) * 4 + ·))
    let es := ((fours m (pas.map r.st.byte)).map entryOf).reverse
    alter fun s c k => (s.setRsn c k (r.rsn - m)).shiftReturns c k m
    modify fun r => { r with stack := r.stack ++ es }
/-- The meaning of Fill (its operation in the context that runs). -/
def execFill (c : Core) (f : Form) (n : Byte) (s : State) : Host.Outcome State Fault Refusal := instr c f (fillOp f n) s
/-- KSET: the key entry of frame Y takes A, through the store buffer (R371). -/
def ksetOp (f : Form) : Op Unit :=
  do
    systemOp f 0x03 0x73
    let v := (← get).seen
    if 5120 ≤ v.y.toNat ∨ field v.a 2 2 = 3 then decodeFault 2
    modify fun r => { r with puts := [{ pa := 0, data := [], se := true, key := some (v.y.toNat, v.a) }] }
/-- The meaning of Kset (its operation in the context that runs). -/
def execKset (c : Core) (f : Form) (s : State) : Host.Outcome State Fault Refusal := instr c f (ksetOp f) s
/-- SETIM: CTX.IM ← 1 (R262). -/
def setimOp (f : Form) : Op Unit :=
  do
    systemOp f 0x06 0x74
    setRegs fun _ r => { r with ctx := r.ctx ||| 0x0200 }
/-- The meaning of Setim (its operation in the context that runs). -/
def execSetim (c : Core) (f : Form) (s : State) : Host.Outcome State Fault Refusal := instr c f (setimOp f) s
/-- CLRIM: CTX.IM ← 0 (R262). -/
def clrimOp (f : Form) : Op Unit :=
  do
    systemOp f 0x07 0x75
    setRegs fun _ r => { r with ctx := r.ctx &&& 0xFDFF }
/-- The meaning of Clrim (its operation in the context that runs). -/
def execClrim (c : Core) (f : Form) (s : State) : Host.Outcome State Fault Refusal := instr c f (clrimOp f) s
/-- WDR restarts the watchdog of the context (R406). -/
def wdrOp (f : Form) : Op Unit :=
  do
    systemOp f 0x08 0x78
    alter fun s c k => s.modCtx c k fun x => { x with wdtLeft := s.wdtPeriod c, wdtOnce := false }
/-- The meaning of Wdr (its operation in the context that runs). -/
def execWdr (c : Core) (f : Form) (s : State) : Host.Outcome State Fault Refusal := instr c f (wdrOp f) s
/-- RSRD: X and Y take PC and CTX of the newest entry, Y[8] its T (R255). -/
def rsrdOp (f : Form) : Op Unit :=
  do
    systemOp f 0x09 0x76
    match (← get).stack with
    | [] => pcFault 0x10
    | e :: _ => setRegs fun _ r => { r with x := e.pc, y := (e.ctx &&& 0xFEFF) ||| if e.t then 0x0100 else 0 }
/-- The meaning of Rsrd (its operation in the context that runs). -/
def execRsrd (c : Core) (f : Form) (s : State) : Host.Outcome State Fault Refusal := instr c f (rsrdOp f) s
/-- RSWR: PC and CTX of the newest entry take X and Y; T is kept (R255). -/
def rswrOp (f : Form) : Op Unit :=
  do
    systemOp f 0x0A 0x77
    let r ← get
    if 9 < field r.seen.y 0 4 then decodeFault 2
    match r.stack with
    | [] => pcFault 0x10
    | e :: rest => set { r with stack := { e with pc := r.seen.x, ctx := r.seen.y &&& 0xFEFF, rewritten := true } :: rest }
/-- The meaning of Rswr (its operation in the context that runs). -/
def execRswr (c : Core) (f : Form) (s : State) : Host.Outcome State Fault Refusal := instr c f (rswrOp f) s
/-! ### The end of SYNC -/

/-- SYNC completes: fetched code and the line buffer are discarded, and the values it waited for apply (R222). -/
def State.syncFinish (s : State) (c : Core) (f : Form) : State :=
  let s := ((s.syncApply c).dropHeld c).modCore c fun x => { x with lineBuf := [] }
  let r := startRun s c f none
  match ({ r with r := { r.r with pc := r.r.pc + 1 } } : Run).complete with
  | some t => t.unpaired c
  | none => s

/-- SYNC_DONE: the SYNC that waits completes once every store of its context has left the buffer (R222). -/
def execSyncDone (c : Core) (s : State) : Host.Outcome State Fault Refusal :=
  match (s.core c).held with
  | some h =>
    if (h.bytes = [0xAA] ∨ h.bytes = [0x69]) ∧ s.canRun c ∧ ¬ (s.core c).buf.any (fun e => e.isOf (s.core c).cur) then
      .next (s.syncFinish c h.form)
    else .next s
  | none => .next s

end Sys2Proof.Machine
end

