-- ==== Sys2Proof/Machine/SForm.lean ====
section
/-! DEFINITION. The S-form instructions of Table 7.8 that work on the data stack. -/

namespace Sys2Proof.Machine

/-! ### Shapes -/

/-- DP after pops of items of these sizes, top first, then pushes: the checks of R207 before any access. -/
def popsTo (dp : Nat) : List Nat → Op Nat
  | [] => pure dp
  | n :: t => do popsTo (← popTo dp n) t
def pushesTo (dp : Nat) : List Nat → Op Nat
  | [] => pure dp
  | n :: t => do pushesTo (← pushTo dp n) t

/-- The reads of the items at DP, top first, are checked; and the stores of items of these sizes, pushed in order. -/
def checkPops (dp : Nat) : List Nat → Op (List (List Loc))
  | [] => pure []
  | n :: t => do
    let x ← checkItem 1 dp n
    let l ← checkPops (dp + n) t
    pure (x :: l)
def checkPushes (dp : Nat) : List Nat → Op (List (List Loc))
  | [] => pure []
  | n :: t => do
    let x ← checkItem 2 (dp - n) n
    let l ← checkPushes (dp - n) t
    pure (x :: l)

/-- Checked items are read in order. -/
def readItems : List (List Loc) → Op (List Nat)
  | [] => pure []
  | x :: t => do
    let v ← readItem x
    let l ← readItems t
    pure (v :: l)

/-- Checked items are stored in order. -/
def writeItems : List (List Loc × Nat) → Op Unit
  | [] => pure ()
  | (x, v) :: t => do
    writeItem v x
    writeItems t

/-- What a stack instruction does once its opcode and operands are fetched: it pops items of the sizes `ins`, pushes items of the sizes
`outs` with the values that `f` makes of the popped ones, and changes registers. Every access is checked before the first read (R311). -/
def stackWork (ins outs : List Nat) (f : CtxRegs → List Nat → List Nat) (g : List Nat → CtxRegs → CtxRegs) : Op Unit := do
  let v := (← get).seen
  let dp := v.dp.toNat
  let mid ← popsTo dp ins
  let dp' ← pushesTo mid outs
  let rd ← checkPops dp ins
  let wr ← checkPushes mid outs
  let l ← readItems rd
  writeItems (wr.zip (f v l))
  setRegs fun _ r => g l { r with dp := BitVec.ofNat 16 dp' }

/-- A stack instruction of one byte. -/
def stackOp (b : Byte) (ins outs : List Nat) (f : CtxRegs → List Nat → List Nat) : Op Unit := do
  opcode b
  stackWork ins outs f fun _ r => r

/-- The values of popped items, top first. -/
def at0 (l : List Nat) : Nat := l.getD 0 0
def at1 (l : List Nat) : Nat := l.getD 1 0
def at2 (l : List Nat) : Nat := l.getD 2 0
def byte0 (l : List Nat) : Byte := BitVec.ofNat 8 (at0 l)
def byte1 (l : List Nat) : Byte := BitVec.ofNat 8 (at1 l)
def word0 (l : List Nat) : Half := BitVec.ofNat 16 (at0 l)
def word1 (l : List Nat) : Half := BitVec.ofNat 16 (at1 l)

/-- A binary instruction on bytes: it pops b, then a, and pushes the result (Table 7.8). -/
def byteOp2 (b : Byte) (f : Byte → Byte → Byte) : Op Unit := stackOp b [1, 1] [1] fun _ l => [(f (byte1 l) (byte0 l)).toNat]
/-- The same on words. -/
def wordOp2 (b : Byte) (f : Half → Half → Half) : Op Unit := stackOp b [2, 2] [2] fun _ l => [(f (word1 l) (word0 l)).toNat]
/-- A unary instruction on a byte or a word. -/
def byteOp1 (b : Byte) (f : Byte → Byte) : Op Unit := stackOp b [1] [1] fun _ l => [(f (byte0 l)).toNat]
def wordOp1 (b : Byte) (f : Half → Half) : Op Unit := stackOp b [2] [2] fun _ l => [(f (word0 l)).toNat]
/-- ADDC and SUBB, which take and set CD (R245). -/
def carryOp2 (b : Byte) (f : Byte → Byte → Nat → Byte × Nat) : Op Unit := do
  opcode b
  let cd := (← get).seen.cd
  stackWork [1, 1] [1] (fun _ l => [(f (byte1 l) (byte0 l) cd).1.toNat]) fun l r => r.withCd (f (byte1 l) (byte0 l) cd).2
/-- A shift of a byte, which sets CD. -/
def shiftOp1 (b : Byte) (f : Byte → Byte × Nat) : Op Unit := do
  opcode b
  stackWork [1] [1] (fun _ l => [(f (byte0 l)).1.toNat]) fun l r => r.withCd (f (byte0 l)).2
/-- A copy of an item that stands `off` bytes below the top is pushed. -/
def copyOp (b : Byte) (off n : Nat) : Op Unit := do
  opcode b
  let dp := (← get).seen.dp.toNat
  let dp' ← pushTo dp n
  let rd ← checkItem 1 (dp + off) n
  let wr ← checkItem 2 dp' n
  let x ← readItem rd
  writeItem x wr
  setRegs fun _ r => { r with dp := BitVec.ofNat 16 dp' }
/-- An item is popped into a register. -/
def toReg (b : Byte) (n : Nat) (g : Nat → CtxRegs → CtxRegs) : Op Unit := do
  opcode b
  stackWork [n] [] (fun _ _ => []) fun l r => g (at0 l) r
/-- A register is pushed. -/
def fromReg (b : Byte) (n : Nat) (f : CtxRegs → Nat) : Op Unit := stackOp b [] [n] fun v _ => [f v]
/-- A literal is pushed. -/
def literal (n v : Nat) : Op Unit := stackWork [] [n] (fun _ _ => [v]) fun _ r => r

/-- The quotient and remainder of DIV (Table 7.8): by 00h they are FFFFh and 00h. -/
def divideS (x : Half) (a : Byte) : Half × Byte :=
  if a = 0 then (0xFFFF, 0) else (BitVec.ofNat 16 (x.toNat / a.toNat), BitVec.ofNat 8 (x.toNat % a.toNat))

/-! ### The instructions -/

/-- DUP: the top byte once more (Table 7.8). -/
def dupOp : Op Unit := copyOp 0x01 0 1
/-- The meaning of Dup (its operation in the context that runs). -/
def execDup (c : Core) (s : State) : Host.Outcome State Fault Refusal := instr c .S dupOp s
/-- DROP: the top byte goes (Table 7.8). -/
def dropOp : Op Unit := stackOp 0x02 [1] [] fun _ _ => []
/-- The meaning of Drop (its operation in the context that runs). -/
def execDrop (c : Core) (s : State) : Host.Outcome State Fault Refusal := instr c .S dropOp s
/-- SWAP: the top two bytes change places (Table 7.8). -/
def swapOp : Op Unit := stackOp 0x03 [1, 1] [1, 1] fun _ l => [at0 l, at1 l]
/-- The meaning of Swap (its operation in the context that runs). -/
def execSwap (c : Core) (s : State) : Host.Outcome State Fault Refusal := instr c .S swapOp s
/-- OVER: the second byte once more (Table 7.8). -/
def overOp : Op Unit := copyOp 0x04 1 1
/-- The meaning of Over (its operation in the context that runs). -/
def execOver (c : Core) (s : State) : Host.Outcome State Fault Refusal := instr c .S overOp s
/-- ROT: the top three bytes rotate, in the direction that the part has (Table 7.8; log 26). -/
def rotOp : Op Unit := stackOp 0x05 [1, 1, 1] [1, 1, 1] fun _ l => if Config.rotUp then [at1 l, at0 l, at2 l] else [at0 l, at2 l, at1 l]
/-- The meaning of Rot (its operation in the context that runs). -/
def execRot (c : Core) (s : State) : Host.Outcome State Fault Refusal := instr c .S rotOp s
/-- DUPW: the top word once more (Table 7.8). -/
def dupwOp : Op Unit := copyOp 0x06 0 2
/-- The meaning of Dupw (its operation in the context that runs). -/
def execDupw (c : Core) (s : State) : Host.Outcome State Fault Refusal := instr c .S dupwOp s
/-- DROPW: the top word goes (Table 7.8). -/
def dropwOp : Op Unit := stackOp 0x07 [2] [] fun _ _ => []
/-- The meaning of Dropw (its operation in the context that runs). -/
def execDropw (c : Core) (s : State) : Host.Outcome State Fault Refusal := instr c .S dropwOp s
/-- SWAPW: the top two words change places (Table 7.8). -/
def swapwOp : Op Unit := stackOp 0x08 [2, 2] [2, 2] fun _ l => [at0 l, at1 l]
/-- The meaning of Swapw (its operation in the context that runs). -/
def execSwapw (c : Core) (s : State) : Host.Outcome State Fault Refusal := instr c .S swapwOp s
/-- OVERW: the second word once more (Table 7.8). -/
def overwOp : Op Unit := copyOp 0x09 2 2
/-- The meaning of Overw (its operation in the context that runs). -/
def execOverw (c : Core) (s : State) : Host.Outcome State Fault Refusal := instr c .S overwOp s
/-- TOA: pop into A (Table 7.8). -/
def toaOp : Op Unit := toReg 0x0A 1 fun x r => { r with a := BitVec.ofNat 8 x }
/-- The meaning of Toa (its operation in the context that runs). -/
def execToa (c : Core) (s : State) : Host.Outcome State Fault Refusal := instr c .S toaOp s
/-- FROMA: push A (Table 7.8). -/
def fromaOp : Op Unit := fromReg 0x0B 1 (·.a.toNat)
/-- The meaning of Froma (its operation in the context that runs). -/
def execFroma (c : Core) (s : State) : Host.Outcome State Fault Refusal := instr c .S fromaOp s
/-- TOX: pop into X (Table 7.8). -/
def toxOp : Op Unit := toReg 0x0C 2 fun x r => { r with x := BitVec.ofNat 16 x }
/-- The meaning of Tox (its operation in the context that runs). -/
def execTox (c : Core) (s : State) : Host.Outcome State Fault Refusal := instr c .S toxOp s
/-- FROMX: push X (Table 7.8). -/
def fromxOp : Op Unit := fromReg 0x0D 2 (·.x.toNat)
/-- The meaning of Fromx (its operation in the context that runs). -/
def execFromx (c : Core) (s : State) : Host.Outcome State Fault Refusal := instr c .S fromxOp s
/-- TOY: pop into Y (Table 7.8). -/
def toyOp : Op Unit := toReg 0x0E 2 fun x r => { r with y := BitVec.ofNat 16 x }
/-- The meaning of Toy (its operation in the context that runs). -/
def execToy (c : Core) (s : State) : Host.Outcome State Fault Refusal := instr c .S toyOp s
/-- FROMY: push Y (Table 7.8). -/
def fromyOp : Op Unit := fromReg 0x0F 2 (·.y.toNat)
/-- The meaning of Fromy (its operation in the context that runs). -/
def execFromy (c : Core) (s : State) : Host.Outcome State Fault Refusal := instr c .S fromyOp s
/-- ADD on bytes (Table 7.8). -/
def sAddOp : Op Unit := byteOp2 0x10 fun a b => a + b
/-- The meaning of SAdd (its operation in the context that runs). -/
def execSAdd (c : Core) (s : State) : Host.Outcome State Fault Refusal := instr c .S sAddOp s
/-- ADDC on bytes (Table 7.8, R245). -/
def sAddcOp : Op Unit := carryOp2 0x11 addDigit
/-- The meaning of SAddc (its operation in the context that runs). -/
def execSAddc (c : Core) (s : State) : Host.Outcome State Fault Refusal := instr c .S sAddcOp s
/-- SUB on bytes: a − b (Table 7.8). -/
def sSubOp : Op Unit := byteOp2 0x12 fun a b => a - b
/-- The meaning of SSub (its operation in the context that runs). -/
def execSSub (c : Core) (s : State) : Host.Outcome State Fault Refusal := instr c .S sSubOp s
/-- SUBB on bytes: a − b − CD (Table 7.8, R245). -/
def sSubbOp : Op Unit := carryOp2 0x13 subDigit
/-- The meaning of SSubb (its operation in the context that runs). -/
def execSSubb (c : Core) (s : State) : Host.Outcome State Fault Refusal := instr c .S sSubbOp s
/-- AND on bytes (Table 7.8). -/
def sAndOp : Op Unit := byteOp2 0x14 fun a b => a &&& b
/-- The meaning of SAnd (its operation in the context that runs). -/
def execSAnd (c : Core) (s : State) : Host.Outcome State Fault Refusal := instr c .S sAndOp s
/-- OR on bytes (Table 7.8). -/
def sOrOp : Op Unit := byteOp2 0x15 fun a b => a ||| b
/-- The meaning of SOr (its operation in the context that runs). -/
def execSOr (c : Core) (s : State) : Host.Outcome State Fault Refusal := instr c .S sOrOp s
/-- XOR on bytes (Table 7.8). -/
def sXorOp : Op Unit := byteOp2 0x16 fun a b => a ^^^ b
/-- The meaning of SXor (its operation in the context that runs). -/
def execSXor (c : Core) (s : State) : Host.Outcome State Fault Refusal := instr c .S sXorOp s
/-- NOT on a byte (Table 7.8). -/
def sNotOp : Op Unit := byteOp1 0x17 fun a => ~~~a
/-- The meaning of SNot (its operation in the context that runs). -/
def execSNot (c : Core) (s : State) : Host.Outcome State Fault Refusal := instr c .S sNotOp s
/-- NEG on a byte (Table 7.8). -/
def sNegOp : Op Unit := byteOp1 0x18 fun a => -a
/-- The meaning of SNeg (its operation in the context that runs). -/
def execSNeg (c : Core) (s : State) : Host.Outcome State Fault Refusal := instr c .S sNegOp s
/-- SHL on a byte, with CD as in Table 7.4 (Table 7.8). -/
def sShlOp : Op Unit := shiftOp1 0x19 shlByte
/-- The meaning of SShl (its operation in the context that runs). -/
def execSShl (c : Core) (s : State) : Host.Outcome State Fault Refusal := instr c .S sShlOp s
/-- SHR on a byte, with CD as in Table 7.4 (Table 7.8). -/
def sShrOp : Op Unit := shiftOp1 0x1A shrByte
/-- The meaning of SShr (its operation in the context that runs). -/
def execSShr (c : Core) (s : State) : Host.Outcome State Fault Refusal := instr c .S sShrOp s
/-- ASR on a byte, with CD as in Table 7.4 (Table 7.8). -/
def sAsrOp : Op Unit := shiftOp1 0x1B asrByte
/-- The meaning of SAsr (its operation in the context that runs). -/
def execSAsr (c : Core) (s : State) : Host.Outcome State Fault Refusal := instr c .S sAsrOp s
/-- MUL: push a × b as a word (Table 7.8). -/
def sMulOp : Op Unit := stackOp 0x1C [1, 1] [2] fun _ l => [(byte1 l).toNat * (byte0 l).toNat]
/-- The meaning of SMul (its operation in the context that runs). -/
def execSMul (c : Core) (s : State) : Host.Outcome State Fault Refusal := instr c .S sMulOp s
/-- DIV: b a byte, a a word; push a div b as a word, then a mod b as a byte (Table 7.8). -/
def sDivOp : Op Unit :=
  stackOp 0x1D [1, 2] [2, 1] fun _ l => [(divideS (word1 l) (byte0 l)).1.toNat, (divideS (word1 l) (byte0 l)).2.toNat]
/-- The meaning of SDiv (its operation in the context that runs). -/
def execSDiv (c : Core) (s : State) : Host.Outcome State Fault Refusal := instr c .S sDivOp s
/-- INC on a byte (Table 7.8). -/
def sIncOp : Op Unit := byteOp1 0x1E fun a => a + 1
/-- The meaning of SInc (its operation in the context that runs). -/
def execSInc (c : Core) (s : State) : Host.Outcome State Fault Refusal := instr c .S sIncOp s
/-- DEC on a byte (Table 7.8). -/
def sDecOp : Op Unit := byteOp1 0x1F fun a => a - 1
/-- The meaning of SDec (its operation in the context that runs). -/
def execSDec (c : Core) (s : State) : Host.Outcome State Fault Refusal := instr c .S sDecOp s
/-- ADDW on words (Table 7.8). -/
def addwOp : Op Unit := wordOp2 0x20 fun a b => a + b
/-- The meaning of Addw (its operation in the context that runs). -/
def execAddw (c : Core) (s : State) : Host.Outcome State Fault Refusal := instr c .S addwOp s
/-- SUBW on words (Table 7.8). -/
def subwOp : Op Unit := wordOp2 0x21 fun a b => a - b
/-- The meaning of Subw (its operation in the context that runs). -/
def execSubw (c : Core) (s : State) : Host.Outcome State Fault Refusal := instr c .S subwOp s
/-- ANDW on words (Table 7.8). -/
def andwOp : Op Unit := wordOp2 0x22 fun a b => a &&& b
/-- The meaning of Andw (its operation in the context that runs). -/
def execAndw (c : Core) (s : State) : Host.Outcome State Fault Refusal := instr c .S andwOp s
/-- ORW on words (Table 7.8). -/
def orwOp : Op Unit := wordOp2 0x23 fun a b => a ||| b
/-- The meaning of Orw (its operation in the context that runs). -/
def execOrw (c : Core) (s : State) : Host.Outcome State Fault Refusal := instr c .S orwOp s
/-- XORW on words (Table 7.8). -/
def xorwOp : Op Unit := wordOp2 0x24 fun a b => a ^^^ b
/-- The meaning of Xorw (its operation in the context that runs). -/
def execXorw (c : Core) (s : State) : Host.Outcome State Fault Refusal := instr c .S xorwOp s
/-- NOTW on a word; CD stays (Table 7.8). -/
def notwOp : Op Unit := wordOp1 0x25 fun a => ~~~a
/-- The meaning of Notw (its operation in the context that runs). -/
def execNotw (c : Core) (s : State) : Host.Outcome State Fault Refusal := instr c .S notwOp s
/-- NEGW on a word; CD stays (Table 7.8). -/
def negwOp : Op Unit := wordOp1 0x26 fun a => -a
/-- The meaning of Negw (its operation in the context that runs). -/
def execNegw (c : Core) (s : State) : Host.Outcome State Fault Refusal := instr c .S negwOp s
/-- SHLW on a word; CD stays (Table 7.8). -/
def shlwOp : Op Unit := wordOp1 0x27 fun a => a <<< 1
/-- The meaning of Shlw (its operation in the context that runs). -/
def execShlw (c : Core) (s : State) : Host.Outcome State Fault Refusal := instr c .S shlwOp s
/-- SHRW on a word; CD stays (Table 7.8). -/
def shrwOp : Op Unit := wordOp1 0x28 fun a => a >>> 1
/-- The meaning of Shrw (its operation in the context that runs). -/
def execShrw (c : Core) (s : State) : Host.Outcome State Fault Refusal := instr c .S shrwOp s
/-- INCW on a word; CD stays (Table 7.8). -/
def incwOp : Op Unit := wordOp1 0x29 fun a => a + 1
/-- The meaning of Incw (its operation in the context that runs). -/
def execIncw (c : Core) (s : State) : Host.Outcome State Fault Refusal := instr c .S incwOp s
/-- DECW on a word; CD stays (Table 7.8). -/
def decwOp : Op Unit := wordOp1 0x2A fun a => a - 1
/-- The meaning of Decw (its operation in the context that runs). -/
def execDecw (c : Core) (s : State) : Host.Outcome State Fault Refusal := instr c .S decwOp s
/-- ZXW: a byte to a word, zero-extended (Table 7.8). -/
def zxwOp : Op Unit := stackOp 0x2B [1] [2] fun _ l => [at0 l]
/-- The meaning of Zxw (its operation in the context that runs). -/
def execZxw (c : Core) (s : State) : Host.Outcome State Fault Refusal := instr c .S zxwOp s
/-- SXW: a byte to a word, sign-extended (Table 7.8). -/
def sxwOp : Op Unit := stackOp 0x2C [1] [2] fun _ l => [((byte0 l).signExtend 16).toNat]
/-- The meaning of Sxw (its operation in the context that runs). -/
def execSxw (c : Core) (s : State) : Host.Outcome State Fault Refusal := instr c .S sxwOp s
/-- LOW: a word to its low byte (Table 7.8). -/
def lowOp : Op Unit := stackOp 0x2D [2] [1] fun _ l => [at0 l % 256]
/-- The meaning of Low (its operation in the context that runs). -/
def execLow (c : Core) (s : State) : Host.Outcome State Fault Refusal := instr c .S lowOp s
/-- TOL: pop into L (Table 7.8). -/
def tolOp : Op Unit := toReg 0x34 2 fun x r => { r with l := BitVec.ofNat 16 x }
/-- The meaning of Tol (its operation in the context that runs). -/
def execTol (c : Core) (s : State) : Host.Outcome State Fault Refusal := instr c .S tolOp s
/-- FROML: push L (Table 7.8). -/
def fromlOp : Op Unit := fromReg 0x35 2 (·.l.toNat)
/-- The meaning of Froml (its operation in the context that runs). -/
def execFroml (c : Core) (s : State) : Host.Outcome State Fault Refusal := instr c .S fromlOp s
/-- FROMDP: push the value DP held before the push (Table 7.8). -/
def fromdpOp : Op Unit := fromReg 0x36 2 (·.dp.toNat)
/-- The meaning of Fromdp (its operation in the context that runs). -/
def execFromdp (c : Core) (s : State) : Host.Outcome State Fault Refusal := instr c .S fromdpOp s
/-- TODP: pop a word into DP (Table 7.8). -/
def todpOp : Op Unit := toReg 0x37 2 fun x r => { r with dp := BitVec.ofNat 16 x }
/-- The meaning of Todp (its operation in the context that runs). -/
def execTodp (c : Core) (s : State) : Host.Outcome State Fault Refusal := instr c .S todpOp s
/-- The stack part of an instruction that pops an address and goes on with it: DP as it will be. -/
def popAddress : Op (Half × Nat) := do
  let dp := (← get).seen.dp.toNat
  let dp' ← popTo dp 2
  let a ← readItem (← checkItem 1 dp 2)
  pure (BitVec.ofNat 16 a, dp')

/-- The width of a memory item of one or two bytes. -/
def itemWidth (n : Nat) : Width := if n = 2 then .half else .byte

/-- The access to the memory item of `n` bytes at a popped address is checked (R193). -/
def checkMem (kind n : Nat) (a : Half) : Op Loc := do
  if n = 2 then checkEven a kind
  checkAt a ((← get).access kind)

/-- LD and LDW: pop an address, push the item of `n` bytes at it. -/
def loadOp (b : Byte) (n : Nat) : Op Unit := do
  opcode b
  let dp := (← get).seen.dp.toNat
  let mid ← popTo dp 2
  let dp' ← pushTo mid n
  let a ← readItem (← checkItem 1 dp 2)
  let m ← checkMem 1 n (BitVec.ofNat 16 a)
  let wr ← checkItem 2 dp' n
  let x ← loadAt m n (itemWidth n)
  writeItem (leNat x) wr
  setRegs fun _ r => { r with dp := BitVec.ofNat 16 dp' }

/-- ST and STW: pop an address, then an item of `n` bytes, and store it. -/
def keepOp (b : Byte) (n : Nat) : Op Unit := do
  opcode b
  let dp := (← get).seen.dp.toNat
  let mid ← popTo dp 2
  let dp' ← popTo mid n
  let ad ← checkItem 1 dp 2
  let it ← checkItem 1 mid n
  let a ← readItem ad
  let m ← checkMem 2 n (BitVec.ofNat 16 a)
  let x ← readItem it
  storeAt m (itemWidth n) (leBytes n x)
  setRegs fun _ r => { r with dp := BitVec.ofNat 16 dp' }

/-- LD: pop address; push the byte at it (Table 7.8). -/
def ldOp : Op Unit := loadOp 0x30 1
/-- The meaning of Ld (its operation in the context that runs). -/
def execLd (c : Core) (s : State) : Host.Outcome State Fault Refusal := instr c .S ldOp s
/-- ST: pop address; pop a byte; store it (Table 7.8). -/
def stOp : Op Unit := keepOp 0x31 1
/-- The meaning of St (its operation in the context that runs). -/
def execSt (c : Core) (s : State) : Host.Outcome State Fault Refusal := instr c .S stOp s
/-- LDW: pop address; push the word at it (Table 7.8). -/
def ldwOp : Op Unit := loadOp 0x32 2
/-- The meaning of Ldw (its operation in the context that runs). -/
def execLdw (c : Core) (s : State) : Host.Outcome State Fault Refusal := instr c .S ldwOp s
/-- STW: pop address; pop a word; store it (Table 7.8). -/
def stwOp : Op Unit := keepOp 0x33 2
/-- The meaning of Stw (its operation in the context that runs). -/
def execStw (c : Core) (s : State) : Host.Outcome State Fault Refusal := instr c .S stwOp s
/-- CB c: pop b, then a; branch if a c b; a reserved condition raises EC 02h (R241, R256). -/
def cbOp (cc : Nibble) (d : Half) : Op Unit :=
  do
    opcode (0x40 + cc.setWidth 8) (!anyCond cc.toNat)
    fetchHalf d
    let dp := (← get).seen.dp.toNat
    let dp' ← popsTo dp [1, 1]
    let l ← readItems (← checkPops dp [1, 1])
    setRegs fun _ r => { r with dp := BitVec.ofNat 16 dp' }
    predicted (condHolds cc.toNat (byte1 l) (byte0 l)) d
/-- The meaning of Cb (its operation in the context that runs). -/
def execCb (c : Core) (cc : Nibble) (d : Half) (s : State) : Host.Outcome State Fault Refusal := instr c .S (cbOp cc d) s
/-- CBW c: pop b, then a; branch if a c b; a reserved condition raises EC 02h (R241, R256). -/
def cbwOp (cc : Nibble) (d : Half) : Op Unit :=
  do
    opcode (0x50 + cc.setWidth 8) (!anyCond cc.toNat)
    fetchHalf d
    let dp := (← get).seen.dp.toNat
    let dp' ← popsTo dp [2, 2]
    let l ← readItems (← checkPops dp [2, 2])
    setRegs fun _ r => { r with dp := BitVec.ofNat 16 dp' }
    predicted (condHolds cc.toNat (word1 l) (word0 l)) d
/-- The meaning of Cbw (its operation in the context that runs). -/
def execCbw (c : Core) (cc : Nibble) (d : Half) (s : State) : Host.Outcome State Fault Refusal := instr c .S (cbwOp cc d) s
/-- CALLS: pop an address and call it (R210, Table 7.8). -/
def callsOp : Op Unit :=
  do
    opcode 0x62
    callRoom
    let (a, dp) ← popAddress
    setRegs fun _ r => { r with dp := BitVec.ofNat 16 dp }
    pushCall a
/-- The meaning of Calls (its operation in the context that runs). -/
def execCalls (c : Core) (s : State) : Host.Outcome State Fault Refusal := instr c .S callsOp s
/-- JMPS: pop an address; PC ← it (Table 7.8). -/
def jmpsOp : Op Unit :=
  do
    opcode 0x65
    let (a, dp) ← popAddress
    setRegs fun _ r => { r with dp := BitVec.ofNat 16 dp }
    goTo a
/-- The meaning of Jmps (its operation in the context that runs). -/
def execJmps (c : Core) (s : State) : Host.Outcome State Fault Refusal := instr c .S jmpsOp s
/-- LITS: push the byte op − C0h (Table 7.8). -/
def litsOp (v : BitVec 5) : Op Unit :=
  do
    opcode (0xC0 + v.setWidth 8)
    literal 1 v.toNat
/-- The meaning of Lits (its operation in the context that runs). -/
def execLits (c : Core) (v : BitVec 5) (s : State) : Host.Outcome State Fault Refusal := instr c .S (litsOp v) s
/-- LIT8: push i8 (Table 7.8). -/
def lit8Op (i : Byte) : Op Unit :=
  do
    opcode 0xE0
    fetchByte i none
    literal 1 i.toNat
/-- The meaning of Lit8 (its operation in the context that runs). -/
def execLit8 (c : Core) (i : Byte) (s : State) : Host.Outcome State Fault Refusal := instr c .S (lit8Op i) s
/-- LIT16: push i16 as a word (Table 7.8). -/
def lit16Op (i : Half) : Op Unit :=
  do
    opcode 0xE1
    fetchHalf i
    literal 2 i.toNat
/-- The meaning of Lit16 (its operation in the context that runs). -/
def execLit16 (c : Core) (i : Half) (s : State) : Host.Outcome State Fault Refusal := instr c .S (lit16Op i) s
/-- LITN: push the byte op + 10h (Table 7.8). -/
def litnOp (v : Fin 14) : Op Unit :=
  do
    opcode (BitVec.ofNat 8 (0xE2 + v.val))
    literal 1 (0xF2 + v.val)
/-- The meaning of Litn (its operation in the context that runs). -/
def execLitn (c : Core) (v : Fin 14) (s : State) : Host.Outcome State Fault Refusal := instr c .S (litnOp v) s
end Sys2Proof.Machine
end

