-- ==== Sys2Proof/Machine/StringOps.lean ====
section
/-! DEFINITION. Page F5h and the user copies of page F8h: the string and edit instructions, which reach a checkpoint at each chunk or
pattern byte (spec/08). -/

namespace Sys2Proof.Machine

/-! ### Shapes -/

/-- A phase of a string instruction (R300). -/
def stringPhase (ph : Nat) : Bool := decide (ph ≤ 1)

/-- The bytes of a string instruction. -/
def fetchString (second : Byte) (phOk : Nat → Bool) : Op Unit := do
  fetchByte 0xF5 none
  fetchOpcode second false false phOk

/-- The length of the ascending chunk at `x` with `l` bytes left: the part in one aligned word, or one byte in a short overlap (R287, R288). -/
def chunkUp (short : Bool) (x l : Nat) : Nat := min l (if short then 1 else 8 - x % 8)

/-- Whether a move overlaps by less than 8 bytes the way it goes (R288). -/
def shortOverlap (d : Half) : Bool := decide (0 < d.toNat ∧ d.toNat < 8)

/-- X, Y and L as a chunk leaves them. -/
def setXyl (x y l : Nat) : Op Unit :=
  setRegs fun _ r => { r with x := BitVec.ofNat 16 x, y := BitVec.ofNat 16 y, l := BitVec.ofNat 16 l }

/-- Ascending moves with their accesses (R288); the first number bounds the chunks. -/
def moveUp (rd wr : Access) (short : Bool) : Nat → Nat → Nat → Nat → Op Unit
  | 0, _, _, _ => pure ()
  | fuel + 1, x, y, l => do
    if l = 0 then pure ()
    else
      let n := chunkUp short x l
      let src ← checkField rd y n
      let locs ← checkField wr x n
      let data ← readField src
      fieldOk locs
      putField locs data
      setXyl (x + n) (y + n) (l - n)
      checkpoint 1
      moveUp rd wr short fuel (x + n) (y + n) (l - n)

/-- Descending moves: the bytes left are the lowest ones; X and Y stay (R288, Table 8.5). -/
def moveDown (rd wr : Access) (short : Bool) : Nat → Nat → Nat → Nat → Op Unit
  | 0, _, _, _ => pure ()
  | fuel + 1, x, y, l => do
    if l = 0 then pure ()
    else
      let n := if short then 1 else min l ((x + l - 1) % 8 + 1)
      let o := l - n
      let src ← checkField rd (y + o) n
      let locs ← checkField wr (x + o) n
      let data ← readField src
      fieldOk locs
      putField locs data
      setRegs fun _ r => { r with l := BitVec.ofNat 16 o }
      checkpoint 1
      moveDown rd wr short fuel x y o

/-- The checks of a move and its start (R274, R301). -/
def moveFields (v : CtxRegs) : Op Unit :=
  checkFields [{ a := v.x, n := v.l.toNat, kind := 2 }, { a := v.y, n := v.l.toNat, kind := 1 }]

/-- The rest of an ascending move, with the given accesses. -/
def moveWork (rd wr : Access) : Op Unit := do
  let v := (← get).seen
  moveFields v
  setRegs fun _ r => r.withPh 0
  moveUp rd wr (shortOverlap (v.x - v.y)) (v.l.toNat + 1) v.x.toNat v.y.toNat v.l.toNat

/-- The user side of MVU and MVFU: checked as a user access with the key of A[7:4], beyond the guard (R364). -/
def Run.userSide (r : Run) (kind : Nat) : Access :=
  { r.operand kind with user := true, guard := false, key := BitVec.ofNat 4 (field r.seen.a 4 4) }

/-- The bytes of MVU and MVFU; an A[3:0] other than 0 raises EC 02h (R364). -/
def fetchUserMove (second : Byte) : Op Unit := do
  fetchByte 0xF8 none
  fetchOpcode second true false stringPhase
  if field (← get).seen.a 0 4 ≠ 0 then decodeFault 2

/-- FILS from `x` with `l` bytes left (R289). -/
def fillUp (fillByte : Byte) : Nat → Nat → Nat → Op Unit
  | 0, _, _ => pure ()
  | fuel + 1, x, l => do
    if l = 0 then pure ()
    else
      let n := chunkUp false x l
      let locs ← checkField ((← get).operand 2) x n
      fieldOk locs
      putField locs (List.replicate n fillByte)
      setRegs fun _ r => { r with x := BitVec.ofNat 16 (x + n), l := BitVec.ofNat 16 (l - n), a := fillByte }
      checkpoint 1
      fillUp fillByte fuel (x + n) (l - n)

/-- CBS from `x` and `y`: the pair at which it stops, none when every pair is equal (R290). -/
def compareUp : Nat → Nat → Nat → Nat → Op (Option (Byte × Byte))
  | 0, _, _, _ => pure none
  | fuel + 1, x, y, l => do
    if l = 0 then pure none
    else
      let r ← get
      let n := chunkUp false x l
      let lx ← checkField (r.operand 1) x n
      let ly ← checkField (r.operand 1) y n
      let xs ← readField lx
      let ys ← readField ly
      match (List.range n).find? fun i => decide (xs.getD i 0 ≠ ys.getD i 0) with
      | some i =>
        setXyl (x + i) (y + i) (l - i)
        pure (some (xs.getD i 0, ys.getD i 0))
      | none =>
        setXyl (x + n) (y + n) (l - n)
        checkpoint 1
        compareUp fuel (x + n) (y + n) (l - n)

/-- The conditions of CBS (R290). -/
def stringCond (cc : Nat) : Bool := decide (cc ≤ 5)

/-- The entry of the table at `y` for a byte. -/
def tableByte (y : Nat) (b : Byte) : Op Byte := do
  let l ← readField (← checkField ((← get).operand 1) (y + b.toNat) 1)
  pure (l.getD 0 0)

/-- The bytes of a chunk are translated in order, each from the table as it stands, earlier bytes of the chunk included (R291): `locs` is
where the byte goes and those after it. -/
def translateBytes (y : Nat) : List Loc → List Byte → Op (List Byte)
  | x :: locs, b :: t => do
    let e ← tableByte y b
    putAt x [e]
    let rest ← translateBytes y locs t
    pure (e :: rest)
  | _, _ => pure []

/-- The places of the bytes of a checked chunk, which lies in one aligned word. -/
def byteLocs (l : List (Loc × Nat)) : List Loc :=
  l.flatMap fun x => (List.range x.2).map fun i => { x.1 with la := x.1.la + BitVec.ofNat 16 i, pa := x.1.pa + i }

/-- TRS from `x` with `l` bytes left. -/
def translateUp (y : Nat) : Nat → Nat → Nat → Op Unit
  | 0, _, _ => pure ()
  | fuel + 1, x, l => do
    if l = 0 then pure ()
    else
      let r ← get
      let n := chunkUp false x l
      let src ← checkField (r.operand 1) x n
      let locs ← checkField (r.operand 2) x n
      let xs ← readField src
      fieldOk locs
      let out ← translateBytes y (byteLocs locs) xs
      modify fun r => { r with puts := [] }
      putField locs out
      setRegs fun _ r => { r with x := BitVec.ofNat 16 (x + n), l := BitVec.ofNat 16 (l - n) }
      checkpoint 1
      translateUp y fuel (x + n) (l - n)

/-- The first byte of a chunk with a nonzero table entry: its index and the entry. -/
def scanBytes (y : Nat) : Nat → List Byte → Op (Option (Nat × Byte))
  | _, [] => pure none
  | i, b :: t => do
    let e ← tableByte y b
    if e ≠ 0 then pure (some (i, e)) else scanBytes y (i + 1) t

/-- TRTS from `x` with `l` bytes left (R291). -/
def scanUp (y : Nat) : Nat → Nat → Nat → Op Unit
  | 0, _, _ => pure ()
  | fuel + 1, x, l => do
    if l = 0 then setRegs fun _ r => { r with a := 0 }
    else
      let n := chunkUp false x l
      let xs ← readField (← checkField ((← get).operand 1) x n)
      match ← scanBytes y 0 xs with
      | some (i, e) => setRegs fun _ r => { r with x := BitVec.ofNat 16 (x + i), l := BitVec.ofNat 16 (l - i), a := e }
      | none =>
        setRegs fun _ r => { r with x := BitVec.ofNat 16 (x + n), l := BitVec.ofNat 16 (l - n) }
        checkpoint 1
        scanUp y fuel (x + n) (l - n)

/-! ### Editing (R292 to R296) -/

/-- The state of an edit: the source byte of the next digit and whether it is the low nibble, the source byte as it was read, whether
suppression has ended and whether the recorded sign is minus. -/
structure Edit where
  y : Nat
  low : Bool
  held : Option Byte
  ended : Bool
  minus : Bool

/-- CTX.PH of an edit at a checkpoint (Table 8.5). -/
def Edit.phase (e : Edit) : Nat := 8 + 4 * b2n e.ended + 2 * b2n e.minus + b2n e.low

/-- The edit that a phase and Y describe; phase 0 is the start (R293, R298). One that goes on after a mere wait still has the source byte of
its next digit (R306). -/
def editOf (y ph : Nat) (half : Option Byte) : Edit :=
  { y, low := decide (8 ≤ ph) && decide (ph % 2 = 1), held := half, ended := decide (8 ≤ ph) && decide (ph / 4 % 2 = 1),
    minus := decide (8 ≤ ph) && decide (ph / 2 % 2 = 1) }

/-- The phases of EDT and EDTL (R300). -/
def editPhase (ph : Nat) : Bool := decide (ph = 0 ∨ 8 ≤ ph)

/-- The byte of the source at Y; one past FFFFh raises EC 05h (R274). -/
def sourceByte (y : Nat) : Op Byte := do
  if 65536 ≤ y then raise { ec := 5, la := 0, kind := 1 }
  let l ← readField (← checkField ((← get).operand 1) y 1)
  pure (l.getD 0 0)

/-- The source byte that a pattern byte needs: read when its first digit is needed, and held for its second (R294, R306). -/
def patternSource (p : Byte) (e : Edit) : Op Byte :=
  if p = 1 ∨ p = 2 then
    match e.held with
    | some b => pure b
    | none => sourceByte e.y
  else pure 0

/-- The next source digit, from its byte (R294). A low nibble that is read again after an interrupt and is no digit raises EC 0Ch (log 29). -/
def takeDigit (e : Edit) (b : Byte) : Op (Nat × Edit) := do
  let hi := b.toNat / 16
  let lo := b.toNat % 16
  let bad : Op Unit := raise { ec := 0x0C, la := BitVec.ofNat 16 e.y, kind := 1 }
  if e.low then
    if 9 < lo then bad
    pure (lo, { e with y := e.y + 1, low := false, held := none })
  else
    if 9 < hi then bad
    if 9 < lo then pure (hi, { e with y := e.y + 1, held := none, minus := decide (lo = 0xB ∨ lo = 0xD) })
    else pure (hi, { e with low := true, held := some b })

/-- EDTL pushes the word of a field (R296). -/
def pushWord (v : Nat) : Op Unit := do
  let dp ← pushTo (← get).r.dp.toNat 2
  writeItem v (← checkItem 2 dp 2)
  setRegs fun _ r => { r with dp := BitVec.ofNat 16 dp }

/-- What a pattern byte yields with the source byte `b`: its output byte, the edit after it, and whether the field's suppression ended with it; EC 02h for a
reserved pattern byte (Table 8.4). -/
def editPattern (p fillByte b : Byte) (e : Edit) : Op (Byte × Edit × Bool) := do
  match p.toNat with
  | 1 => do
    let (d, e) ← takeDigit e b
    let shown := e.ended || decide (d ≠ 0)
    pure (if shown then BitVec.ofNat 8 (0x30 + d) else fillByte, { e with ended := shown }, shown)
  | 2 => do
    let (d, e) ← takeDigit e b
    pure (BitVec.ofNat 8 (0x30 + d), { e with ended := true }, true)
  | 3 => pure (fillByte, { e with ended := false, minus := false }, false)
  | 4 => pure (if e.minus then 0x2D else fillByte, e, e.ended)
  | 5 => pure (if e.minus then 0x2D else 0x2B, e, e.ended)
  | n => if n < 0x20 then decodeFault 2 else pure (if e.ended then p else fillByte, e, e.ended)

/-- EDT and EDTL from pattern byte `x` with `l` left: a checkpoint after each byte. `pushes` is EDTL. -/
def editUp (pushes : Bool) (fillByte : Byte) : Nat → Nat → Nat → Edit → Op Unit
  | 0, _, _, _ => pure ()
  | fuel + 1, x, l, e => do
    if l = 0 then pure ()
    else
      let r ← get
      let src ← checkField (r.operand 1) x 1
      let locs ← checkField (r.operand 2) x 1
      let ps ← readField src
      let p := ps.getD 0 0
      let b ← patternSource p e
      fieldOk locs
      let (out, e', shown) ← editPattern p fillByte b e
      putField locs [out]
      if pushes then
        if shown ∧ ¬ e.ended then pushWord x
        if p = 3 ∧ ¬ e.ended then pushWord 0xFFFF
        if l = 1 ∧ ¬ e'.ended then pushWord 0xFFFF
      setRegs fun _ r => { r with
        x := BitVec.ofNat 16 (x + 1), y := BitVec.ofNat 16 e'.y, l := BitVec.ofNat 16 (l - 1), a := fillByte }
      checkpoint e'.phase e'.held
      editUp pushes fillByte fuel (x + 1) (l - 1) e'

/-- EDT and EDTL. -/
def editOp (second : Byte) (pushes : Bool) : Op Unit := do
  fetchString second editPhase
  let r ← get
  let v := r.seen
  if v.a.toNat < 0x20 then decodeFault 2
  checkFields [{ a := v.x, n := v.l.toNat, kind := 1 }]
  setRegs fun _ r => r.withPh 0
  editUp pushes v.a (v.l.toNat + 1) v.x.toNat v.l.toNat (editOf v.y.toNat r.base.ph r.half)

/-! ### The instructions (Table 8.3) -/

/-- MVS: L bytes from Y to X, ascending (R288). -/
def mvsOp : Op Unit :=
  do
    fetchString 0x00 stringPhase
    let r ← get
    moveWork (r.operand 1) (r.operand 2)
/-- The meaning of Mvs (its operation in the context that runs). -/
def execMvs (c : Core) (stop : Option Nat) (s : State) : Host.Outcome State Fault Refusal := instr c .A mvsOp s stop
/-- MVSB: L bytes from Y to X, descending (R288). -/
def mvsbOp : Op Unit :=
  do
    fetchString 0x01 stringPhase
    let r ← get
    let v := r.seen
    moveFields v
    setRegs fun _ r => r.withPh 0
    moveDown (r.operand 1) (r.operand 2) (shortOverlap (v.y - v.x)) (v.l.toNat + 1) v.x.toNat v.y.toNat v.l.toNat
/-- The meaning of Mvsb (its operation in the context that runs). -/
def execMvsb (c : Core) (stop : Option Nat) (s : State) : Host.Outcome State Fault Refusal := instr c .A mvsbOp s stop
/-- FILS: A into L bytes at X (R289). -/
def filsOp : Op Unit :=
  do
    fetchString 0x02 stringPhase
    let v := (← get).seen
    checkFields [{ a := v.x, n := v.l.toNat, kind := 2 }]
    setRegs fun _ r => r.withPh 0
    fillUp v.a (v.l.toNat + 1) v.x.toNat v.l.toNat
/-- The meaning of Fils (its operation in the context that runs). -/
def execFils (c : Core) (stop : Option Nat) (s : State) : Host.Outcome State Fault Refusal := instr c .A filsOp s stop
/-- CBS: L bytes at X and Y compared, then a branch (R290). -/
def cbsOp (bw : Half) : Op Unit :=
  do
    fetchString 0x03 stringPhase
    fetchBranch bw stringCond
    let v := (← get).seen
    checkFields [{ a := v.x, n := v.l.toNat, kind := 1 }, { a := v.y, n := v.l.toNat, kind := 1 }]
    setRegs fun _ r => r.withPh 0
    let (a, b) := (← compareUp (v.l.toNat + 1) v.x.toNat v.y.toNat v.l.toNat).getD (0, 0)
    branchIf (condHolds (branchCond bw) a b) (branchDisp bw)
/-- The meaning of Cbs (its operation in the context that runs). -/
def execCbs (c : Core) (bw : Half) (stop : Option Nat) (s : State) : Host.Outcome State Fault Refusal := instr c .A (cbsOp bw) s stop
/-- TRS: each byte b at X becomes the byte at Y + b (R291). -/
def trsOp : Op Unit :=
  do
    fetchString 0x04 stringPhase
    let v := (← get).seen
    checkFields [{ a := v.x, n := v.l.toNat, kind := 1 }, { a := v.y, n := 256, kind := 1 }]
    setRegs fun _ r => r.withPh 0
    translateUp v.y.toNat (v.l.toNat + 1) v.x.toNat v.l.toNat
/-- The meaning of Trs (its operation in the context that runs). -/
def execTrs (c : Core) (stop : Option Nat) (s : State) : Host.Outcome State Fault Refusal := instr c .A trsOp s stop
/-- TRTS: the first byte at X with a nonzero table entry (R291). -/
def trtsOp : Op Unit :=
  do
    fetchString 0x05 stringPhase
    let v := (← get).seen
    checkFields [{ a := v.x, n := v.l.toNat, kind := 1 }, { a := v.y, n := 256, kind := 1 }]
    setRegs fun _ r => r.withPh 0
    scanUp v.y.toNat (v.l.toNat + 1) v.x.toNat v.l.toNat
/-- The meaning of Trts (its operation in the context that runs). -/
def execTrts (c : Core) (stop : Option Nat) (s : State) : Host.Outcome State Fault Refusal := instr c .A trtsOp s stop
/-- EDT: packed digits at Y edited into the pattern at X (R292 to R295). -/
def edtOp : Op Unit := editOp 0x06 false
/-- The meaning of Edt (its operation in the context that runs). -/
def execEdt (c : Core) (stop : Option Nat) (s : State) : Host.Outcome State Fault Refusal := instr c .A edtOp s stop
/-- EDTL: EDT that pushes the first printed position of each field (R296). -/
def edtlOp : Op Unit := editOp 0x07 true
/-- The meaning of Edtl (its operation in the context that runs). -/
def execEdtl (c : Core) (stop : Option Nat) (s : State) : Host.Outcome State Fault Refusal := instr c .A edtlOp s stop
/-- MVU: a move whose destination is checked as the user's (R364). -/
def mvuOp : Op Unit :=
  do
    fetchUserMove 0x04
    let r ← get
    moveWork (r.operand 1) (r.userSide 2)
/-- The meaning of Mvu (its operation in the context that runs). -/
def execMvu (c : Core) (stop : Option Nat) (s : State) : Host.Outcome State Fault Refusal := instr c .A mvuOp s stop
/-- MVFU: a move whose source is checked as the user's (R364). -/
def mvfuOp : Op Unit :=
  do
    fetchUserMove 0x05
    let r ← get
    moveWork (r.userSide 1) (r.operand 2)
/-- The meaning of Mvfu (its operation in the context that runs). -/
def execMvfu (c : Core) (stop : Option Nat) (s : State) : Host.Outcome State Fault Refusal := instr c .A mvfuOp s stop
end Sys2Proof.Machine
end

