-- ==== Sys2Proof/Machine/Resume.lean ====
section
/-! DEFINITION. An instruction that waits at an abandon point goes on (R313, R318, R319): its operation from its bytes, and the two
resume commands. -/

namespace Sys2Proof.Machine

/-! ### The operation that bytes spell -/

/-- The operand that a mode field and the bytes after the opcode spell (Table 7.1). -/
def operand8Of (mode : Nat) (l : List Byte) : Operand8 :=
  let b := l.getD 0 0
  let a := half b (l.getD 1 0)
  match mode with
  | 0 => .imm b
  | 1 => .abs a
  | 2 => .absX a
  | 3 => .absY a
  | 4 => .dp b
  | m => .reserved (Fin.ofNat 3 (m - 5))

/-- The same on page F1h (R250). -/
def operand16Of (mode : Nat) (l : List Byte) : Operand16 :=
  let b := l.getD 0 0
  let a := half b (l.getD 1 0)
  match mode with
  | 0 => .imm a
  | 1 => .abs a
  | 2 => .absX a
  | 3 => .absY a
  | 4 => .dp b
  | m => .reserved (Fin.ofNat 3 (m - 5))

/-- The 16 bits that stand last: a branch word. -/
def lastHalf (l : List Byte) : Half := half (l.getD (l.length - 2) 0) (l.getD (l.length - 1) 0)

/-- The groups of Table 7.3. -/
def groupOp (g : Nat) (o : Operand8) (bw : Half) : Option (Op Unit) :=
  [ldaOp o, staOp o, addOp o, addcOp o, subOp o, subbOp o, andOp o, orOp o, xorOp o, ldxOp (.primary o), ldyOp (.primary o), stxOp o,
    styOp o, cbaOp o bw, cbxOp o bw, cbyOp o bw][g]?

/-- Page F0h (Table 7.5). -/
def pageF0Op (op : Nat) (o : Operand8) : Option (Op Unit) :=
  [addmOp o, addcmOp o, subbmOp o, setmOp o, clrbmOp o, rolmOp o, rormOp o, minuOp o, maxuOp o][op]?

/-- Page F1h (Table 7.6). -/
def pageF1Op (op : Nat) (o : Operand16) (bw : Half) : Option (Op Unit) :=
  [ldxOp (.page o), ldyOp (.page o), ldlOp o, stlOp o, addxOp o, subxOp o, addyOp o, subyOp o, lddpOp o, stdpOp o, adddpOp o,
    cblOp o bw][op]?

/-- Page F4h (Table 8.1): the lengths byte, the byte after it, and a branch word. -/
def pageF4Op (op : Nat) (lb x : Byte) (bw : Half) : Option (Op Unit) :=
  [dldOp lb, daddOp lb, dsubOp lb, dmulOp lb x, ddivOp lb false, dshrOp lb x, dcbOp lb bw, zpkOp lb x, pznOp lb x, dtobOp lb, btodOp lb,
    dusOp lb, uaddOp lb, usubOp lb][op]?

/-- Page F5h (Table 8.3). -/
def pageF5Op (op : Nat) (bw : Half) : Option (Op Unit) :=
  [mvsOp, mvsbOp, filsOp, cbsOp bw, trsOp, trtsOp, edtOp, edtlOp][op]?

/-- The instructions of page F8h that may wait (Table 7.7). -/
def pageF8Op (op : Nat) (n : Byte) : Option (Op Unit) :=
  match op with
  | 1 => some (spillOp .A n)
  | 2 => some (fillOp .A n)
  | 3 => some (ksetOp .A)
  | 4 => some mvuOp
  | 5 => some mvfuOp
  | _ => none

/-- The A-form instructions that access data, by their bytes. -/
def aFormOp (l : List Byte) : Option (Op Unit) :=
  let b := (l.getD 0 0).toNat
  let second := (l.getD 1 0).toNat
  let t := l.drop 1
  let u := l.drop 2
  if b < 0x80 then groupOp (b / 8) (operand8Of (b % 8) t) (lastHalf t)
  else if b < 0xA0 then none
  else if b < 0xA8 then [pushaOp, popaOp, pushxOp, popxOp, pushyOp, popyOp, pushlOp, poplOp][b - 0xA0]?
  else if b < 0xB8 then none
  else if b < 0xBE then
    let a : Half := half (t.getD 0 0) (t.getD 1 0)
    let d := t.getD 0 0
    [incmOp (.abs a), decmOp (.abs a), incmOp (.dp d), decmOp (.dp d), clrmOp (.abs a), clrmOp (.dp d)][b - 0xB8]?
  else if b = 0xF0 then pageF0Op (second / 8) (operand8Of (second % 8) u)
  else if b = 0xF1 then pageF1Op (second / 8) (operand16Of (second % 8) u) (lastHalf u)
  else if b = 0xF4 then pageF4Op second (u.getD 0 0) (u.getD 1 0) (lastHalf u)
  else if b = 0xF5 then pageF5Op second (lastHalf u)
  else if b = 0xF8 then pageF8Op second (u.getD 0 0)
  else none

/-- The S-form cells 00h to 37h that access data (Table 7.8). -/
def sCells : List (Nat × Op Unit) :=
  [(0x01, dupOp), (0x02, dropOp), (0x03, swapOp), (0x04, overOp), (0x05, rotOp), (0x06, dupwOp), (0x07, dropwOp), (0x08, swapwOp),
    (0x09, overwOp), (0x0A, toaOp), (0x0B, fromaOp), (0x0C, toxOp), (0x0D, fromxOp), (0x0E, toyOp), (0x0F, fromyOp), (0x10, sAddOp),
    (0x11, sAddcOp), (0x12, sSubOp), (0x13, sSubbOp), (0x14, sAndOp), (0x15, sOrOp), (0x16, sXorOp), (0x17, sNotOp), (0x18, sNegOp),
    (0x19, sShlOp), (0x1A, sShrOp), (0x1B, sAsrOp), (0x1C, sMulOp), (0x1D, sDivOp), (0x1E, sIncOp), (0x1F, sDecOp)] ++
  [(0x20, addwOp), (0x21, subwOp), (0x22, andwOp), (0x23, orwOp), (0x24, xorwOp), (0x25, notwOp), (0x26, negwOp), (0x27, shlwOp),
    (0x28, shrwOp), (0x29, incwOp), (0x2A, decwOp), (0x2B, zxwOp), (0x2C, sxwOp), (0x2D, lowOp), (0x30, ldOp), (0x31, stOp),
    (0x32, ldwOp), (0x33, stwOp), (0x34, tolOp), (0x35, fromlOp), (0x36, fromdpOp), (0x37, todpOp), (0x62, callsOp), (0x65, jmpsOp)]

/-- The S-form instructions that access data, by their bytes. -/
def sFormOp (l : List Byte) : Option (Op Unit) :=
  let b := (l.getD 0 0).toNat
  let i := l.getD 1 0
  let d : Half := half i (l.getD 2 0)
  match sCells.find? fun e => e.1 = b with
  | some e => some e.2
  | none =>
    if 0x40 ≤ b ∧ b < 0x50 then some (cbOp (BitVec.ofNat 4 b) d)
    else if 0x50 ≤ b ∧ b < 0x60 then some (cbwOp (BitVec.ofNat 4 b) d)
    else if b = 0x71 then some (spillOp .S i)
    else if b = 0x72 then some (fillOp .S i)
    else if b = 0x73 then some (ksetOp .S)
    else if 0xC0 ≤ b ∧ b < 0xE0 then some (litsOp (BitVec.ofNat 5 b))
    else if b = 0xE0 then some (lit8Op i)
    else if b = 0xE1 then some (lit16Op d)
    else if 0xE2 ≤ b ∧ b < 0xF0 then some (litnOp (Fin.ofNat 14 (b - 0xE2)))
    else none

/-- The operation of an instruction that waits. -/
def heldOp (f : Form) (l : List Byte) : Option (Op Unit) :=
  match f with | .A => aFormOp l | .S => sFormOp l

/-! ### The commands -/

/-- The instruction that waits runs on from its resume point: from its start, or from its last checkpoint. At its end the core is at a
boundary. `stop` is as in `checkpoint`. -/
def State.resume (s : State) (c : Core) (stop : Option Nat) : State :=
  match (s.core c).held with
  | none => s
  | some h =>
    match (if s.canRun c then heldOp h.form h.bytes else none) with
    | none => s
    | some op =>
      let t := runOp c h.form stop op (s.modCore c fun x => { x with held := none }) h.half
      if (t.core c).held.isSome then t else t.boundary c true

/-- STORE_ROOM_RESUME: a store that waits for a free entry goes on (R318); an event that comes then is taken at the checkpoint that `stop`
names (R299). -/
def execStoreRoomResume (g : GoesOn) (s : State) : Host.Outcome State Fault Refusal :=
  if (s.core g.core).buf.length < 4 then .next (s.resume g.core g.stop) else .next s

/-- LOAD_DRAIN_RESUME: a load that waits for entries to drain goes on; it waits again while they have not (R319, R26). -/
def execLoadDrainResume (g : GoesOn) (s : State) : Host.Outcome State Fault Refusal := .next (s.resume g.core g.stop)

end Sys2Proof.Machine
end

