-- ==== Sys2Proof/Machine/Dispatch.lean ====
section
/-! DEFINITION. The meaning of every command: one arm per constructor. -/

namespace Sys2Proof.Machine

def exec (i : Instr) (s : State) : Host.Outcome State Fault Refusal :=
  match i with
  | .snapshotRead m a w => Sys2Proof.Machine.execSnapshotRead m a w s
  | .stagedWrite m a w v => Sys2Proof.Machine.execStagedWrite m a w v s
  | .commit m a w v => Sys2Proof.Machine.execCommit m a w v s
  | .sysStatClear m v => Sys2Proof.Machine.execSysStatClear m v s
  | .incrementTake n parityBad => Sys2Proof.Machine.execIncrementTake n parityBad s
  | .outsideSessionRecord n => Sys2Proof.Machine.execOutsideSessionRecord n s
  | .totalizerSave => Sys2Proof.Machine.execTotalizerSave s
  | .mpoPulseStart n => Sys2Proof.Machine.execMpoPulseStart n s
  | .mpoPulseEnd n => Sys2Proof.Machine.execMpoPulseEnd n s
  | .mpoGapEnd n => Sys2Proof.Machine.execMpoGapEnd n s
  | .tmbOpen slot cmd => Sys2Proof.Machine.execTmbOpen slot cmd s
  | .freeze slot cmd => Sys2Proof.Machine.execFreeze slot cmd s
  | .sign slot cmd => Sys2Proof.Machine.execSign slot cmd s
  | .signatureDone ok => Sys2Proof.Machine.execSignatureDone ok s
  | .setout slot cmd => Sys2Proof.Machine.execSetout slot cmd s
  | .reeval slot cmd => Sys2Proof.Machine.execReeval slot cmd s
  | .nonce slot cmd => Sys2Proof.Machine.execNonce slot cmd s
  | .nonceExpiry => Sys2Proof.Machine.execNonceExpiry s
  | .logack slot cmd => Sys2Proof.Machine.execLogack slot cmd s
  | .reload slot cmd => Sys2Proof.Machine.execReload slot cmd s
  | .loadVerifyDone n ok => Sys2Proof.Machine.execLoadVerifyDone n ok s
  | .reloadDone n => Sys2Proof.Machine.execReloadDone n s
  | .timeset slot cmd => Sys2Proof.Machine.execTimeset slot cmd s
  | .tmbReservedCode slot cmd => Sys2Proof.Machine.execTmbReservedCode slot cmd s
  | .tmbAck m slot v => Sys2Proof.Machine.execTmbAck m slot v s
  | .enrollKey slot cmd => Sys2Proof.Machine.execEnrollKey slot cmd s
  | .revokeKey slot cmd => Sys2Proof.Machine.execRevokeKey slot cmd s
  | .setConstants slot cmd => Sys2Proof.Machine.execSetConstants slot cmd s
  | .setCnvFactors slot cmd => Sys2Proof.Machine.execSetCnvFactors slot cmd s
  | .channelIn slot cmd => Sys2Proof.Machine.execChannelIn slot cmd s
  | .channelSealedOut slot cmd => Sys2Proof.Machine.execChannelSealedOut slot cmd s
  | .clearTamper slot cmd => Sys2Proof.Machine.execClearTamper slot cmd s
  | .debugEnable slot cmd => Sys2Proof.Machine.execDebugEnable slot cmd s
  | .signedReservedType slot cmd => Sys2Proof.Machine.execSignedReservedType slot cmd s
  | .sealChange isOpen => Sys2Proof.Machine.execSealChange isOpen s
  | .meshCompare bad0 bad1 => Sys2Proof.Machine.execMeshCompare bad0 bad1 s
  | .caseChange isOpen => Sys2Proof.Machine.execCaseChange isOpen s
  | .tmbXdiagWrite m v => Sys2Proof.Machine.execTmbXdiagWrite m v s
  | .xdiagTestPulse n on => Sys2Proof.Machine.execXdiagTestPulse n on s
  | .faultNotice => Sys2Proof.Machine.execFaultNotice s
  | .tarnCopyLoss loss => Sys2Proof.Machine.execTarnCopyLoss loss s
  | .tclkWatchdog => Sys2Proof.Machine.execTclkWatchdog s
  | .tarnStart sealOpen caseOpen meshBroken => Sys2Proof.Machine.execTarnStart sealOpen caseOpen meshBroken s
  | .microword n => Sys2Proof.Machine.execMicroword n s
  | .microHeldComplete n => Sys2Proof.Machine.execMicroHeldComplete n s
  | .tickCompare n => Sys2Proof.Machine.execTickCompare n s
  | .postMortemTimeout n => Sys2Proof.Machine.execPostMortemTimeout n s
  | .scrubRead n => Sys2Proof.Machine.execScrubRead n s
  | .ceHparamWrite m n v => Sys2Proof.Machine.execCeHparamWrite m n v s
  | .ceXinjWrite m n v => Sys2Proof.Machine.execCeXinjWrite m n v s
  | .pulseLevelChange n a b => Sys2Proof.Machine.execPulseLevelChange n a b s
  | .cnvStart m u => Sys2Proof.Machine.execCnvStart m u s
  | .calfull m u => Sys2Proof.Machine.execCalfull m u s
  | .trigEdge t rising => Sys2Proof.Machine.execTrigEdge t rising s
  | .trigDelayEnd u => Sys2Proof.Machine.execTrigDelayEnd u s
  | .samplingEnd u => Sys2Proof.Machine.execSamplingEnd u s
  | .conversionDone u raw => Sys2Proof.Machine.execConversionDone u raw s
  | .urgentArrival u src => Sys2Proof.Machine.execUrgentArrival u src s
  | .surgeCrossing u => Sys2Proof.Machine.execSurgeCrossing u s
  | .surgeHoldEnd u => Sys2Proof.Machine.execSurgeHoldEnd u s
  | .calConversionDone u factors => Sys2Proof.Machine.execCalConversionDone u factors s
  | .bgcalConversionStart u => Sys2Proof.Machine.execBgcalConversionStart u s
  | .conversionWatchdog u => Sys2Proof.Machine.execConversionWatchdog u s
  | .referenceFault => Sys2Proof.Machine.execReferenceFault s
  | .cnvDeclareWrite m u v => Sys2Proof.Machine.execCnvDeclareWrite m u v s
  | .cnvXsurgeWrite m u v => Sys2Proof.Machine.execCnvXsurgeWrite m u v s
  | .slowSequenceTimer u => Sys2Proof.Machine.execSlowSequenceTimer u s
  | .lda c o => Sys2Proof.Machine.execLda c o s
  | .sta c o => Sys2Proof.Machine.execSta c o s
  | .add c o => Sys2Proof.Machine.execAdd c o s
  | .addc c o => Sys2Proof.Machine.execAddc c o s
  | .sub c o => Sys2Proof.Machine.execSub c o s
  | .subb c o => Sys2Proof.Machine.execSubb c o s
  | .and c o => Sys2Proof.Machine.execAnd c o s
  | .or c o => Sys2Proof.Machine.execOr c o s
  | .xor c o => Sys2Proof.Machine.execXor c o s
  | .ldx c o => Sys2Proof.Machine.execLdx c o s
  | .ldy c o => Sys2Proof.Machine.execLdy c o s
  | .stx c o => Sys2Proof.Machine.execStx c o s
  | .sty c o => Sys2Proof.Machine.execSty c o s
  | .cba c o bw => Sys2Proof.Machine.execCba c o bw s
  | .cbx c o bw => Sys2Proof.Machine.execCbx c o bw s
  | .cby c o bw => Sys2Proof.Machine.execCby c o bw s
  | .undefinedOpcode c f op second => Sys2Proof.Machine.execUndefinedOpcode c f op second s
  | .nop c f => Sys2Proof.Machine.execNop c f s
  | .trxa c => Sys2Proof.Machine.execTrxa c s
  | .trya c => Sys2Proof.Machine.execTrya c s
  | .trax c => Sys2Proof.Machine.execTrax c s
  | .tray c => Sys2Proof.Machine.execTray c s
  | .tryx c => Sys2Proof.Machine.execTryx c s
  | .trxy c => Sys2Proof.Machine.execTrxy c s
  | .inca c => Sys2Proof.Machine.execInca c s
  | .deca c => Sys2Proof.Machine.execDeca c s
  | .incx c => Sys2Proof.Machine.execIncx c s
  | .decx c => Sys2Proof.Machine.execDecx c s
  | .incy c => Sys2Proof.Machine.execIncy c s
  | .decy c => Sys2Proof.Machine.execDecy c s
  | .zera c => Sys2Proof.Machine.execZera c s
  | .nega c => Sys2Proof.Machine.execNega c s
  | .nota c => Sys2Proof.Machine.execNota c s
  | .shla c => Sys2Proof.Machine.execShla c s
  | .shra c => Sys2Proof.Machine.execShra c s
  | .asra c => Sys2Proof.Machine.execAsra c s
  | .rola c => Sys2Proof.Machine.execRola c s
  | .rora c => Sys2Proof.Machine.execRora c s
  | .clcd c => Sys2Proof.Machine.execClcd c s
  | .swna c => Sys2Proof.Machine.execSwna c s
  | .txl c => Sys2Proof.Machine.execTxl c s
  | .tlx c => Sys2Proof.Machine.execTlx c s
  | .tdx c => Sys2Proof.Machine.execTdx c s
  | .txd c => Sys2Proof.Machine.execTxd c s
  | .sxa c => Sys2Proof.Machine.execSxa c s
  | .adxa c => Sys2Proof.Machine.execAdxa c s
  | .adya c => Sys2Proof.Machine.execAdya c s
  | .mul c => Sys2Proof.Machine.execMul c s
  | .div c => Sys2Proof.Machine.execDiv c s
  | .pusha c => Sys2Proof.Machine.execPusha c s
  | .popa c => Sys2Proof.Machine.execPopa c s
  | .pushx c => Sys2Proof.Machine.execPushx c s
  | .popx c => Sys2Proof.Machine.execPopx c s
  | .pushy c => Sys2Proof.Machine.execPushy c s
  | .popy c => Sys2Proof.Machine.execPopy c s
  | .pushl c => Sys2Proof.Machine.execPushl c s
  | .popl c => Sys2Proof.Machine.execPopl c s
  | .rctx c f => Sys2Proof.Machine.execRctx c f s
  | .wctx c f => Sys2Proof.Machine.execWctx c f s
  | .sync c f => Sys2Proof.Machine.execSync c f s
  | .syncDone c => Sys2Proof.Machine.execSyncDone c s
  | .wait c f => Sys2Proof.Machine.execWait c f s
  | .svc c f n => Sys2Proof.Machine.execSvc c f n s
  | .bpt c f => Sys2Proof.Machine.execBpt c f s
  | .jmp c f a => Sys2Proof.Machine.execJmp c f a s
  | .jmpx c a => Sys2Proof.Machine.execJmpx c a s
  | .call c f a => Sys2Proof.Machine.execCall c f a s
  | .callx c => Sys2Proof.Machine.execCallx c s
  | .ret c f => Sys2Proof.Machine.execRet c f s
  | .bra c f r => Sys2Proof.Machine.execBra c f r s
  | .dbnx c r => Sys2Proof.Machine.execDbnx c r s
  | .dbny c r => Sys2Proof.Machine.execDbny c r s
  | .incm c o => Sys2Proof.Machine.execIncm c o s
  | .decm c o => Sys2Proof.Machine.execDecm c o s
  | .clrm c o => Sys2Proof.Machine.execClrm c o s
  | .addm c o => Sys2Proof.Machine.execAddm c o s
  | .addcm c o => Sys2Proof.Machine.execAddcm c o s
  | .subbm c o => Sys2Proof.Machine.execSubbm c o s
  | .setm c o => Sys2Proof.Machine.execSetm c o s
  | .clrbm c o => Sys2Proof.Machine.execClrbm c o s
  | .rolm c o => Sys2Proof.Machine.execRolm c o s
  | .rorm c o => Sys2Proof.Machine.execRorm c o s
  | .minu c o => Sys2Proof.Machine.execMinu c o s
  | .maxu c o => Sys2Proof.Machine.execMaxu c o s
  | .ldl c o => Sys2Proof.Machine.execLdl c o s
  | .stl c o => Sys2Proof.Machine.execStl c o s
  | .addx c o => Sys2Proof.Machine.execAddx c o s
  | .subx c o => Sys2Proof.Machine.execSubx c o s
  | .addy c o => Sys2Proof.Machine.execAddy c o s
  | .suby c o => Sys2Proof.Machine.execSuby c o s
  | .lddp c o => Sys2Proof.Machine.execLddp c o s
  | .stdp c o => Sys2Proof.Machine.execStdp c o s
  | .adddp c o => Sys2Proof.Machine.execAdddp c o s
  | .cbl c o bw => Sys2Proof.Machine.execCbl c o bw s
  | .rti c f => Sys2Proof.Machine.execRti c f s
  | .spill c f n => Sys2Proof.Machine.execSpill c f n s
  | .fill c f n => Sys2Proof.Machine.execFill c f n s
  | .kset c f => Sys2Proof.Machine.execKset c f s
  | .mvu c stop => Sys2Proof.Machine.execMvu c stop s
  | .mvfu c stop => Sys2Proof.Machine.execMvfu c stop s
  | .setim c f => Sys2Proof.Machine.execSetim c f s
  | .clrim c f => Sys2Proof.Machine.execClrim c f s
  | .wdr c f => Sys2Proof.Machine.execWdr c f s
  | .rsrd c f => Sys2Proof.Machine.execRsrd c f s
  | .rswr c f => Sys2Proof.Machine.execRswr c f s
  | .emulationCall c f e => Sys2Proof.Machine.execEmulationCall c f e s
  | .dup c => Sys2Proof.Machine.execDup c s
  | .drop c => Sys2Proof.Machine.execDrop c s
  | .swap c => Sys2Proof.Machine.execSwap c s
  | .over c => Sys2Proof.Machine.execOver c s
  | .rot c => Sys2Proof.Machine.execRot c s
  | .dupw c => Sys2Proof.Machine.execDupw c s
  | .dropw c => Sys2Proof.Machine.execDropw c s
  | .swapw c => Sys2Proof.Machine.execSwapw c s
  | .overw c => Sys2Proof.Machine.execOverw c s
  | .toa c => Sys2Proof.Machine.execToa c s
  | .froma c => Sys2Proof.Machine.execFroma c s
  | .tox c => Sys2Proof.Machine.execTox c s
  | .fromx c => Sys2Proof.Machine.execFromx c s
  | .toy c => Sys2Proof.Machine.execToy c s
  | .fromy c => Sys2Proof.Machine.execFromy c s
  | .sAdd c => Sys2Proof.Machine.execSAdd c s
  | .sAddc c => Sys2Proof.Machine.execSAddc c s
  | .sSub c => Sys2Proof.Machine.execSSub c s
  | .sSubb c => Sys2Proof.Machine.execSSubb c s
  | .sAnd c => Sys2Proof.Machine.execSAnd c s
  | .sOr c => Sys2Proof.Machine.execSOr c s
  | .sXor c => Sys2Proof.Machine.execSXor c s
  | .sNot c => Sys2Proof.Machine.execSNot c s
  | .sNeg c => Sys2Proof.Machine.execSNeg c s
  | .sShl c => Sys2Proof.Machine.execSShl c s
  | .sShr c => Sys2Proof.Machine.execSShr c s
  | .sAsr c => Sys2Proof.Machine.execSAsr c s
  | .sMul c => Sys2Proof.Machine.execSMul c s
  | .sDiv c => Sys2Proof.Machine.execSDiv c s
  | .sInc c => Sys2Proof.Machine.execSInc c s
  | .sDec c => Sys2Proof.Machine.execSDec c s
  | .addw c => Sys2Proof.Machine.execAddw c s
  | .subw c => Sys2Proof.Machine.execSubw c s
  | .andw c => Sys2Proof.Machine.execAndw c s
  | .orw c => Sys2Proof.Machine.execOrw c s
  | .xorw c => Sys2Proof.Machine.execXorw c s
  | .notw c => Sys2Proof.Machine.execNotw c s
  | .negw c => Sys2Proof.Machine.execNegw c s
  | .shlw c => Sys2Proof.Machine.execShlw c s
  | .shrw c => Sys2Proof.Machine.execShrw c s
  | .incw c => Sys2Proof.Machine.execIncw c s
  | .decw c => Sys2Proof.Machine.execDecw c s
  | .zxw c => Sys2Proof.Machine.execZxw c s
  | .sxw c => Sys2Proof.Machine.execSxw c s
  | .low c => Sys2Proof.Machine.execLow c s
  | .ld c => Sys2Proof.Machine.execLd c s
  | .st c => Sys2Proof.Machine.execSt c s
  | .ldw c => Sys2Proof.Machine.execLdw c s
  | .stw c => Sys2Proof.Machine.execStw c s
  | .tol c => Sys2Proof.Machine.execTol c s
  | .froml c => Sys2Proof.Machine.execFroml c s
  | .fromdp c => Sys2Proof.Machine.execFromdp c s
  | .todp c => Sys2Proof.Machine.execTodp c s
  | .cb c cc r => Sys2Proof.Machine.execCb c cc r s
  | .cbw c cc r => Sys2Proof.Machine.execCbw c cc r s
  | .calls c => Sys2Proof.Machine.execCalls c s
  | .jmps c => Sys2Proof.Machine.execJmps c s
  | .lits c v => Sys2Proof.Machine.execLits c v s
  | .lit8 c idx => Sys2Proof.Machine.execLit8 c idx s
  | .lit16 c idx => Sys2Proof.Machine.execLit16 c idx s
  | .litn c v => Sys2Proof.Machine.execLitn c v s
  | .dld c lb => Sys2Proof.Machine.execDld c lb s
  | .dadd c lb => Sys2Proof.Machine.execDadd c lb s
  | .dsub c lb => Sys2Proof.Machine.execDsub c lb s
  | .dmul c lb lm stop => Sys2Proof.Machine.execDmul c lb lm stop s
  | .ddiv c lb abandoned => Sys2Proof.Machine.execDdiv c lb abandoned s
  | .dshr c lb sel => Sys2Proof.Machine.execDshr c lb sel s
  | .dcb c lb bw => Sys2Proof.Machine.execDcb c lb bw s
  | .zpk c lb lz => Sys2Proof.Machine.execZpk c lb lz s
  | .pzn c lb lz => Sys2Proof.Machine.execPzn c lb lz s
  | .dtob c lb => Sys2Proof.Machine.execDtob c lb s
  | .btod c lb => Sys2Proof.Machine.execBtod c lb s
  | .dus c lb => Sys2Proof.Machine.execDus c lb s
  | .uadd c lb => Sys2Proof.Machine.execUadd c lb s
  | .usub c lb => Sys2Proof.Machine.execUsub c lb s
  | .mvs c stop => Sys2Proof.Machine.execMvs c stop s
  | .mvsb c stop => Sys2Proof.Machine.execMvsb c stop s
  | .fils c stop => Sys2Proof.Machine.execFils c stop s
  | .cbs c bw stop => Sys2Proof.Machine.execCbs c bw stop s
  | .trs c stop => Sys2Proof.Machine.execTrs c stop s
  | .trts c stop => Sys2Proof.Machine.execTrts c stop s
  | .edt c stop => Sys2Proof.Machine.execEdt c stop s
  | .edtl c stop => Sys2Proof.Machine.execEdtl c stop s
  | .contextSwitch c => Sys2Proof.Machine.execContextSwitch c s
  | .ctxgoGo m c mask => Sys2Proof.Machine.execCtxgoGo m c mask s
  | .ctxgoStop m c mask => Sys2Proof.Machine.execCtxgoStop m c mask s
  | .contextStop c k => Sys2Proof.Machine.execContextStop c k s
  | .lccModeWrite m c v => Sys2Proof.Machine.execLccModeWrite m c v s
  | .modeSwitchPoint c => Sys2Proof.Machine.execModeSwitchPoint c s
  | .lccCacheIinv m c v => Sys2Proof.Machine.execLccCacheIinv m c v s
  | .lccCacheDinv m c v => Sys2Proof.Machine.execLccCacheDinv m c v s
  | .lccCacheBpinv m c v => Sys2Proof.Machine.execLccCacheBpinv m c v s
  | .storeBufferDrain c err => Sys2Proof.Machine.execStoreBufferDrain c err s
  | .storeRoomResume c => Sys2Proof.Machine.execStoreRoomResume c s
  | .loadDrainResume c => Sys2Proof.Machine.execLoadDrainResume c s
  | .lineFillDone c => Sys2Proof.Machine.execLineFillDone c s
  | .xltBdtWrite m c k second v => Sys2Proof.Machine.execXltBdtWrite m c k second v s
  | .xltPbrWrite m c k idx second v => Sys2Proof.Machine.execXltPbrWrite m c k idx second v s
  | .xltKeyClear m j v => Sys2Proof.Machine.execXltKeyClear m j v s
  | .xltXdiagWrite m v => Sys2Proof.Machine.execXltXdiagWrite m v s
  | .interruptEntry c => Sys2Proof.Machine.execInterruptEntry c s
  | .ec11Entry c => Sys2Proof.Machine.execEc11Entry c s
  | .irqRsdropWrite m v => Sys2Proof.Machine.execIrqRsdropWrite m v s
  | .doorbellSet m v => Sys2Proof.Machine.execDoorbellSet m v s
  | .doorbellClear m v => Sys2Proof.Machine.execDoorbellClear m v s
  | .irqLineWrite m n v => Sys2Proof.Machine.execIrqLineWrite m n v s
  | .irqXforceWrite m v => Sys2Proof.Machine.execIrqXforceWrite m v s
  | .watchdogExpiry c k => Sys2Proof.Machine.execWatchdogExpiry c k s
  | .fallbackDelivery c => Sys2Proof.Machine.execFallbackDelivery c s
  | .cgOpen c k => Sys2Proof.Machine.execCgOpen c k s
  | .cgClose c k => Sys2Proof.Machine.execCgClose c k s
  | .cgAbort c k => Sys2Proof.Machine.execCgAbort c k s
  | .groupDurable c verified => Sys2Proof.Machine.execGroupDurable c verified s
  | .groupApplied c => Sys2Proof.Machine.execGroupApplied c s
  | .groupGraceEnd => Sys2Proof.Machine.execGroupGraceEnd s
  | .dischargeTest charged dropMilli => Sys2Proof.Machine.execDischargeTest charged dropMilli s
  | .nvlCtrlWrite m v => Sys2Proof.Machine.execNvlCtrlWrite m v s
  | .remapDone block => Sys2Proof.Machine.execRemapDone block s
  | .backoffExpiry p => Sys2Proof.Machine.execBackoffExpiry p s
  | .ts1Detect p => Sys2Proof.Machine.execTs1Detect p s
  | .tsOrderedSet p ts2 => Sys2Proof.Machine.execTsOrderedSet p ts2 s
  | .trainingTimeout p clockLock => Sys2Proof.Machine.execTrainingTimeout p clockLock s
  | .offerTimer p => Sys2Proof.Machine.execOfferTimer p s
  | .levelIdleEnd p => Sys2Proof.Machine.execLevelIdleEnd p s
  | .trainOffer p t => Sys2Proof.Machine.execTrainOffer p t s
  | .trainParam p t => Sys2Proof.Machine.execTrainParam p t s
  | .trainEcho p t => Sys2Proof.Machine.execTrainEcho p t s
  | .trainEchorep p t rttNs => Sys2Proof.Machine.execTrainEchorep p t rttNs s
  | .trainReady p t => Sys2Proof.Machine.execTrainReady p t s
  | .lossOfSignal p => Sys2Proof.Machine.execLossOfSignal p s
  | .flowStable p => Sys2Proof.Machine.execFlowStable p s
  | .badFrame p => Sys2Proof.Machine.execBadFrame p s
  | .dataFrame p f => Sys2Proof.Machine.execDataFrame p f s
  | .bcastFrame p f => Sys2Proof.Machine.execBcastFrame p f s
  | .ackFrame p f => Sys2Proof.Machine.execAckFrame p f s
  | .nakFrame p f => Sys2Proof.Machine.execNakFrame p f s
  | .creditFrame p f => Sys2Proof.Machine.execCreditFrame p f s
  | .holdFrame p f => Sys2Proof.Machine.execHoldFrame p f s
  | .goFrame p f => Sys2Proof.Machine.execGoFrame p f s
  | .trainInFlow p f => Sys2Proof.Machine.execTrainInFlow p f s
  | .violationFrame p f => Sys2Proof.Machine.execViolationFrame p f s
  | .idleFrame p f => Sys2Proof.Machine.execIdleFrame p f s
  | .reservedTypeFrame p f => Sys2Proof.Machine.execReservedTypeFrame p f s
  | .ackTimerExpiry p => Sys2Proof.Machine.execAckTimerExpiry p s
  | .replayTimerExpiry p => Sys2Proof.Machine.execReplayTimerExpiry p s
  | .idleTimerExpiry p => Sys2Proof.Machine.execIdleTimerExpiry p s
  | .stallTimeout p => Sys2Proof.Machine.execStallTimeout p s
  | .creditTimer p => Sys2Proof.Machine.execCreditTimer p s
  | .violationSecondTick p => Sys2Proof.Machine.execViolationSecondTick p s
  | .quarantineEnd p => Sys2Proof.Machine.execQuarantineEnd p s
  | .resumeHoldExpiry p => Sys2Proof.Machine.execResumeHoldExpiry p s
  | .frameSend p eccDouble => Sys2Proof.Machine.execFrameSend p eccDouble s
  | .usdRetrain m p => Sys2Proof.Machine.execUsdRetrain m p s
  | .usdEnWrite m p v => Sys2Proof.Machine.execUsdEnWrite m p v s
  | .usdXtestWrite m p v => Sys2Proof.Machine.execUsdXtestWrite m p v s
  | .requestArrival cacheDouble => Sys2Proof.Machine.execRequestArrival cacheDouble s
  | .answerArrival tagDouble => Sys2Proof.Machine.execAnswerArrival tagDouble s
  | .txnSubmit c v => Sys2Proof.Machine.execTxnSubmit c v s
  | .txnRelease c v => Sys2Proof.Machine.execTxnRelease c v s
  | .txnClaim c v => Sys2Proof.Machine.execTxnClaim c v s
  | .txnAnswer c v => Sys2Proof.Machine.execTxnAnswer c v s
  | .txnBcast c v => Sys2Proof.Machine.execTxnBcast c v s
  | .txnWTake v => Sys2Proof.Machine.execTxnWTake v s
  | .txnWAnswer v => Sys2Proof.Machine.execTxnWAnswer v s
  | .resendTimer t => Sys2Proof.Machine.execResendTimer t s
  | .requestTimeout t => Sys2Proof.Machine.execRequestTimeout t s
  | .pendingExpiry e => Sys2Proof.Machine.execPendingExpiry e s
  | .completeEntryAged e => Sys2Proof.Machine.execCompleteEntryAged e s
  | .epochWindowEnd => Sys2Proof.Machine.execEpochWindowEnd s
  | .rtNodeWrite m v => Sys2Proof.Machine.execRtNodeWrite m v s
  | .rtRouteWrite m idx v => Sys2Proof.Machine.execRtRouteWrite m idx v s
  | .uartRxByte u b => Sys2Proof.Machine.execUartRxByte u b s
  | .uartRxdRead m u => Sys2Proof.Machine.execUartRxdRead m u s
  | .uartTxdWrite m u v => Sys2Proof.Machine.execUartTxdWrite m u v s
  | .uartTxDone u => Sys2Proof.Machine.execUartTxDone u s
  | .deLeadEnd => Sys2Proof.Machine.execDeLeadEnd s
  | .deTailEnd => Sys2Proof.Machine.execDeTailEnd s
  | .nargaErase b => Sys2Proof.Machine.execNargaErase b s
  | .nargaKill => Sys2Proof.Machine.execNargaKill s
  | .nargaCancel => Sys2Proof.Machine.execNargaCancel s
  | .nargaLineTooLong l => Sys2Proof.Machine.execNargaLineTooLong l s
  | .nargaUnknownVerb l => Sys2Proof.Machine.execNargaUnknownVerb l s
  | .nargaHelp l verb => Sys2Proof.Machine.execNargaHelp l verb s
  | .nargaId l => Sys2Proof.Machine.execNargaId l s
  | .nargaIdFull l => Sys2Proof.Machine.execNargaIdFull l s
  | .nargaStat l => Sys2Proof.Machine.execNargaStat l s
  | .nargaCh l n => Sys2Proof.Machine.execNargaCh l n s
  | .nargaChIn l n => Sys2Proof.Machine.execNargaChIn l n s
  | .nargaChOut l n => Sys2Proof.Machine.execNargaChOut l n s
  | .nargaChReload l n => Sys2Proof.Machine.execNargaChReload l n s
  | .nargaChClose l n => Sys2Proof.Machine.execNargaChClose l n s
  | .nargaCnv l u => Sys2Proof.Machine.execNargaCnv l u s
  | .nargaCnvCal l u => Sys2Proof.Machine.execNargaCnvCal l u s
  | .nargaPort l p => Sys2Proof.Machine.execNargaPort l p s
  | .nargaPortPeer l p => Sys2Proof.Machine.execNargaPortPeer l p s
  | .nargaPortRetrain l p => Sys2Proof.Machine.execNargaPortRetrain l p s
  | .nargaPortOn l p => Sys2Proof.Machine.execNargaPortOn l p s
  | .nargaPortOff l p => Sys2Proof.Machine.execNargaPortOff l p s
  | .nargaRouteNode l => Sys2Proof.Machine.execNargaRouteNode l s
  | .nargaRouteNodeSet l id => Sys2Proof.Machine.execNargaRouteNodeSet l id s
  | .nargaRoute l id => Sys2Proof.Machine.execNargaRoute l id s
  | .nargaRouteSet l id nbr => Sys2Proof.Machine.execNargaRouteSet l id nbr s
  | .nargaRouteTunnel l set => Sys2Proof.Machine.execNargaRouteTunnel l set s
  | .nargaLogHealth l k => Sys2Proof.Machine.execNargaLogHealth l k s
  | .nargaLogLegal l k => Sys2Proof.Machine.execNargaLogLegal l k s
  | .nargaLogHealthFrom l sel k => Sys2Proof.Machine.execNargaLogHealthFrom l sel k s
  | .nargaLogLegalFrom l sel k => Sys2Proof.Machine.execNargaLogLegalFrom l sel k s
  | .nargaTarn l => Sys2Proof.Machine.execNargaTarn l s
  | .nargaTarnTime l set => Sys2Proof.Machine.execNargaTarnTime l set s
  | .nargaTarnLogack l sel => Sys2Proof.Machine.execNargaTarnLogack l sel s
  | .nargaTarnNonce l => Sys2Proof.Machine.execNargaTarnNonce l s
  | .nargaTarnStage l off data => Sys2Proof.Machine.execNargaTarnStage l off data s
  | .nargaTarnSubmit l => Sys2Proof.Machine.execNargaTarnSubmit l s
  | .nargaPwr l => Sys2Proof.Machine.execNargaPwr l s
  | .nargaPwrGo l ps => Sys2Proof.Machine.execNargaPwrGo l ps s
  | .nargaClk l => Sys2Proof.Machine.execNargaClk l s
  | .nargaImg l => Sys2Proof.Machine.execNargaImg l s
  | .nargaImgVerify l img => Sys2Proof.Machine.execNargaImgVerify l img s
  | .nargaImgActivate l img => Sys2Proof.Machine.execNargaImgActivate l img s
  | .nargaReconcile l unit => Sys2Proof.Machine.execNargaReconcile l unit s
  | .nargaApp l text => Sys2Proof.Machine.execNargaApp l text s
  | .nargaResetCore l c => Sys2Proof.Machine.execNargaResetCore l c s
  | .nargaResetPort l p => Sys2Proof.Machine.execNargaResetPort l p s
  | .nargaResetDevice l => Sys2Proof.Machine.execNargaResetDevice l s
  | .nargaMore l => Sys2Proof.Machine.execNargaMore l s
  | .nargaExpertOn l => Sys2Proof.Machine.execNargaExpertOn l s
  | .nargaExpertOff l => Sys2Proof.Machine.execNargaExpertOff l s
  | .nargaXregRead l a => Sys2Proof.Machine.execNargaXregRead l a s
  | .nargaXregWrite l a v => Sys2Proof.Machine.execNargaXregWrite l a v s
  | .nargaXchScrub l n idx => Sys2Proof.Machine.execNargaXchScrub l n idx s
  | .nargaXchInj l n word bit => Sys2Proof.Machine.execNargaXchInj l n word bit s
  | .nargaXcnvRaw l u on => Sys2Proof.Machine.execNargaXcnvRaw l u on s
  | .nargaXcnvSurge l u => Sys2Proof.Machine.execNargaXcnvSurge l u s
  | .nargaXportLoop l p => Sys2Proof.Machine.execNargaXportLoop l p s
  | .nargaXportPrbs l p => Sys2Proof.Machine.execNargaXportPrbs l p s
  | .nargaXportTestOff l p => Sys2Proof.Machine.execNargaXportTestOff l p s
  | .nargaXportHead l p b => Sys2Proof.Machine.execNargaXportHead l p b s
  | .nargaXportGohyst l p b => Sys2Proof.Machine.execNargaXportGohyst l p b s
  | .nargaXclkMon l clock => Sys2Proof.Machine.execNargaXclkMon l clock s
  | .backgroundCommandDone => Sys2Proof.Machine.execBackgroundCommandDone s
  | .expertIdleTimeout sess => Sys2Proof.Machine.execExpertIdleTimeout sess s
  | .tunnelSessionIdle sess => Sys2Proof.Machine.execTunnelSessionIdle sess s
  | .sensorSample idx reading selfTestFails => Sys2Proof.Machine.execSensorSample idx reading selfTestFails s
  | .clockMonitorPoll => Sys2Proof.Machine.execClockMonitorPoll s
  | .tamperStatusCopy => Sys2Proof.Machine.execTamperStatusCopy s
  | .viewCompare => Sys2Proof.Machine.execViewCompare s
  | .healthTransition => Sys2Proof.Machine.execHealthTransition s
  | .stateAreaWrite => Sys2Proof.Machine.execStateAreaWrite s
  | .logSuppressSecond => Sys2Proof.Machine.execLogSuppressSecond s
  | .appPut m v => Sys2Proof.Machine.execAppPut m v s
  | .appLineTake => Sys2Proof.Machine.execAppLineTake s
  | .appTimeout => Sys2Proof.Machine.execAppTimeout s
  | .wmbXpinWrite m v => Sys2Proof.Machine.execWmbXpinWrite m v s
  | .wellheadWatchdog => Sys2Proof.Machine.execWellheadWatchdog s
  | .wellheadRestartDone => Sys2Proof.Machine.execWellheadRestartDone s
  | .wellheadStart => Sys2Proof.Machine.execWellheadStart s
  | .rollbackFloorCheck => Sys2Proof.Machine.execRollbackFloorCheck s
  | .tfwInstall => Sys2Proof.Machine.execTfwInstall s
  | .tfwInstallDone ok => Sys2Proof.Machine.execTfwInstallDone ok s
  | .trialConfirm t => Sys2Proof.Machine.execTrialConfirm t s
  | .pwrRequest m v => Sys2Proof.Machine.execPwrRequest m v s
  | .pwrCancel m v => Sys2Proof.Machine.execPwrCancel m v s
  | .ladderEntry => Sys2Proof.Machine.execLadderEntry s
  | .wakeNLow => Sys2Proof.Machine.execWakeNLow s
  | .wakeComplete => Sys2Proof.Machine.execWakeComplete s
  | .pllLock pll refinMilli => Sys2Proof.Machine.execPllLock pll refinMilli s
  | .xinLoss => Sys2Proof.Machine.execXinLoss s
  | .xinRestore => Sys2Proof.Machine.execXinRestore s
  | .xrtcLoss => Sys2Proof.Machine.execXrtcLoss s
  | .xrtcRestore => Sys2Proof.Machine.execXrtcRestore s
  | .spllUnlock => Sys2Proof.Machine.execSpllUnlock s
  | .cpllUnlock => Sys2Proof.Machine.execCpllUnlock s
  | .tpllUnlock => Sys2Proof.Machine.execTpllUnlock s
  | .rcoRange stopped => Sys2Proof.Machine.execRcoRange stopped s
  | .eclkStop => Sys2Proof.Machine.execEclkStop s
  | .clkXforceWrite m v => Sys2Proof.Machine.execClkXforceWrite m v s
  | .vinValid boot => Sys2Proof.Machine.execVinValid boot s
  | .buckRetry valid => Sys2Proof.Machine.execBuckRetry valid s
  | .xinAbsent => Sys2Proof.Machine.execXinAbsent s
  | .springStart flash => Sys2Proof.Machine.execSpringStart flash s
  | .coreRelease => Sys2Proof.Machine.execCoreRelease s
  | .resetNLow => Sys2Proof.Machine.execResetNLow s
  | .resetNHigh boot => Sys2Proof.Machine.execResetNHigh boot s
  | .deviceReset cause boot => Sys2Proof.Machine.execDeviceReset cause boot s
  | .coreReset c => Sys2Proof.Machine.execCoreReset c s
  | .pfail => Sys2Proof.Machine.execPfail s
  | .holdRundown => Sys2Proof.Machine.execHoldRundown s
  | .iicXfer m idx v => Sys2Proof.Machine.execIicXfer m idx v s
  | .iicXferDone idx r => Sys2Proof.Machine.execIicXferDone idx r s
  | .iicAbort m idx => Sys2Proof.Machine.execIicAbort m idx s
  | .iicClear m idx => Sys2Proof.Machine.execIicClear m idx s
  | .iicEnable m idx v => Sys2Proof.Machine.execIicEnable m idx v s
  | .iicDisable m idx v => Sys2Proof.Machine.execIicDisable m idx v s
  | .iicBusClearDone idx foundLow pulses endsHigh => Sys2Proof.Machine.execIicBusClearDone idx foundLow pulses endsHigh s
  | .smbusTimeout idx => Sys2Proof.Machine.execSmbusTimeout idx s
  | .iicWdataWrite m idx v => Sys2Proof.Machine.execIicWdataWrite m idx v s
  | .iicRdataRead m idx => Sys2Proof.Machine.execIicRdataRead m idx s
  | .qspiProgram m v => Sys2Proof.Machine.execQspiProgram m v s
  | .qspiErase4k m v => Sys2Proof.Machine.execQspiErase4k m v s
  | .qspiErase64k m v => Sys2Proof.Machine.execQspiErase64k m v s
  | .qspiReadstat m v => Sys2Proof.Machine.execQspiReadstat m v s
  | .qspiOpDone status readBackOk => Sys2Proof.Machine.execQspiOpDone status readBackOk s
  | .qspiTimeout => Sys2Proof.Machine.execQspiTimeout s
  | .gpSet m v => Sys2Proof.Machine.execGpSet m v s
  | .gpClr m v => Sys2Proof.Machine.execGpClr m v s
  | .gpEdge idx rising => Sys2Proof.Machine.execGpEdge idx rising s
  | .tapReset => Sys2Proof.Machine.execTapReset s
  | .tapExtest => Sys2Proof.Machine.execTapExtest s
  | .tapSamplePreload => Sys2Proof.Machine.execTapSamplePreload s
  | .tapIdcode => Sys2Proof.Machine.execTapIdcode s
  | .tapHighz => Sys2Proof.Machine.execTapHighz s
  | .tapClamp => Sys2Proof.Machine.execTapClamp s
  | .tapBypass opcode => Sys2Proof.Machine.execTapBypass opcode s
  | .dbgaccPoll => Sys2Proof.Machine.execDbgaccPoll s
  | .dbgaccRead a half low => Sys2Proof.Machine.execDbgaccRead a half low s
  | .dbgaccWrite a data half low => Sys2Proof.Machine.execDbgaccWrite a data half low s
  | .dbgaccReserved => Sys2Proof.Machine.execDbgaccReserved s
  | .dbghalt c halt => Sys2Proof.Machine.execDbghalt c halt s
  | .debugExpiry => Sys2Proof.Machine.execDebugExpiry s
  | .denOvercurrent n => Sys2Proof.Machine.execDenOvercurrent n s
  | .denRetry n => Sys2Proof.Machine.execDenRetry n s
  | .vioBankChange bank milli => Sys2Proof.Machine.execVioBankChange bank milli s
  | .tmrEnable m t v => Sys2Proof.Machine.execTmrEnable m t v s
  | .tmrExpiry t => Sys2Proof.Machine.execTmrExpiry t s
  | .rtcAlarm => Sys2Proof.Machine.execRtcAlarm s
  | .lowPowerComparatorBreak src => Sys2Proof.Machine.execLowPowerComparatorBreak src s
  | .stateMachineCheck c => Sys2Proof.Machine.execStateMachineCheck c s

end Sys2Proof.Machine
end

