-- ==== Sys2Proof/Machine/Time.lean ====
section
/-! DEFINITION. What the passing of one microsecond does when no command waits (DESIGN CHOICE, log 6): the RTC, the timers, the watchdogs,
TICK and the queued bus writes of the engines, the release of REPLACE_N, and what Wellhead, Spring and Tarn do each second. -/

namespace Sys2Proof.Machine

/-- The RTC, whose fraction counts 1/65536 s, advances with the elapsed microseconds (R641, R763). -/
def State.idleRtc (s : State) : State :=
  let k := (s.us + 1) * 65536 / 1000000 - s.us * 65536 / 1000000
  if k = 0 then s else s.rtcSet (s.rtc + BitVec.ofNat 48 k)

/-- A running timer counts down and reaches 0 (R762). -/
def State.idleTimer (s : State) (t : Fin 2) : State :=
  if ¬ s.timersRun ∨ ¬ bit (s.reg (Reg.tmrCfg t.val)) 0 then s
  else
    let n := (s.reg (Reg.tmrCount t.val)).toNat
    if n ≤ 1 then s.tmrExpire t else s.setReg (Reg.tmrCount t.val) (BitVec.ofNat 32 (n - 1))

/-- A watchdog that counts goes down and reaches 0 (R406, R407). -/
def State.idleWatchdog (s : State) (c : Core) (k : Ctx) : State :=
  if ¬ s.wdtCounts c k ∨ (s.ctx c k).wdtPend then s
  else if (s.ctx c k).wdtLeft ≤ 1 then s.wdtExpire c k
  else s.modCtx c k fun x => { x with wdtLeft := x.wdtLeft - 1 }

/-- A clocked engine that issues no word counts 160 ec, and its oldest bus write goes out (R114, R120). -/
def State.idleEngine (s : State) (n : Chan) : State :=
  if ¬ s.engineClocked then s
  else
    let s := s.wqDrain n
    let e := s.eng n
    if e.runst.active ∧ e.heldWord.isNone then s else s.modEng n fun e => (e.elapse 160).takePending

/-- A second ends: Wellhead's count of records (R586), Tarn's debug window (R717), and Spring's line while there is no Wellhead image
(R612). -/
def State.idleSecond (s : State) : State :=
  let s := s.secondEnds
  let s :=
    if s.tarn.running ∧ 1 < s.tarn.debugLeft then s.modArea fun t => { t with debugLeft := t.debugLeft - 1 }
    else if s.tarn.running ∧ s.tarn.debugLeft = 1 then s.debugEnd
    else s
  if s.power.stage = .spring ∧ s.power.boot.toNat < 2 ∧ (s.power.slotsRun[(0 : Fin 3)]).isNone then s.noWellheadLine else s

/-- One microsecond passes. -/
def State.idle (s : State) : State :=
  let s := s.idleRtc
  let s := s.each [0, 1] State.idleTimer
  let s := s.each allCores fun s c => s.each allCtxs fun s k => s.idleWatchdog c k
  let s := s.each allChans State.idleEngine
  let s := if (s.us + 1) % 1000000 = 0 then s.idleSecond else s
  { s with us := s.us + 1 }.releaseReplace

end Sys2Proof.Machine
end

