-- ==== Sys2Proof/Safety.lean ====
section
/-! DEFINITION. What the statements are said in: the canonical form, when a ledger core is ready to complete an instruction, and what
an instruction may change. -/

namespace Sys2Proof.Machine

/-! ### Invariants -/

/-- Memory and the register file stand in their canonical form. -/
def State.Canonical (s : State) : Prop := Memory.wf s.mem = true ∧ RegFile.wf s.regs = true

/-- No store buffer holds more than its four entries (R316). -/
def State.BuffersFit (s : State) : Prop := ∀ c, (s.core c).buf.length ≤ 4

/-! ### The context that runs -/

/-- The context that core `c` runs, and its registers. -/
def State.runs (s : State) (c : Core) : CtxSt := s.ctx c (s.core c).cur
def State.regsOf (s : State) (c : Core) : CtxRegs := (s.runs c).regs

/-- Its registers as an A-form instruction sees them: a load shadow shows the value before the load (R215). -/
def State.seenA (s : State) (c : Core) : CtxRegs := seenRegs .A (s.runs c)

/-- The access that its instruction makes: kind 0 a fetch, 1 a load, 2 a store. -/
def State.accessOf (s : State) (c : Core) (kind : Nat) : Access :=
  { kind, needR := decide (kind = 1), needW := decide (kind = 2), needX := decide (kind = 0), user := !(s.regsOf c).ctx.getLsbD 15,
    guard := (s.regsOf c).ctx.getLsbD 14, key := BitVec.ofNat 4 (field (s.regsOf c).ctx 10 4) }

/-- The access of an operand of a decimal or string instruction, which never reaches a side-effect block (R366). -/
def State.operandOf (s : State) (c : Core) (kind : Nat) : Access := { s.accessOf c kind with noSe := true }

/-- The user side of MVU and MVFU: a user access with the key of A[7:4], beyond the guard (R364). -/
def State.userOf (s : State) (c : Core) (kind : Nat) : Access :=
  { s.operandOf c kind with user := true, guard := false, key := BitVec.ofNat 4 (field (s.seenA c).a 4 4) }

/-- A logical address that a pinned block of the context decides: the block and the physical address, where the access has its rights
and its key and the frame's key entry is sound (R354, R362 to R369). -/
def State.pinned (s : State) (c : Core) (a : Half) (acc : Access) : Option (Block × Nat) :=
  match findPbr s c (s.core c).cur a.toNat with
  | none => none
  | some b =>
    let pa := b.phys a.toNat
    let sound := match frameOf pa with | some f => !s.keyBad.contains f | none => true
    if rightsFault b a acc = none ∧ keyFault s c pa a acc = none ∧ sound = true then some (b, pa) else none

/-- The master that the running context of core `c` is on the bus. -/
def State.masterOf (s : State) (c : Core) : Master := .lc c (s.core c).cur ((s.regsOf c).ctx.getLsbD 15)

/-- A byte of code that is fetched without an exception: in a pinned block of the instruction's form, readable and without an error of its
word. -/
def State.codeOk (s : State) (c : Core) (f : Form) (a : Half) : Bool :=
  match s.pinned c a (s.accessOf c 0) with
  | none => false
  | some (b, pa) => decide (b.isS = decide (f = .S)) && (coreFetchBad s pa).isNone && !s.eccBad pa && !s.softAt pa

/-- Core `c` is about to complete an instruction of form `f` whose `n` bytes are fetched without an exception: it runs a context in
deterministic mode with no mode switch counting, no instruction waits in it, and CTX.PH is 0. -/
structure Ready (s : State) (c : Core) (f : Form) (n : Nat) : Prop where
  acts : s.canRun c = true
  free : (s.core c).held = none
  det : (s.core c).det = true
  counts : (s.core c).modeCounts = []
  room : (s.core c).buf.length ≤ 4
  phase : (s.regsOf c).ph = 0
  space : (s.regsOf c).pc.toNat + n ≤ 65536
  code : ∀ i, i < n → s.codeOk c f ((s.regsOf c).pc + BitVec.ofNat 16 i) = true

/-- `n` bytes of one aligned word from a physical address that an instruction of core `c` reads in one access, without an exception, a
wait or an error of the word, from outside the device registers, and their values: the store buffer's where it holds the byte (R319, Table
9.3), then those that the context has staged in its group (R429). An entry that holds only some of them makes the load wait; one that holds
all of them gives them whatever the word's state. -/
def State.readsAt (s : State) (c : Core) (pa n : Nat) (l : List Byte) : Prop :=
  region pa ≠ .dev ∧ coreReadBad s pa = none ∧ forward (s.core c).buf pa n ≠ .wait ∧
    (forward (s.core c).buf pa n = .none → s.softAt pa = false ∧
      ∀ i, i < n → stagedByte s c (s.core c).cur (pa + i) = none → s.eccBad (pa + i) = false) ∧
    l = (List.range n).map fun i => (bufByte (s.core c).buf (pa + i)).getD
      ((stagedByte s c (s.core c).cur (pa + i)).getD (physByte s (s.masterOf c) (pa + i)))

/-- Such a load at a logical address. -/
def State.loads (s : State) (c : Core) (acc : Access) (a : Half) (n : Nat) (l : List Byte) : Prop :=
  ∃ b pa, s.pinned c a acc = some (b, pa) ∧ s.readsAt c pa n l

/-- A byte of memory, and a 16-bit value at an even address (R193), that an instruction loads. -/
def State.loads8 (s : State) (c : Core) (a : Half) (v : Byte) : Prop := s.loads c (s.accessOf c 1) a 1 [v]
def State.loads16 (s : State) (c : Core) (a : Half) (v : Half) : Prop :=
  a.getLsbD 0 = false ∧ s.loads c (s.accessOf c 1) a 2 [lowByte v, highByte v]

/-- The value of an operand of an A-form instruction: an immediate's own, else that of memory at its effective address (Table 7.1). -/
def State.value8 (s : State) (c : Core) (o : Opd) (v : Byte) : Prop :=
  match o.ea (s.seenA c) with
  | some a => s.loads8 c a v
  | none => v = lowByte o.val

/-- Likewise of 16 bits; an 8-bit immediate is zero-extended (R240). -/
def State.value16 (s : State) (c : Core) (o : Opd) (v : Half) : Prop :=
  match o.ea (s.seenA c) with
  | some a => s.loads16 c a v
  | none => v = o.val

/-- A store of `data` in one access that the instruction makes without an exception at a logical address: where it goes, as a store of the
instruction, with its side-effect mark. A store that reaches LCC_MODE of its own core starts a mode count and is none of these (R219). -/
def State.puts (s : State) (c : Core) (acc : Access) (a : Half) (w : Width) (data : List Byte) (p : Put) : Prop :=
  ∃ b pa, s.pinned c a acc = some (b, pa) ∧ s.writeError (s.masterOf c) pa w = none ∧ pa / 4 * 4 ≠ Reg.lccMode c.val ∧
    p = { pa, data, se := flagSE b.flags || seRegion pa }

/-- The store of a byte, and of a 16-bit value at an even address (R193). -/
def State.stores8 (s : State) (c : Core) (a : Half) (v : Byte) (p : Put) : Prop := s.puts c (s.accessOf c 2) a .byte [v] p
def State.stores16 (s : State) (c : Core) (a v : Half) (p : Put) : Prop :=
  a.getLsbD 0 = false ∧ s.puts c (s.accessOf c 2) a .half [lowByte v, highByte v] p

/-- The bytes from `a` upwards, one by one, as the data stack and its instructions read and write them (R207). -/
def State.loadsEach (s : State) (c : Core) : Nat → List Byte → Prop
  | _, [] => True
  | a, v :: t => s.loads8 c (BitVec.ofNat 16 a) v ∧ s.loadsEach c (a + 1) t
def State.storesEach (s : State) (c : Core) : Nat → List Byte → List Put → Prop
  | _, [], [] => True
  | a, v :: t, p :: ps => s.stores8 c (BitVec.ofNat 16 a) v p ∧ s.storesEach c (a + 1) t ps
  | _, _, _ => False

/-- Items of these sizes at DP, top first, with their values (R207). -/
def State.loadsItems (s : State) (c : Core) : Nat → List Nat → List Nat → Prop
  | _, [], l => l = []
  | dp, n :: t, l => ∃ v rest, l = v :: rest ∧ v < 256 ^ n ∧ s.loadsEach c dp (leBytes n v) ∧ s.loadsItems c (dp + n) t rest

/-- Items of these sizes and values pushed in order below DP (R207). -/
def State.storesItems (s : State) (c : Core) : Nat → List (Nat × Nat) → List Put → Prop
  | _, [], ps => ps = []
  | dp, (n, v) :: t, ps => ∃ q rest, ps = q ++ rest ∧ s.storesEach c (dp - n) (leBytes n v) q ∧ s.storesItems c (dp - n) t rest

/-- An operand of a decimal or string instruction passes the checks of R274: it ends at or before FFFFh and no byte of it lies in a
side-effect block or region. -/
def State.fieldFree (s : State) (c : Core) (a : Half) (n : Nat) : Prop :=
  a.toNat + n ≤ 65536 ∧ seByte s c (s.core c).cur { a, n, kind := 0 } = none

/-- The bytes of an operand, each of its pieces loaded in one access through the 64-bit port (R267, R275). -/
def State.loadsPieces (s : State) (c : Core) (acc : Access) : List (Nat × Nat) → List Byte → Prop
  | [], l => l = []
  | (a, n) :: t, l => ∃ x rest, l = x ++ rest ∧ s.loads c acc (BitVec.ofNat 16 a) n x ∧ s.loadsPieces c acc t rest
def State.loadsField (s : State) (c : Core) (acc : Access) (a : Half) (n : Nat) (l : List Byte) : Prop :=
  s.fieldFree c a n ∧ s.loadsPieces c acc (pieces a.toNat (n + 1) n) l

/-- An operand stored piece by piece. -/
def State.storesPieces (s : State) (c : Core) (acc : Access) : List (Nat × Nat) → List Byte → List Put → Prop
  | [], _, ps => ps = []
  | (a, n) :: t, l, ps => ∃ p rest, ps = p :: rest ∧ p.se = false ∧ s.puts c acc (BitVec.ofNat 16 a) .word (l.take n) p ∧
      s.storesPieces c acc t (l.drop n) rest
def State.storesField (s : State) (c : Core) (acc : Access) (a : Half) (l : List Byte) (ps : List Put) : Prop :=
  s.fieldFree c a l.length ∧ s.storesPieces c acc (pieces a.toNat (l.length + 1) l.length) l ps

/-- The physical addresses of the bytes of an operand. -/
def State.fieldAt (s : State) (c : Core) (acc : Access) (a : Half) (n : Nat) : List Nat :=
  (pieces a.toNat (n + 1) n).flatMap fun p =>
    match s.pinned c (BitVec.ofNat 16 p.1) acc with
    | some (_, pa) => (List.range p.2).map (pa + ·)
    | none => []

/-- The store buffer of core `c` after the stores `ps`, oldest first (R316, R317). -/
def State.bufAfter (s : State) (c : Core) (ps : List Put) : List StoreEntry :=
  (ps.flatMap fun p => p.entries (s.core c).cur ((s.regsOf c).ctx.getLsbD 15)).foldl bufTake (s.core c).buf

/-! ### What an instruction may change -/

/-- Whether an address is that of a storage-key register: fetches and accesses set ACC and MOD there (R370). -/
def isKeyReg (a : Nat) : Bool := decide (Reg.xltKey 0 ≤ a ∧ a < Reg.xltKey 1280)

/-- From `s` to `t` nothing changes but the running context of core `c`, its store buffer (which becomes `buf`) and the ACC and MOD
bits of storage keys: every other register of the device, memory, every other context and core and every other block stand. -/
structure OnlyContext (s t : State) (c : Core) (buf : List StoreEntry) : Prop where
  rest : t = { s with cores := t.cores, regs := t.regs }
  regs : ∀ a, isKeyReg a = false → t.reg a = s.reg a
  others : ∀ d, d ≠ c → t.core d = s.core d
  core : t.core c = { s.core c with ctxs := (t.core c).ctxs, buf := buf, head := none, taking := none }
  ctxs : ∀ k, k ≠ (s.core c).cur → t.ctx c k = s.ctx c k

/-- The instruction `i` of core `c` completes: the running context has the registers `r` (CTX.FS telling the form of the code at the new
PC, R204) and the shadow `sh`, its return stack is `stack`, and nothing else changes but the store buffer. -/
def Completes (i : Instr) (s : State) (c : Core) (r : CtxRegs) (sh : Option Shadow) (stack : List RsEntry)
    (buf : List StoreEntry) : Prop :=
  ∃ t, exec i s = .next t ∧ OnlyContext s t c buf ∧
    t.runs c = { s.runs c with regs := r.withFs (s.sForm c (s.core c).cur r.pc), shadow := sh, stack := stack }

/-- An instruction that stores nothing, leaves no shadow and does not touch the return stack completes with the registers `r`. -/
def Gives (i : Instr) (s : State) (c : Core) (r : CtxRegs) : Prop := Completes i s c r none (s.runs c).stack (s.core c).buf

/-- DSLO and DSHI of the running context (R207). -/
def State.dslo (s : State) (c : Core) : Nat := field (effReg s c (Reg.kdsl c.val (s.core c).cur.val)) 0 16
def State.dshi (s : State) (c : Core) : Nat := field (effReg s c (Reg.kdsl c.val (s.core c).cur.val)) 16 16

/-- The registers with PC past an instruction of `n` bytes. -/
def State.after (s : State) (c : Core) (n : Nat) : CtxRegs := { s.regsOf c with pc := (s.regsOf c).pc + BitVec.ofNat 16 n }

/-- Whether the running context is in supervisor state (R196, R217). -/
def State.supervisor (s : State) (c : Core) : Bool := (s.regsOf c).ctx.getLsbD 15

/-- The bytes of a privileged opcode: a byte of page F8h and its second byte, or one S-form cell (R252, R256). -/
def systemLen (f : Form) : Nat := match f with | .A => 2 | .S => 1

/-- The return-stack entry that a call of `n` bytes pushes (R209). -/
def State.callEntry (s : State) (c : Core) (f : Form) (n : Nat) : RsEntry :=
  { pc := (s.after c n).pc, ctx := ((s.regsOf c).withFs (decide (f = .S))).ctx, t := false }

/-- The CALL limit leaves room for one more entry (R210, R226). -/
def State.callFits (s : State) (c : Core) : Prop := (s.runs c).stack.length < field (s.reg (Reg.xrslim c.val)) 0 6

/-- Nothing waits for a SYNC of the core (R222), nor for its next boundary (R338, R361). -/
def State.settled (s : State) (c : Core) : Prop :=
  (s.core c).oldRegs = [] ∧ (s.core c).oldKeys = [] ∧ (s.core c).pendInv = 0 ∧ (s.core c).lateRegs = [] ∧ (s.core c).lateInv = 0

/-- What SPILL and FILL of core `c` leave from `s` to `t` (R213, R254): the rest of the device, the other cores and contexts and every register but RSN
and the storage keys stand; of the core itself only the data-cache bytes that a spill writes and what waits for the RTI of a moved entry change, and
of the context PC and the return stack. -/
structure Spilled (s t : State) (c : Core) (f : Form) : Prop where
  rest : t = { s with cores := t.cores, regs := t.regs, mem := t.mem }
  regs : ∀ a, isKeyReg a = false → a ≠ Reg.krsn c.val (s.core c).cur.val → t.reg a = s.reg a
  others : ∀ d, d ≠ c → t.core d = s.core d
  core : t.core c = { s.core c with
    ctxs := (t.core c).ctxs, dcache := (t.core c).dcache, kept := (t.core c).kept, head := none, taking := none }
  ctxs : ∀ k, k ≠ (s.core c).cur → t.ctx c k = s.ctx c k
  runs : t.runs c = { s.runs c with
    stack := (t.runs c).stack, shadow := none
    regs := (s.after c (systemLen f + 1)).withFs (t.sForm c (s.core c).cur (s.after c (systemLen f + 1)).pc) }

/-- The S-form instruction `i` of `n` bytes, which pops items of the sizes `ins`, pushes the values `f` makes of them as items of the
sizes `outs` and changes registers by `g`, completes when DP stays within DSLO and DSHI, the items are loaded and the results stored
without an exception, and the store buffer has room (R207, R256). -/
def Stacks (i : Instr) (s : State) (c : Core) (n : Nat) (ins outs : List Nat) (f : List Nat → List Nat)
    (g : List Nat → CtxRegs → CtxRegs) : Prop :=
  Ready s c .S n → ∀ l ps, let dp := (s.regsOf c).dp.toNat
    dp + ins.sum ≤ s.dshi c → s.dslo c + outs.sum ≤ dp + ins.sum → s.loadsItems c dp ins l →
    s.storesItems c (dp + ins.sum) (outs.zip (f l)) ps → (s.bufAfter c ps).length ≤ 4 →
    Completes i s c (g l { s.after c n with dp := BitVec.ofNat 16 (dp + ins.sum - outs.sum) }) none (s.runs c).stack (s.bufAfter c ps)

/-! ### Traps -/

/-- The vector of an exception code for context `k` of core `c` is usable: its four bytes lie in a pinned block with R and no SE, are read
without an error, and hold the handler `h` and the flags word, whose bits 0 to 8 are 0 (R374, R394, R396). -/
def State.vector (s : State) (c : Core) (k : Ctx) (ec : Nat) (h flags : Half) : Prop :=
  let a := (field (effReg s c (Reg.lccVbase c.val)) 9 7 * 512 + ec * 4) % 65536
  flags &&& 0x01FF = 0 ∧ ∃ b, findPbr s c k a = some b ∧ flagR b.flags = true ∧ flagSE b.flags = false ∧
    let pa := b.phys a
    seRegion pa = false ∧ coreReadBad s pa = none ∧ s.softAt pa = false ∧ (∀ i, i < 4 → s.eccBad (pa + i) = false) ∧
    (List.range 4).map (fun i => coreByte s c k (pa + i)) = [lowByte h, highByte h, lowByte flags, highByte flags]

/-- A trap is entered in context `k` of core `c`, which runs then (R209, R395): the resume point is pushed with T = 1, PC and CTX are the
handler's, and nothing else changes but what `regs` says of the registers. -/
structure Enters (s t : State) (c : Core) (h flags pc ctx : Half) : Prop where
  rest : t = { s with cores := t.cores, regs := t.regs }
  others : ∀ d, d ≠ c → t.core d = s.core d
  core : t.core c = { s.core c with ctxs := (t.core c).ctxs, held := none, head := none, taking := (t.core c).taking }
  ctxs : ∀ k, k ≠ (s.core c).cur → t.ctx c k = s.ctx c k
  regsOf : t.regsOf c = { s.regsOf c with pc := h, ctx := handlerCtx flags (s.sForm c (s.core c).cur h) }
  stack : (t.runs c).stack = { pc, ctx, t := true } :: (s.runs c).stack
  shadow : (t.runs c).shadow = none
  state : (t.runs c).state = (s.runs c).state ∧ (t.runs c).wdtLeft = (s.runs c).wdtLeft

/-- FAULTINFO of context `k` after an exception with these fields, the others 0 (R390, Table 11.1): EC, LEN with the opcode bytes, LA, the
number and the context of a failed entry. -/
def State.faultInfo (t : State) (c : Core) (k : Ctx) (ec : Nat) (l : List Byte) (la : Half) (num fctx : Nat) : Prop :=
  let a := Reg.irqFi c.val k.val
  t.reg (a 0) = BitVec.ofNat 32 (ec + l.length * 2 ^ 8 + la.toNat * 2 ^ 16) ∧ t.reg (a 1) = BitVec.ofNat 32 (leNat (l.take 4)) ∧
    t.reg (a 2) = BitVec.ofNat 32 (leNat (l.drop 4)) ∧ t.reg (a 3) = 0 ∧ t.reg (a 4) = BitVec.ofNat 32 (num * 2 ^ 16 + fctx * 2 ^ 24)

/-- Whether an address is a FAULTINFO word of a context (R390). -/
def isFaultReg (c : Core) (k : Ctx) (a : Nat) : Bool := (List.range 5).any fun j => decide (a = Reg.irqFi c.val k.val j)

/-- The instruction `i` takes the trap of exception `ec` with its resume point (R395): FAULTINFO takes PC, the number and the bytes. -/
def Traps (i : Instr) (s : State) (c : Core) (ec num : Nat) (l : List Byte) (pc ctx : Half) : Prop :=
  ∀ h flags, s.vector c (s.core c).cur ec h flags → (s.runs c).stack.length < 32 → s.settled c →
    ∃ t, exec i s = .next t ∧ Enters s t c h flags pc ctx ∧ t.faultInfo c (s.core c).cur ec l (s.regsOf c).pc num 0 ∧
      ∀ a, isKeyReg a = false → isFaultReg c (s.core c).cur a = false → t.reg a = s.reg a

/-! ### Commits -/

/-- A commit of `v` that register `a` takes: its block answers (R50), the master may write it (Table 2.2), `v` is 0 in its reserved bits
(R43), it has no TO or SO bits, and an expert register has EXP set in its unit window (R29); test access has debug on (Table 2.2). -/
def State.takes (s : State) (m : Master) (a : Nat) (v : Word) : Prop :=
  mayWrite m a = true ∧ s.testShut m = false ∧ s.answers m a = true ∧
    ∃ i, regInfo a = some i ∧ v &&& i.reserved = 0 ∧ i.tso = 0 ∧ (i.expert = true → bit (s.reg (ctrlOf a)) 31 = true)

/-- The plain effect of a commit (R37): RW bits take the value, W1C bits with a 1 are cleared, nothing else changes. -/
def State.stored (s : State) (a : Nat) (v : Word) : State :=
  match regInfo a with
  | some i => s.storeReg a v i
  | none => s

/-! ### The health log -/

/-- What health-log records leave of the NVLA's own state from `n` to `m`: its wear, a block to be copied and the marks of the words written
may change (R441, R584). -/
def NvlaSt.Logged (n m : NvlaSt) : Prop := m = { n with wear := m.wear, remapping := m.remapping, soft := m.soft, hard := m.hard }

/-! ### The mailbox -/

/-- Tarn serves a command of this code at once: it runs no RELOAD, the slot is not BUSY, the part is in Surface with no entry under way, and the
reserved bits of CMD are 0 (R52, R83, R86, R650). -/
structure State.serves (s : State) (slot : Slot) (cmd : Word) (code : Nat) : Prop where
  on : s.tarnOn = true
  idle : s.tarn.reload = none
  free : bit (s.reg (Reg.tmbRsp slot.val)) 31 = false
  surface : s.power.entry = 0
  reserved : cmd &&& 0xFF00F800 = 0
  code : field cmd 0 8 = code

/-- RSP of a slot answers a command: DONE with its TAG and the result, and RDATA holds the data of the answer (R83, Table 3.6). -/
def State.answered (t : State) (slot : Slot) (cmd : Word) (r : TmbResult) (data : List Word) : Prop :=
  t.reg (Reg.tmbRsp slot.val) = BitVec.ofNat 32 (2 ^ 30 + field cmd 16 8 * 65536 + tmbCode r) ∧
    ∀ i w, data[i]? = some w → t.reg (Reg.tmbRdata slot.val i) = w

/-- The channel that CMD names (Table 3.6). -/
def chanOf (cmd : Word) : Chan := Fin.ofNat 8 (field cmd 8 3)

/-! ### Channel engines -/

/-- A microword `w` of engine `n` has completed from `s` to `t` (R110, R111, R113, R119): all its fields read the engine as it stood and take
effect together, TICK has moved on by one, and no other engine, Tarn or core has changed. -/
structure WordDone (s t : State) (n : Chan) (w : MWord) : Prop where
  g : ∀ i : Fin 48, (t.eng n).g[i] =
    if w.dst = i.val ∧ w.writesAlu = true then
      mshift w.shift (alu w.alu (s.mreg n w.srcA) (s.mreg n w.srcB) w.const (s.eng n).latch.c w.sat (s.eng n).acc).res (s.mreg n w.srcB)
    else (s.eng n).g[i]
  acc : (t.eng n).acc = if w.clrAcc then 0 else
    match (alu w.alu (s.mreg n w.srcA) (s.mreg n w.srcB) w.const (s.eng n).latch.c w.sat (s.eng n).acc).acc with
    | some x => x.1
    | none => (s.eng n).acc
  latch : w.upd = false → (t.eng n).latch = (s.eng n).latch
  uf : (t.eng n).uf = setUf (s.eng n).uf w
  upc : (t.eng n).upc =
    match w.seq with
    | 1 => w.next
    | 2 => if s.condHolds n w.cond then w.next else (s.eng n).upc + 1
    | 3 => w.next
    | 4 => (s.eng n).stack.headD 0
    | 5 => if (s.eng n).loop ≠ 0 then w.next else (s.eng n).upc + 1
    | 6 => (w.next &&& 0x7F0) ||| ((s.mreg n w.srcA).setWidth 11 &&& 0xF)
    | _ => (s.eng n).upc + 1
  stack : (t.eng n).stack =
    match w.seq with
    | 3 => ((s.eng n).upc + 1) :: (s.eng n).stack
    | 4 => (s.eng n).stack.drop 1
    | _ => (s.eng n).stack
  wq : (t.eng n).wq = if w.mem = 4 then (s.eng n).wq ++ [(s.mreg n w.srcA + w.const, s.mreg n w.srcB)] else (s.eng n).wq
  incs : (t.eng n).incs = if w.ioop = 2 ∧ field (s.mreg n w.srcB) 0 4 ≠ 0 then
      (s.eng n).incs ++ [{ rev := bit (s.mreg n w.srcB) 4, count := (s.mreg n w.srcB).setWidth 4 }]
    else (s.eng n).incs
  tick : (t.eng n).tick = (s.eng n).tick + 1
  runs : (t.eng n).runst = .run ∧ (t.eng n).heldWord = none
  others : ∀ j, j ≠ n → t.eng j = s.eng j
  rest : t.tarn = s.tarn ∧ t.cores = s.cores ∧ t.nvla = s.nvla

/-- Engine `n` runs outside a handler with no micro-trap pending or armed (R118, R122). -/
structure EngineReady (s : State) (n : Chan) : Prop where
  clocked : s.engineClocked = true
  handler : (s.eng n).inHandler = false
  post : (s.eng n).postMortem = false
  pending : (s.eng n).pending = 0
  armed : (s.eng n).armed = false

/-- A word that can complete: legal, with room, without a bus read, a converter request or a trap control, and no ACC overflow trap. -/
def wordPlain (s : State) (n : Chan) (w : MWord) : Prop :=
  (s.eng n).illegal w = false ∧ w.mem ≠ 3 ∧ s.wantsRoom n w = false ∧ w.ioop ≠ 1 ∧ w.ioop ≠ 4 ∧ w.trap = 0 ∧
    ∀ x, (alu w.alu (s.mreg n w.srcA) (s.mreg n w.srcB) w.const (s.eng n).latch.c w.sat (s.eng n).acc).acc = some (x, true) → w.sat = true

/-! ### Links -/

/-- A frame received in Flow passes the checks that come before what its type does (R466, R469, R475, R477, Table 13.6): its length is that of
its payload, the fields that its type leaves at 0 are 0, HLD, HOLD, GO and CREDIT fit the agreed mode, and its ACK is one of the
unacknowledged sequence numbers or the last one acknowledged. -/
structure FrameTaken (s : State) (p : Port) (f : Frame) : Prop where
  flow : (s.port p).state = .flow
  length : f.payload.length = f.len.toNat
  plain : f.type ≠ typeData → f.type ≠ typeBcast → f.dst = 0 ∧ f.src = 0 ∧ (f.type ≠ typeCredit → f.tc = 0 ∧ f.seq = 0)
  hld : f.hld = true → (s.port p).hgMode = true
  holds : f.type = typeHold ∨ f.type = typeGo → (s.port p).hgMode = true
  credits : f.type = typeCredit → (s.port p).hgMode = false
  ack : (f.ack - (s.port p).acked).toNat ≤ (s.port p).replay.length

/-- A TRAIN payload received under a header passes the checks of its subtype (R459, R461, R465). -/
structure TrainTaken (s : State) (p : Port) (sub : Nat) (h : BitVec 64) (t : TrainPayload) : Prop where
  type : (frameOfHeader h t.toList).type = typeTrain
  header : fieldFlaw (frameOfHeader h t.toList) (decide ((frameOfHeader h t.toList).len = 32)) = none
  payload : trainFlaws s.nodeId sub (s.port p) t = []

/-- A frame as it goes on the lane of a port: with the port's ACK and HLD, as symbols (R464, R465). -/
def PortSt.carries (x : PortSt) (f : Frame) (y : PortSt) : Prop :=
  y.lane = some { f with ack := x.exp - 1, hld := x.hgMode && x.holding } ∧
    y.wire = (x.transmit (frameSyms { f with ack := x.exp - 1, hld := x.hgMode && x.holding })).wire

/-- What the ACK and HLD of such a frame leave in the port (R469, R475): the acknowledged frames are freed, also from a running replay, and
a frame that is no HOLD or GO says whether the partner holds this port. -/
def PortSt.ackTaken (x : PortSt) (f : Frame) : PortSt :=
  let k := (f.ack - x.acked).toNat
  { x with
    acked := f.ack, replay := x.replay.drop k,
    replayAt := x.replayAt.bind fun i => if x.replay.length ≤ k then none else some (i - k),
    held := if x.hgMode ∧ f.type ≠ typeHold ∧ f.type ≠ typeGo then f.hld else x.held }

/-- An ACK, NAK, HOLD, GO or IDLE frame as it waits to be sent, and the CREDIT frame of a class (Table 13.5). -/
def ctlFrame (type : Nibble) : Frame := plainFrame type 0 0 []
def creditFor (x : PortSt) (c : Fin 4) : Frame := plainFrame typeCredit (BitVec.ofNat 2 c.val) x.granted[c] []

/-! ### Narga -/

/-- A line that Narga executes (R541, R544, R545): it reaches Narga, repeats no line, has no flaw, no command that Tarn has still to answer keeps it
waiting, its session runs no command, no update is under way, and for an expert verb its session is at expert level (R552, R558). -/
structure LineRuns (s : State) (l : NLine) (expert : Bool) : Prop where
  reaches : s.lineReaches l = true
  fresh : s.repeats l = false
  flaw : l.flaw = none
  idle : (s.narga.sess[l.sess]).busy = false
  next : s.nargaWorks = false ∧ s.narga.waiting = []
  lock : s.narga.updateLock = false
  level : expert = true → (s.narga.sess[l.sess]).expert = true

/-- The lines of a response: the data lines, then the final status line (R537, R540). -/
def responseLines (l : NLine) (data : List String) (final : String) : List String :=
  (data.map fun d => responseLine l.tag ("= " ++ d)) ++ [responseLine l.tag final]

/-- A line has been answered from `s` to `t` (R537, R541, R549): a typed one with the response and the prompt, a machine one with the response, which its session stores and a tunnel session sends as far as 244 bytes hold it. -/
def Answered (s t : State) (l : NLine) (data : List String) (final : String) : Prop :=
  let lines := responseLines l data final
  (l.tag = none → l.sess = 0 → t.narga.sent = s.narga.sent ++ (lines.map fun x => (0, x)) ++ [(0, t.prompt 0)]) ∧
  (l.tag.isSome = true → (t.narga.sess[l.sess]).stored = lines ∧
    (l.sess = 0 → t.narga.sent = s.narga.sent ++ lines.map fun x => (0, x)) ∧
    (l.sess ≠ 0 → (t.narga.sess[l.sess]).remaining = lines.drop (linesThatFit 244 lines) ∧
      t.narga.sent = s.narga.sent ++ (lines.take (linesThatFit 244 lines)).map fun x => (l.sess, x)))

/-- Whether an address is that of the Wellhead slot's answer registers, which a tunnel answer fills (R549). -/
def isTunnelReg (a : Nat) : Bool := decide (a = Reg.txnWArg) || (List.range 64).any fun j => decide (a = Reg.txnWAbuf j)

/-- Only Narga's own state and the answer registers change from `s` to `t`. -/
def OnlyNarga (s t : State) : Prop :=
  t = { s with narga := t.narga, regs := t.regs } ∧ ∀ a, isTunnelReg a = false → t.reg a = s.reg a

end Sys2Proof.Machine
end

