-- ==== Sys2Proof/Certificates/Slice0/Obligations.lean ====
section
/-! DEFINITION. The statements about the machine, for the provers. -/

open Sys2Proof Sys2Proof.Machine


/-! ### Ledger cores: A-form (spec/06, spec/07) -/

/-- The register instructions of Table 7.4 (R246, R247): with the registers `v` that the load shadow shows (R215), each leaves the new
registers of its row and PC past its one byte, and nothing else changes. NOP of both forms changes PC only. -/
def Obligations.RegisterInstructions : Prop :=
  (∀ s c, Ready s c .A 1 → let v := s.seenA c; let r := s.after c 1
    Gives (.trxa c) s c { r with x := v.a.setWidth 16 } ∧ Gives (.trya c) s c { r with y := v.a.setWidth 16 } ∧
    Gives (.trax c) s c { r with a := lowByte v.x } ∧ Gives (.tray c) s c { r with a := lowByte v.y } ∧
    Gives (.tryx c) s c { r with y := v.x } ∧ Gives (.trxy c) s c { r with x := v.y } ∧
    Gives (.inca c) s c { r with a := v.a + 1 } ∧ Gives (.deca c) s c { r with a := v.a - 1 } ∧
    Gives (.incx c) s c { r with x := v.x + 1 } ∧ Gives (.decx c) s c { r with x := v.x - 1 } ∧
    Gives (.incy c) s c { r with y := v.y + 1 } ∧ Gives (.decy c) s c { r with y := v.y - 1 } ∧
    Gives (.zera c) s c { r with a := 0 } ∧ Gives (.nega c) s c { r with a := -v.a } ∧ Gives (.nota c) s c { r with a := ~~~v.a } ∧
    Gives (.shla c) s c ({ r with a := v.a * 2 }.withCd (v.a.toNat / 128)) ∧
    Gives (.shra c) s c ({ r with a := v.a / 2 }.withCd (v.a.toNat % 2)) ∧
    Gives (.asra c) s c ({ r with a := BitVec.ofInt 8 (v.a.toInt / 2) }.withCd (v.a.toNat % 2)) ∧
    Gives (.rola c) s c ({ r with a := v.a * 2 + carryIn v.cd }.withCd (v.a.toNat / 128)) ∧
    Gives (.rora c) s c ({ r with a := v.a / 2 + carryIn v.cd * 128 }.withCd (v.a.toNat % 2)) ∧
    Gives (.clcd c) s c (r.withCd 0) ∧ Gives (.swna c) s c { r with a := v.a * 16 + v.a / 16 } ∧
    Gives (.txl c) s c { r with l := v.x } ∧ Gives (.tlx c) s c { r with x := v.l } ∧ Gives (.tdx c) s c { r with x := v.dp } ∧
    Gives (.txd c) s c { r with dp := v.x } ∧ Gives (.sxa c) s c { r with x := v.a.signExtend 16 } ∧
    Gives (.adxa c) s c { r with x := v.x + v.a.setWidth 16 } ∧ Gives (.adya c) s c { r with y := v.y + v.a.setWidth 16 } ∧
    Gives (.mul c) s c { r with x := BitVec.ofNat 16 (v.a.toNat * (v.x.toNat % 256)) } ∧
    (v.a ≠ 0 → Gives (.div c) s c { r with x := BitVec.ofNat 16 (v.x.toNat / v.a.toNat), a := BitVec.ofNat 8 (v.x.toNat % v.a.toNat) }) ∧
    (v.a = 0 → Gives (.div c) s c { r with x := 0xFFFF, a := 0 })) ∧
  (∀ s c f, Ready s c f 1 → Gives (.nop c f) s c (s.after c 1))

/-- LDA, ADD, ADDC, SUB, SUBB, AND, OR and XOR of Table 7.3, and MINU and MAXU of page F0h (R244, R245, R249), in every mode: A, and
CD where the rule names it, take the value the row gives from A, CD and the operand `m` (the immediate, or the byte at the effective
address), and nothing else changes; LDA leaves a load shadow with the old A (R215). -/
def Obligations.ByteLoadsAndArithmetic : Prop :=
  ∀ s c (o : Operand8) (m : Byte), o.opd.bad false = false → s.value8 c o.opd m →
    let v := s.seenA c
    (Ready s c .A (1 + o.opd.bytes.length) → let r := s.after c (1 + o.opd.bytes.length)
      Completes (.lda c o) s c { r with a := m } (some (.a (s.regsOf c).a)) (s.runs c).stack (s.core c).buf ∧
      Gives (.add c o) s c { r with a := v.a + m } ∧ Gives (.sub c o) s c { r with a := v.a - m } ∧
      Gives (.addc c o) s c ({ r with a := BitVec.ofNat 8 (v.a.toNat + m.toNat + v.cd) }.withCd ((v.a.toNat + m.toNat + v.cd) / 256)) ∧
      (let t : Int := (v.a.toNat : Int) - m.toNat - v.cd
       Gives (.subb c o) s c ({ r with a := BitVec.ofInt 8 t }.withCd (if 0 ≤ t then 0 else if -256 ≤ t then 1 else 2))) ∧
      Gives (.and c o) s c { r with a := v.a &&& m } ∧ Gives (.or c o) s c { r with a := v.a ||| m } ∧
      Gives (.xor c o) s c { r with a := v.a ^^^ m }) ∧
    (Ready s c .A (2 + o.opd.bytes.length) → let r := s.after c (2 + o.opd.bytes.length)
      Gives (.minu c o) s c { r with a := BitVec.ofNat 8 (min v.a.toNat m.toNat) } ∧
      Gives (.maxu c o) s c { r with a := BitVec.ofNat 8 (max v.a.toNat m.toNat) })

/-- The 16-bit loads and sums (R240, R244, R250): LDX and LDY of the primary map and of page F1h, which leave a load shadow with the old
value (R215), and LDL, ADDX, SUBX, ADDY, SUBY, LDDP and ADDDP, in every mode, modulo 2^16; LDDP and ADDDP check no limit of the data
stack (R248). -/
def Obligations.WordLoadsAndArithmetic : Prop :=
  (∀ s c (o : Operand8) (m : Half), o.opd.bad false = false → s.value16 c o.opd m → Ready s c .A (1 + o.opd.bytes.length) →
    let r := s.after c (1 + o.opd.bytes.length)
    Completes (.ldx c (.primary o)) s c { r with x := m } (some (.x (s.regsOf c).x)) (s.runs c).stack (s.core c).buf ∧
    Completes (.ldy c (.primary o)) s c { r with y := m } (some (.y (s.regsOf c).y)) (s.runs c).stack (s.core c).buf) ∧
  (∀ s c (o : Operand16) (m : Half), o.opd.bad false = false → s.value16 c o.opd m → Ready s c .A (2 + o.opd.bytes.length) →
    let v := s.seenA c; let r := s.after c (2 + o.opd.bytes.length)
    Completes (.ldx c (.page o)) s c { r with x := m } (some (.x (s.regsOf c).x)) (s.runs c).stack (s.core c).buf ∧
    Completes (.ldy c (.page o)) s c { r with y := m } (some (.y (s.regsOf c).y)) (s.runs c).stack (s.core c).buf ∧
    Gives (.ldl c o) s c { r with l := m } ∧ Gives (.addx c o) s c { r with x := v.x + m } ∧ Gives (.subx c o) s c { r with x := v.x - m } ∧
    Gives (.addy c o) s c { r with y := v.y + m } ∧ Gives (.suby c o) s c { r with y := v.y - m } ∧ Gives (.lddp c o) s c { r with dp := m } ∧
    Gives (.adddp c o) s c { r with dp := v.dp + m })

/-- The stores of a register (R237, R244, R250), CLRM and the instructions that change a byte of memory in place (R249, Table 7.4): the store enters the
store buffer, at the effective address that the mode gives, with the value of the row, CD where the row names it, and nothing else changes but PC;
memory itself changes when the buffer drains (R316). -/
def Obligations.MemoryStores : Prop :=
  (∀ s c (o : Operand8) a p, o.opd.bad true = false → o.opd.ea (s.seenA c) = some a → Ready s c .A (1 + o.opd.bytes.length) →
    (s.bufAfter c [p]).length ≤ 4 →
    let v := s.seenA c; let r := s.after c (1 + o.opd.bytes.length)
    (s.stores8 c a v.a p → Completes (.sta c o) s c r none (s.runs c).stack (s.bufAfter c [p])) ∧
    (s.stores16 c a v.x p → Completes (.stx c o) s c r none (s.runs c).stack (s.bufAfter c [p])) ∧
    (s.stores16 c a v.y p → Completes (.sty c o) s c r none (s.runs c).stack (s.bufAfter c [p]))) ∧
  (∀ s c (o : Operand16) a p, o.opd.bad true = false → o.opd.ea (s.seenA c) = some a → Ready s c .A (2 + o.opd.bytes.length) →
    (s.bufAfter c [p]).length ≤ 4 →
    let v := s.seenA c; let r := s.after c (2 + o.opd.bytes.length)
    (s.stores16 c a v.l p → Completes (.stl c o) s c r none (s.runs c).stack (s.bufAfter c [p])) ∧
    (s.stores16 c a v.dp p → Completes (.stdp c o) s c r none (s.runs c).stack (s.bufAfter c [p]))) ∧
  (∀ s c (o : OperandAD) a p, o.opd.ea (s.seenA c) = some a → Ready s c .A (1 + o.opd.bytes.length) →
    (s.bufAfter c [p]).length ≤ 4 → s.stores8 c a 0 p →
    Completes (.clrm c o) s c (s.after c (1 + o.opd.bytes.length)) none (s.runs c).stack (s.bufAfter c [p])) ∧
  (∀ s c (o : OperandAD) a m p, o.opd.ea (s.seenA c) = some a → s.loads8 c a m → Ready s c .A (1 + o.opd.bytes.length) →
    (s.bufAfter c [p]).length ≤ 4 → let r := s.after c (1 + o.opd.bytes.length)
    (s.stores8 c a (m + 1) p → Completes (.incm c o) s c r none (s.runs c).stack (s.bufAfter c [p])) ∧
    (s.stores8 c a (m - 1) p → Completes (.decm c o) s c r none (s.runs c).stack (s.bufAfter c [p]))) ∧
  (∀ s c (o : Operand8) a m p, o.opd.bad true = false → o.opd.ea (s.seenA c) = some a → s.loads8 c a m →
    Ready s c .A (2 + o.opd.bytes.length) → (s.bufAfter c [p]).length ≤ 4 →
    let v := s.seenA c; let r := s.after c (2 + o.opd.bytes.length)
    (s.stores8 c a (m + v.a) p → Completes (.addm c o) s c r none (s.runs c).stack (s.bufAfter c [p])) ∧
    (s.stores8 c a (BitVec.ofNat 8 (m.toNat + v.a.toNat + v.cd)) p →
      Completes (.addcm c o) s c (r.withCd ((m.toNat + v.a.toNat + v.cd) / 256)) none (s.runs c).stack (s.bufAfter c [p])) ∧
    (let t : Int := (m.toNat : Int) - v.a.toNat - v.cd
     s.stores8 c a (BitVec.ofInt 8 t) p →
      Completes (.subbm c o) s c (r.withCd (if 0 ≤ t then 0 else if -256 ≤ t then 1 else 2)) none (s.runs c).stack (s.bufAfter c [p])) ∧
    (s.stores8 c a (m ||| v.a) p → Completes (.setm c o) s c r none (s.runs c).stack (s.bufAfter c [p])) ∧
    (s.stores8 c a (m &&& ~~~v.a) p → Completes (.clrbm c o) s c r none (s.runs c).stack (s.bufAfter c [p])) ∧
    (s.stores8 c a (m * 2 + carryIn v.cd) p →
      Completes (.rolm c o) s c (r.withCd (m.toNat / 128)) none (s.runs c).stack (s.bufAfter c [p])) ∧
    (s.stores8 c a (m / 2 + carryIn v.cd * 128) p →
      Completes (.rorm c o) s c (r.withCd (m.toNat % 2)) none (s.runs c).stack (s.bufAfter c [p])))

/-- The compare-and-branches and the jumps of A-form (R241, Table 7.4): PC goes on at next + disp when the condition of Table 7.2 holds,
else at next, and nothing else changes; DBNX and DBNY also count their register down and branch while it is not 0. -/
def Obligations.BranchesAndJumps : Prop :=
  (∀ s c (o : Operand8) (bw : Half), o.opd.bad false = false → branchCond bw < 12 → Ready s c .A (3 + o.opd.bytes.length) →
    let v := s.seenA c; let r := s.after c (3 + o.opd.bytes.length)
    let go := fun taken : Bool => if taken then { r with pc := r.pc + branchDisp bw } else r
    (∀ m, s.value8 c o.opd m → Gives (.cba c o bw) s c (go (condHolds (branchCond bw) v.a m))) ∧
    (∀ m, s.value16 c o.opd m → Gives (.cbx c o bw) s c (go (condHolds (branchCond bw) v.x m)) ∧
      Gives (.cby c o bw) s c (go (condHolds (branchCond bw) v.y m)))) ∧
  (∀ s c (o : Operand16) (bw m : Half), o.opd.bad false = false → branchCond bw < 12 → Ready s c .A (4 + o.opd.bytes.length) →
    s.value16 c o.opd m → let r := s.after c (4 + o.opd.bytes.length)
    Gives (.cbl c o bw) s c (if condHolds (branchCond bw) (s.seenA c).l m then { r with pc := r.pc + branchDisp bw } else r)) ∧
  (∀ s c f (d : Half), Ready s c f 3 → let r := s.after c 3
    Gives (.bra c f d) s c { r with pc := r.pc + d } ∧ Gives (.jmp c f d) s c { r with pc := d }) ∧
  (∀ s c (d : Half), Ready s c .A 3 → let v := s.seenA c; let r := s.after c 3
    Gives (.jmpx c d) s c { r with pc := d + v.x } ∧
    Gives (.dbnx c d) s c (if v.x - 1 = 0 then { r with x := 0 } else { r with x := v.x - 1, pc := r.pc + d }) ∧
    Gives (.dbny c d) s c (if v.y - 1 = 0 then { r with y := 0 } else { r with y := v.y - 1, pc := r.pc + d }))

/-- The pushes and pops of registers (R207): within the limits DSLO and DSHI of the context, an item is stored from DP − n, or read from
DP, low byte first, and DP moves by its size; POPA leaves a load shadow with the old A (R215). -/
def Obligations.StackPushesAndPops : Prop :=
  ∀ s c, Ready s c .A 1 → let v := s.seenA c; let r := s.after c 1; let dp := v.dp.toNat
    (∀ ps, (s.bufAfter c ps).length ≤ 4 →
      (s.dslo c + 1 ≤ dp → s.storesEach c (dp - 1) [v.a] ps →
        Completes (.pusha c) s c { r with dp := v.dp - 1 } none (s.runs c).stack (s.bufAfter c ps)) ∧
      (s.dslo c + 2 ≤ dp →
        (s.storesEach c (dp - 2) (leBytes 2 v.x.toNat) ps →
          Completes (.pushx c) s c { r with dp := v.dp - 2 } none (s.runs c).stack (s.bufAfter c ps)) ∧
        (s.storesEach c (dp - 2) (leBytes 2 v.y.toNat) ps →
          Completes (.pushy c) s c { r with dp := v.dp - 2 } none (s.runs c).stack (s.bufAfter c ps)) ∧
        (s.storesEach c (dp - 2) (leBytes 2 v.l.toNat) ps →
          Completes (.pushl c) s c { r with dp := v.dp - 2 } none (s.runs c).stack (s.bufAfter c ps)))) ∧
    (∀ m, dp + 1 ≤ s.dshi c → s.loadsEach c dp [m] →
      Completes (.popa c) s c { r with a := m, dp := v.dp + 1 } (some (.a (s.regsOf c).a)) (s.runs c).stack (s.core c).buf) ∧
    (∀ m : Half, dp + 2 ≤ s.dshi c → s.loadsEach c dp (leBytes 2 m.toNat) →
      Gives (.popx c) s c { r with x := m, dp := v.dp + 2 } ∧ Gives (.popy c) s c { r with y := m, dp := v.dp + 2 } ∧
      Gives (.popl c) s c { r with l := m, dp := v.dp + 2 })


/-! ### Ledger cores: S-form, calls and the system page (spec/06, spec/07) -/

/-- The S-form instructions that move items between the data stack and registers or within the stack (R207, R256, Table 7.8): DROP, SWAP,
ROT (whose direction the part fixes, log 26), DROPW, SWAPW, TOA to FROMY, TOL, FROML, FROMDP (the value DP held before the push) and
TODP; and DUP, OVER, DUPW and OVERW, which push a copy of the first or second item. -/
def Obligations.StackMoves : Prop :=
  (∀ s c, let v := s.regsOf c; let keep := fun (_ : List Nat) (r : CtxRegs) => r
    Stacks (.drop c) s c 1 [1] [] (fun _ => []) keep ∧ Stacks (.dropw c) s c 1 [2] [] (fun _ => []) keep ∧
    Stacks (.swap c) s c 1 [1, 1] [1, 1] (fun l => [l.getD 0 0, l.getD 1 0]) keep ∧
    Stacks (.swapw c) s c 1 [2, 2] [2, 2] (fun l => [l.getD 0 0, l.getD 1 0]) keep ∧
    Stacks (.rot c) s c 1 [1, 1, 1] [1, 1, 1]
      (fun l => if Config.rotUp then [l.getD 1 0, l.getD 0 0, l.getD 2 0] else [l.getD 0 0, l.getD 2 0, l.getD 1 0]) keep ∧
    Stacks (.toa c) s c 1 [1] [] (fun _ => []) (fun l r => { r with a := BitVec.ofNat 8 (l.getD 0 0) }) ∧
    Stacks (.tox c) s c 1 [2] [] (fun _ => []) (fun l r => { r with x := BitVec.ofNat 16 (l.getD 0 0) }) ∧
    Stacks (.toy c) s c 1 [2] [] (fun _ => []) (fun l r => { r with y := BitVec.ofNat 16 (l.getD 0 0) }) ∧
    Stacks (.tol c) s c 1 [2] [] (fun _ => []) (fun l r => { r with l := BitVec.ofNat 16 (l.getD 0 0) }) ∧
    Stacks (.todp c) s c 1 [2] [] (fun _ => []) (fun l r => { r with dp := BitVec.ofNat 16 (l.getD 0 0) }) ∧
    Stacks (.froma c) s c 1 [] [1] (fun _ => [v.a.toNat]) keep ∧ Stacks (.fromx c) s c 1 [] [2] (fun _ => [v.x.toNat]) keep ∧
    Stacks (.fromy c) s c 1 [] [2] (fun _ => [v.y.toNat]) keep ∧ Stacks (.froml c) s c 1 [] [2] (fun _ => [v.l.toNat]) keep ∧
    Stacks (.fromdp c) s c 1 [] [2] (fun _ => [v.dp.toNat]) keep) ∧
  (∀ s c, Ready s c .S 1 → ∀ n off v ps, (off = 0 ∨ off = n) → (n = 1 ∨ n = 2) → v < 256 ^ n → let dp := (s.regsOf c).dp.toNat
    s.dslo c + n ≤ dp → s.loadsEach c (dp + off) (leBytes n v) → s.storesEach c (dp - n) (leBytes n v) ps → (s.bufAfter c ps).length ≤ 4 →
    Completes (if n = 1 then (if off = 0 then .dup c else .over c) else (if off = 0 then .dupw c else .overw c)) s c
      { s.after c 1 with dp := BitVec.ofNat 16 (dp - n) } none (s.runs c).stack (s.bufAfter c ps))

/-- The S-form arithmetic and logic on bytes (R245, R256, Table 7.8): b is the top item and a the one below it; ADDC, SUBB and the shifts
set CD as the A-form ones do; MUL pushes a word, and DIV takes a word a and a byte b, with FFFFh and 00h for b = 0. -/
def Obligations.StackByteArithmetic : Prop :=
  ∀ s c, let cd := (s.regsOf c).cd; let keep := fun (_ : List Nat) (r : CtxRegs) => r
    let a := fun l : List Nat => BitVec.ofNat 8 (l.getD 1 0); let b := fun l : List Nat => (BitVec.ofNat 8 (l.getD 0 0) : Byte)
    Stacks (.sAdd c) s c 1 [1, 1] [1] (fun l => [(a l + b l).toNat]) keep ∧ Stacks (.sSub c) s c 1 [1, 1] [1] (fun l => [(a l - b l).toNat]) keep ∧
    Stacks (.sAnd c) s c 1 [1, 1] [1] (fun l => [(a l &&& b l).toNat]) keep ∧ Stacks (.sOr c) s c 1 [1, 1] [1] (fun l => [(a l ||| b l).toNat]) keep ∧
    Stacks (.sXor c) s c 1 [1, 1] [1] (fun l => [(a l ^^^ b l).toNat]) keep ∧
    Stacks (.sAddc c) s c 1 [1, 1] [1] (fun l => [((a l).toNat + (b l).toNat + cd) % 256])
      (fun l r => r.withCd (((a l).toNat + (b l).toNat + cd) / 256)) ∧
    Stacks (.sSubb c) s c 1 [1, 1] [1] (fun l => [(BitVec.ofInt 8 ((a l).toNat - (b l).toNat - cd : Int)).toNat])
      (fun l r => r.withCd (let t : Int := (a l).toNat - (b l).toNat - cd; if 0 ≤ t then 0 else if -256 ≤ t then 1 else 2)) ∧
    Stacks (.sNot c) s c 1 [1] [1] (fun l => [(~~~b l).toNat]) keep ∧ Stacks (.sNeg c) s c 1 [1] [1] (fun l => [(-b l).toNat]) keep ∧
    Stacks (.sInc c) s c 1 [1] [1] (fun l => [(b l + 1).toNat]) keep ∧ Stacks (.sDec c) s c 1 [1] [1] (fun l => [(b l - 1).toNat]) keep ∧
    Stacks (.sShl c) s c 1 [1] [1] (fun l => [(b l * 2).toNat]) (fun l r => r.withCd ((b l).toNat / 128)) ∧
    Stacks (.sShr c) s c 1 [1] [1] (fun l => [(b l / 2).toNat]) (fun l r => r.withCd ((b l).toNat % 2)) ∧
    Stacks (.sAsr c) s c 1 [1] [1] (fun l => [(BitVec.ofInt 8 ((b l).toInt / 2)).toNat]) (fun l r => r.withCd ((b l).toNat % 2)) ∧
    Stacks (.sMul c) s c 1 [1, 1] [2] (fun l => [(a l).toNat * (b l).toNat]) keep ∧
    Stacks (.sDiv c) s c 1 [1, 2] [2, 1] (fun l => if b l = 0 then [0xFFFF, 0] else [l.getD 1 0 / (b l).toNat, l.getD 1 0 % (b l).toNat]) keep

/-- The S-form instructions on words and the loads and stores through a popped address (R240, R256, Table 7.8): SHLW and SHRW leave CD as
it is; ZXW and SXW extend a byte, LOW drops the high byte; LDW and STW take an even address. -/
def Obligations.StackWords : Prop :=
  (∀ s c, let keep := fun (_ : List Nat) (r : CtxRegs) => r
    let a := fun l : List Nat => BitVec.ofNat 16 (l.getD 1 0); let b := fun l : List Nat => (BitVec.ofNat 16 (l.getD 0 0) : Half)
    Stacks (.addw c) s c 1 [2, 2] [2] (fun l => [(a l + b l).toNat]) keep ∧ Stacks (.subw c) s c 1 [2, 2] [2] (fun l => [(a l - b l).toNat]) keep ∧
    Stacks (.andw c) s c 1 [2, 2] [2] (fun l => [(a l &&& b l).toNat]) keep ∧ Stacks (.orw c) s c 1 [2, 2] [2] (fun l => [(a l ||| b l).toNat]) keep ∧
    Stacks (.xorw c) s c 1 [2, 2] [2] (fun l => [(a l ^^^ b l).toNat]) keep ∧
    Stacks (.notw c) s c 1 [2] [2] (fun l => [(~~~b l).toNat]) keep ∧ Stacks (.negw c) s c 1 [2] [2] (fun l => [(-b l).toNat]) keep ∧
    Stacks (.shlw c) s c 1 [2] [2] (fun l => [(b l * 2).toNat]) keep ∧ Stacks (.shrw c) s c 1 [2] [2] (fun l => [(b l / 2).toNat]) keep ∧
    Stacks (.incw c) s c 1 [2] [2] (fun l => [(b l + 1).toNat]) keep ∧ Stacks (.decw c) s c 1 [2] [2] (fun l => [(b l - 1).toNat]) keep ∧
    Stacks (.zxw c) s c 1 [1] [2] (fun l => [l.getD 0 0]) keep ∧
    Stacks (.sxw c) s c 1 [1] [2] (fun l => [if l.getD 0 0 < 128 then l.getD 0 0 else l.getD 0 0 + 0xFF00]) keep ∧
    Stacks (.low c) s c 1 [2] [1] (fun l => [l.getD 0 0 % 256]) keep) ∧
  (∀ s c, Ready s c .S 1 → ∀ (a : Half) ps, let dp := (s.regsOf c).dp.toNat; let r := s.after c 1
    s.loadsEach c dp (leBytes 2 a.toNat) → (s.bufAfter c ps).length ≤ 4 →
    (∀ v, dp + 2 ≤ s.dshi c → s.dslo c + 1 ≤ dp + 2 → s.loads8 c a v → s.storesEach c (dp + 1) [v] ps →
      Completes (.ld c) s c { r with dp := BitVec.ofNat 16 (dp + 1) } none (s.runs c).stack (s.bufAfter c ps)) ∧
    (∀ v, dp + 2 ≤ s.dshi c → s.dslo c ≤ dp → s.loads16 c a v → s.storesEach c dp (leBytes 2 v.toNat) ps →
      Completes (.ldw c) s c r none (s.runs c).stack (s.bufAfter c ps)) ∧
    (∀ v p, dp + 3 ≤ s.dshi c → s.loadsEach c (dp + 2) [v] → s.stores8 c a v p → ps = [p] →
      Completes (.st c) s c { r with dp := BitVec.ofNat 16 (dp + 3) } none (s.runs c).stack (s.bufAfter c ps)) ∧
    (∀ (v : Half) p, dp + 4 ≤ s.dshi c → s.loadsEach c (dp + 2) (leBytes 2 v.toNat) → s.stores16 c a v p → ps = [p] →
      Completes (.stw c) s c { r with dp := BitVec.ofNat 16 (dp + 4) } none (s.runs c).stack (s.bufAfter c ps)))

/-- The S-form compare-and-branches, which pop b and then a (R241, R256), JMPS, and the literals LITS, LIT8, LIT16 and LITN, which push
op − C0h, i8, i16 and op + 10h (Table 7.8). -/
def Obligations.StackBranchesAndLiterals : Prop :=
  (∀ s c (cc : Nibble) (d : Half) l, cc.toNat < 12 → Ready s c .S 3 → let dp := (s.regsOf c).dp.toNat; let r := s.after c 3
    (dp + 2 ≤ s.dshi c → s.loadsItems c dp [1, 1] l → let r' := { r with dp := BitVec.ofNat 16 (dp + 2) }
      Gives (.cb c cc d) s c (if condHolds cc.toNat (BitVec.ofNat 8 (l.getD 1 0) : Byte) (BitVec.ofNat 8 (l.getD 0 0)) then { r' with pc := r.pc + d } else r')) ∧
    (dp + 4 ≤ s.dshi c → s.loadsItems c dp [2, 2] l → let r' := { r with dp := BitVec.ofNat 16 (dp + 4) }
      Gives (.cbw c cc d) s c (if condHolds cc.toNat (BitVec.ofNat 16 (l.getD 1 0) : Half) (BitVec.ofNat 16 (l.getD 0 0)) then { r' with pc := r.pc + d } else r'))) ∧
  (∀ s c (a : Half), Ready s c .S 1 → let dp := (s.regsOf c).dp.toNat
    dp + 2 ≤ s.dshi c → s.loadsEach c dp (leBytes 2 a.toNat) →
    Gives (.jmps c) s c { s.after c 1 with dp := BitVec.ofNat 16 (dp + 2), pc := a }) ∧
  (∀ s c, let keep := fun (_ : List Nat) (r : CtxRegs) => r
    (∀ v : BitVec 5, Stacks (.lits c v) s c 1 [] [1] (fun _ => [v.toNat]) keep) ∧
    (∀ v : Byte, Stacks (.lit8 c v) s c 2 [] [1] (fun _ => [v.toNat]) keep) ∧
    (∀ v : Half, Stacks (.lit16 c v) s c 3 [] [2] (fun _ => [v.toNat]) keep) ∧
    (∀ v : Fin 14, Stacks (.litn c v) s c 1 [] [1] (fun _ => [0xF2 + v.val]) keep))

/-- Calls and returns (R209, R210, R212, R226): CALL, CALLX and CALLS push the address of the next instruction with CTX as an entry with
T = 0, when the CALL limit leaves room; RET pops an entry with T = 0 and goes on at its PC, with the CTX that RSWR has given the entry (R264);
RTI, in supervisor state, pops one with T = 1 and restores PC and CTX. Nothing else changes. RET finding T = 1, RTI finding T = 0 and either finding the stack empty take EC 10h. -/
def Obligations.CallsAndReturns : Prop :=
  (∀ s c f (a : Half), Ready s c f 3 → s.callFits c →
    Completes (.call c f a) s c { s.after c 3 with pc := a } none (s.callEntry c f 3 :: (s.runs c).stack) (s.core c).buf) ∧
  (∀ s c, Ready s c .A 1 → s.callFits c →
    Completes (.callx c) s c { s.after c 1 with pc := (s.seenA c).x } none (s.callEntry c .A 1 :: (s.runs c).stack) (s.core c).buf) ∧
  (∀ s c (a : Half), Ready s c .S 1 → s.callFits c → let dp := (s.regsOf c).dp.toNat
    dp + 2 ≤ s.dshi c → s.loadsEach c dp (leBytes 2 a.toNat) →
    Completes (.calls c) s c { s.after c 1 with dp := BitVec.ofNat 16 (dp + 2), pc := a } none (s.callEntry c .S 1 :: (s.runs c).stack) (s.core c).buf) ∧
  (∀ s c f e rest, Ready s c f 1 → (s.runs c).stack = e :: rest → e.t = false →
    Completes (.ret c f) s c { s.after c 1 with pc := e.pc, ctx := if e.rewritten then e.ctx else (s.after c 1).ctx } none rest (s.core c).buf) ∧
  (∀ s c f e rest, Ready s c f (systemLen f) → s.supervisor c = true → s.settled c → (s.core c).ec11Back = [] → (s.core c).kept = [] →
    (s.runs c).stack = e :: rest → e.t = true →
    Completes (.rti c f) s c { s.regsOf c with pc := e.pc, ctx := e.ctx } none rest (s.core c).buf) ∧
  (∀ s c f e rest, Ready s c f (systemLen f) → s.supervisor c = true → (s.runs c).stack = e :: rest → e.t = true → let k := (s.core c).cur
    ∃ t, exec (.rti c f) s = .next t ∧ (t.ctx c k).stack = rest ∧ (t.ctx c k).regs.pc = e.pc ∧ (t.ctx c k).regs.ctx &&& 0xFEFF = e.ctx &&& 0xFEFF) ∧
  (∀ s c f, Ready s c f 1 → (∀ e, (s.runs c).stack.head? = some e → e.t = true) →
    Traps (.ret c f) s c 0x10 0 [] (s.regsOf c).pc ((s.regsOf c).withFs (decide (f = .S))).ctx) ∧
  (∀ s c f, Ready s c f (systemLen f) → s.supervisor c = true → (∀ e, (s.runs c).stack.head? = some e → e.t = false) →
    Traps (.rti c f) s c 0x10 0 [] (s.regsOf c).pc ((s.regsOf c).withFs (decide (f = .S))).ctx)

/-- The context word, the newest return-stack entry and the waiting instructions (R196, R200, R222, R255, R262, R264, R371, R372, R406): RCTX, WCTX,
SETIM, CLRIM, RSRD and RSWR; WAIT puts its context in IDLE, WDR restarts its watchdog, SYNC starts to wait at its own address and SYNC_DONE completes
it once no store of its context is in the buffer: fetched code, the line buffer and what LCC_CACHE invalidates are discarded, and the values that
waited for it come into use; KSET puts the key entry of frame Y in the store buffer, and the core keeps the old entry until its SYNC. Each says all
that it changes. -/
def Obligations.ContextWordAndSync : Prop :=
  (∀ s c f, Ready s c f 1 → let r := s.after c 1; let y := (if f = .A then s.seenA c else s.regsOf c).y
    Gives (.rctx c f) s c { r with y := ((s.regsOf c).withFs (decide (f = .S))).ctx } ∧
    ((s.supervisor c = true ∨ y &&& 0xFEF0 = r.ctx &&& 0xFEF0) → field y 0 4 ≤ 9 → Gives (.wctx c f) s c { r with ctx := y })) ∧
  (∀ s c f, Ready s c f (systemLen f) → s.supervisor c = true → let r := s.after c (systemLen f)
    Gives (.setim c f) s c { r with ctx := r.ctx ||| 0x0200 } ∧ Gives (.clrim c f) s c { r with ctx := r.ctx &&& 0xFDFF } ∧
    (∀ e rest, (s.runs c).stack = e :: rest →
      Gives (.rsrd c f) s c { r with x := e.pc, y := (e.ctx &&& 0xFEFF) ||| (if e.t then 0x0100 else 0) } ∧
      (let v := if f = .A then s.seenA c else s.regsOf c
       field v.y 0 4 ≤ 9 →
        Completes (.rswr c f) s c r none ({ pc := v.x, ctx := v.y &&& 0xFEFF, t := e.t, rewritten := true } :: rest) (s.core c).buf))) ∧
  (∀ s c f, Ready s c f 1 → let r := s.after c 1
    ∃ t, exec (.wait c f) s = .next t ∧ OnlyContext s t c (s.core c).buf ∧
      t.runs c = { s.runs c with regs := r.withFs (s.sForm c (s.core c).cur r.pc), shadow := none, state := .idle }) ∧
  (∀ s c f, Ready s c f (systemLen f) → s.supervisor c = true → let r := s.after c (systemLen f)
    ∃ t, exec (.wdr c f) s = .next t ∧ OnlyContext s t c (s.core c).buf ∧
      t.runs c = { s.runs c with regs := r.withFs (s.sForm c (s.core c).cur r.pc), shadow := none, wdtLeft := s.wdtPeriod c, wdtOnce := false }) ∧
  (∀ s c f, Ready s c f 1 → ∃ t, exec (.sync c f) s = .next t ∧ t = { s with cores := t.cores } ∧ (∀ d, d ≠ c → t.core d = s.core d) ∧
    t.core c = { s.core c with
      ctxs := (t.core c).ctxs, held := some { form := f, bytes := [match f with | .A => 0xAA | .S => 0x69] }, taking := none } ∧
    (∀ k, k ≠ (s.core c).cur → t.ctx c k = s.ctx c k) ∧
    t.runs c = { s.runs c with regs := (s.regsOf c).withFs (decide (f = .S)) }) ∧
  (∀ s c f, (s.core c).held = some { form := f, bytes := [match f with | .A => 0xAA | .S => 0x69] } → s.canRun c = true →
    (s.core c).modeCounts = [] → (s.core c).lateRegs = [] → (s.core c).lateInv = 0 →
    (∀ e ∈ (s.core c).buf, e.isOf (s.core c).cur = false) → (s.core c).buf.length ≤ 4 →
    ∃ t, exec (.syncDone c) s = .next t ∧ t = { s with cores := t.cores } ∧ (∀ d, d ≠ c → t.core d = s.core d) ∧
      t.core c = { (s.core c).invalidate (s.core c).pendInv with
        ctxs := (t.core c).ctxs, ilab := (t.core c).ilab, dlab := (t.core c).dlab, l2 := (t.core c).l2,
        held := none, head := none, taking := none, lineBuf := [], oldRegs := [], oldKeys := [], pendInv := 0 } ∧
      (∀ e ∈ (t.core c).ilab, e ∈ (s.core c).ilab) ∧ (∀ e ∈ (t.core c).dlab, e ∈ (s.core c).dlab) ∧ (∀ e ∈ (t.core c).l2, e ∈ (s.core c).l2) ∧
      (∀ k, k ≠ (s.core c).cur → t.ctx c k = s.ctx c k) ∧
      t.runs c = { s.runs c with regs := (s.after c 1).withFs (t.sForm c (s.core c).cur (s.after c 1).pc), shadow := none }) ∧
  (∀ s c f, Ready s c f (systemLen f) → s.supervisor c = true → let v := if f = .A then s.seenA c else s.regsOf c
    v.y.toNat < 5120 → field v.a 2 2 ≠ 3 → s.keyBad.contains v.y.toNat = false → (s.core c).buf.length < 4 → let r := s.after c (systemLen f)
    ∃ t, exec (.kset c f) s = .next t ∧ t = { s with cores := t.cores, regs := t.regs } ∧ (∀ a, isKeyReg a = false → t.reg a = s.reg a) ∧
      (∀ d, d ≠ c → t.core d = s.core d) ∧ (∀ k, k ≠ (s.core c).cur → t.ctx c k = s.ctx c k) ∧
      t.core c = { s.core c with
        ctxs := (t.core c).ctxs, head := none, taking := none, oldKeys := (t.core c).oldKeys
        buf := (s.core c).buf ++ [{ word := 0, mask := 0, data := 0, se := true, ctx := (s.core c).cur, sup := true, key := some (v.y.toNat, v.a) }] } ∧
      (∀ g, (t.core c).oldKeys.find? (fun e => decide (e.1 = g)) =
        ((s.core c).oldKeys.find? fun e => decide (e.1 = g)).or (if g = v.y.toNat then some (g, s.keyEntry g) else none)) ∧
      t.runs c = { s.runs c with regs := r.withFs (s.sForm c (s.core c).cur r.pc), shadow := none })

/-- SPILL n and FILL n in supervisor state (R213, R214, R253, R254): SPILL writes the n oldest entries, oldest first, as four bytes each
from RSB + 4 × RSN, adds n to RSN and takes them from the core; FILL reads the n newest spilled entries back beneath the oldest in the core
and takes n from RSN. `pa` is where the area lies in ledger SRAM, reached through one block, with no byte of it in the store buffer.
It rests also on the model's own choices of log 28. -/
def Obligations.SpillAndFill : Prop :=
  ∀ s c f (n : Byte) pa, let m := n.toNat; let k := (s.core c).cur; let st := (s.runs c).stack
    let base := field (s.reg (Reg.krsb c.val k.val)) 2 14 * 4; let top := field (s.reg (Reg.krsb c.val k.val)) 18 14 * 4
    let rsn := field (s.reg (Reg.krsn c.val k.val)) 0 16
    Ready s c f (systemLen f + 1) → s.supervisor c = true → s.settled c → 0 < m → m ≤ 32 → (s.core c).ec11Back = [] → pa % 4 = 0 →
    (∀ i, i < 4 * m → region (pa + i) = .sram ∧ bufByte (s.core c).buf (pa + i) = none) →
    (base + 4 * rsn + 4 * m ≤ top → top ≤ 65536 → m ≤ st.length →
      (∀ i, i < 4 * m → (s.pinned c (BitVec.ofNat 16 (base + rsn * 4 + i)) { s.accessOf c 3 with needW := true }).map (·.2) = some (pa + i)) →
      ∃ t, exec (.spill c f n) s = .next t ∧ Spilled s t c f ∧ (t.runs c).stack = st.take (st.length - m) ∧
        t.reg (Reg.krsn c.val k.val) = BitVec.ofNat 32 ((rsn + m) % 65536) ∧
        (∀ j, j < m → ∀ e, st.reverse[j]? = some e → t.bytes (pa + 4 * j) 4 = [lowByte e.pc, highByte e.pc, lowByte e.ctx,
          (highByte e.ctx &&& 0xFE) ||| (if e.t then 1 else 0)]) ∧
        ∀ a, (a < pa ∨ pa + 4 * m ≤ a) → t.byte a = s.byte a) ∧
    (m ≤ rsn → base + 4 * rsn ≤ 65536 → m + st.length ≤ (if k = 0 then 40 else 32) →
      (∀ i, i < 4 * m → (s.pinned c (BitVec.ofNat 16 (base + (rsn - m) * 4 + i)) { s.accessOf c 3 with needR := true }).map (·.2) = some (pa + i)
        ∧ s.eccBad (pa + i) = false) →
      ∃ t, exec (.fill c f n) s = .next t ∧ Spilled s t c f ∧ t.mem = s.mem ∧ (t.core c).dcache = (s.core c).dcache ∧
        (t.runs c).stack = st ++ ((List.range m).map fun j => RsEntry.mk (half (s.byte (pa + 4 * j)) (s.byte (pa + 4 * j + 1)))
          (half (s.byte (pa + 4 * j + 2)) (s.byte (pa + 4 * j + 3)) &&& 0xFEFF) ((s.byte (pa + 4 * j + 3)).getLsbD 0) false).reverse ∧
        t.reg (Reg.krsn c.val k.val) = BitVec.ofNat 32 (rsn - m))

/-! ### Ledger cores: traps, contexts and the core's own events (spec/06, spec/09, spec/11) -/

/-- The instructions whose effect is a trap (R218, R237, R246, R258, R259, R395): SVC n takes EC 15h with the number n, BPT EC 16h and the
emulation calls EC 14h, resuming at the next instruction; an undefined opcode takes EC 01h with the bytes that reveal it, resuming at
itself. The number of EC 14h in S-form is 00h. -/
def Obligations.TrapsTaken : Prop :=
  ∀ s c, let k := (s.core c).cur; let pc := (s.regsOf c).pc; let ctx := fun f : Form => ((s.regsOf c).withFs (decide (f = .S))).ctx
    (∀ f (n : Byte), Ready s c f 2 → Traps (.svc c f n) s c 0x15 n.toNat [] (pc + 2) (ctx f)) ∧
    (∀ f, Ready s c f 1 → Traps (.bpt c f) s c 0x16 0 [] (pc + 1) (ctx f)) ∧
    (∀ e : Byte, Ready s c .A 2 → Traps (.emulationCall c .A e) s c 0x14 e.toNat [] (pc + 2) (ctx .A)) ∧
    (∀ e : Byte, Ready s c .S 1 → Traps (.emulationCall c .S e) s c 0x14 0 [] (pc + 1) (ctx .S)) ∧
    (∀ f (op second : Byte), Ready s c f 1 → (f = .A → undefinedPrimary op.toNat = true) → (f = .S → undefinedS op.toNat = true) →
      Traps (.undefinedOpcode c f op second) s c 1 0 [op] pc (ctx f)) ∧
    (∀ op second : Byte, Ready s c .A 2 → undefinedPrimary op.toNat = false → undefinedSecond op.toNat second.toNat = true →
      Traps (.undefinedOpcode c .A op second) s c 1 0 [op, second] pc (ctx .A)) ∧
    -- with all 32 entries in use the entry fails: the context is STOPPED at the resume point and EC 11h waits for context 0 (R398)
    (∀ f, Ready s c f 1 → 32 ≤ (s.runs c).stack.length → ∃ t, exec (.bpt c f) s = .next t ∧ (t.ctx c k).state = .stopped ∧
      (t.ctx c k).regs.pc = pc + 1 ∧ (t.ctx c k).stack = (s.runs c).stack ∧ (t.core c).ec11 = some { failedEc := 0x16, ctx := k, pc := pc + 1 })

/-- The traps that no instruction raises (R393, R398, R399, R402, R406, R407): an interrupt of the pending line of highest LEVEL, which
leaves FAULTINFO; a watchdog's EC 17h in the context that runs, which restarts its count; EC 11h in context 0, which runs it with the
failed code, context and PC in FAULTINFO and keeps its state for RTI. An entry that abandons an instruction in a later lookup keeps the LAB
entries of the lookups `made` before it (R358, R384). -/
def Obligations.BoundaryTraps : Prop :=
  (∀ s c made n h flags, let k := (s.core c).cur; let u := s.abandoned c made
    s.canRun c = true → (s.runs c).stopReq = false → s.midPair c = false → (s.runs c).wdtPend = false →
    (s.regsOf c).ctx.getLsbD 9 = false → bestLine s c k = some n → u.vector c k (0x20 + n) h flags →
    (u.runs c).stack.length < 32 → u.settled c →
    ∃ t, exec (.interruptEntry ⟨c, made⟩) s = .next t ∧ Enters u t c h flags (s.regsOf c).pc (s.regsOf c).ctx ∧
      ∀ a, isKeyReg a = false → t.reg a = u.reg a) ∧
  (∀ (s : State) c, s.abandoned c [] = s) ∧
  (∀ s c k, s.wdtCounts c k = true → (s.ctx c k).wdtPend = false →
    ((s.ctx c k).wdtOnce = false → k ≠ (s.core c).cur →
      exec (.watchdogExpiry c k) s = .next (s.modCtx c k fun x => { x with wdtOnce := true, wdtPend := true, wdtLeft := 0 })) ∧
    ((s.ctx c k).wdtOnce = true → ∃ t, exec (.watchdogExpiry c k) s = .next t ∧ (t.core c).core = .halted ∧ (t.core c).hcause = 0x17) ∧
    ((s.ctx c k).wdtOnce = false → k = (s.core c).cur → s.canRun c = true → (s.core c).head = none → ∀ h flags, s.vector c k 0x17 h flags →
      (s.runs c).stack.length < 32 → s.settled c →
      ∃ t, exec (.watchdogExpiry c k) s = .next t ∧ (t.regsOf c).pc = h ∧ (t.runs c).wdtPend = false ∧ (t.runs c).wdtOnce = true ∧
        (t.runs c).wdtLeft = s.wdtPeriod c ∧ t.faultInfo c k 0x17 [] (s.regsOf c).pc 0 0 ∧
        (t.runs c).stack = { pc := (s.regsOf c).pc, ctx := (s.regsOf c).ctx, t := true } :: (s.runs c).stack ∧
        t = { s with cores := t.cores, regs := t.regs } ∧ (∀ d, d ≠ c → t.core d = s.core d) ∧
        ∀ a, isKeyReg a = false → isFaultReg c k a = false → t.reg a = s.reg a)) ∧
  (∀ s c e h flags, let x := s.ctx c 0
    (s.core c).ec11 = some e → (s.core c).core = .run → s.power.entry = 0 → x.stack.length < 40 → s.settled c → s.vector c 0 0x11 h flags →
    ∃ t, exec (.ec11Entry c) s = .next t ∧ (t.core c).cur = 0 ∧ (t.core c).ec11 = none ∧ (t.ctx c 0).state = .run ∧
      (t.core c).ec11Back = ((x.stack.length : Int), x.state) :: (s.core c).ec11Back ∧
      (t.ctx c 0).wdtLeft = (if x.state = .stopped then s.wdtPeriod c else x.wdtLeft) ∧
      (t.ctx c 0).stack = { pc := x.regs.pc, ctx := x.regs.ctx, t := true } :: x.stack ∧
      (t.ctx c 0).regs = { x.regs with pc := h, ctx := handlerCtx flags (t.sForm c 0 h) } ∧
      t.faultInfo c 0 0x11 [] e.pc e.failedEc e.ctx.val ∧ t = { s with cores := t.cores, regs := t.regs } ∧
      (∀ d, d ≠ c → t.core d = s.core d) ∧ (∀ a, isKeyReg a = false → isFaultReg c 0 a = false → t.reg a = s.reg a))

/-- Contexts (R199 to R202, R230, R356): the core switches to the READY context of highest effective level, the old one keeping its
registers and the LABs of code and data empty; CTXGO makes a STOPPED context READY and stops the others, the one that runs at its next
boundary. A context in IDLE with a pending line is READY before each commit (R200), and a commit may take a line away (`unkept`, R418). -/
def Obligations.ContextEvents : Prop :=
  (∀ s c made k, let u := s.abandoned c made; let old := (s.core c).cur
    s.coreActs c = true → s.midPair c = false → switchTarget s c = some k → k ≠ old → (u.core c).cur = old → (u.ctx c k).wdtPend = false → u.settled c →
    ∃ t, exec (.contextSwitch ⟨c, made⟩) s = .next t ∧ t = { u with cores := t.cores } ∧ (∀ d, d ≠ c → t.core d = u.core d) ∧
      t.core c = { u.core c with cur := k, held := none, head := none, taking := none, ilab := [], dlab := [], ctxs := (t.core c).ctxs } ∧
      t.ctx c k = { u.ctx c k with state := .run, image := (u.ctx c k).regs } ∧
      t.runs c = t.ctx c k ∧
      t.ctx c old = { u.ctx c old with
        image := (u.ctx c old).regs, shadow := none, stopReq := false
        state := if (u.ctx c old).state = .run then (if (u.ctx c old).stopReq then .stopped else .ready) else (u.ctx c old).state } ∧
      ∀ j, j ≠ k → j ≠ old → t.ctx c j = u.ctx c j) ∧
  (∀ s m c (mask : Byte), s.takes m (Reg.lccCtxgo c.val) (mask.setWidth 32) → (s.core c).core = .run → let u := s.latched
    ∃ t : State, exec (.ctxgoGo m c mask) s = .next t.unkept ∧ t = { u with cores := t.cores } ∧ (∀ d, d ≠ c → t.core d = u.core d) ∧
      t.core c = { u.core c with ctxs := (t.core c).ctxs } ∧
      ∀ k : Ctx, t.ctx c k = if mask.getLsbD k.val ∧ (u.ctx c k).state = .stopped then
        { u.ctx c k with state := .ready, image := (u.ctx c k).regs, wdtLeft := u.wdtPeriod c, stopReq := false } else u.ctx c k) ∧
  (∀ s m c (mask : Byte), s.takes m (Reg.lccCtxgo c.val) (mask.setWidth 32 <<< 8) → let u := s.latched
    ∃ t : State, exec (.ctxgoStop m c mask) s = .next t.unkept ∧ t = { u with cores := t.cores } ∧ (∀ d, d ≠ c → t.core d = u.core d) ∧
      t.core c = { u.core c with ctxs := (t.core c).ctxs } ∧
      ∀ k : Ctx, t.ctx c k = if ¬ mask.getLsbD k.val ∨ (u.ctx c k).state = .stopped then u.ctx c k
        else if (u.ctx c k).state = .run then { u.ctx c k with stopReq := true }
        else { u.ctx c k with state := .stopped, stopReq := false, shadow := none }) ∧
  (∀ s c k made, (s.ctx c k).stopReq = true → (s.ctx c k).state ≠ .stopped → (s.core c).core = .run →
    ((s.core c).cur ≠ k → exec (.contextStop ⟨c, made⟩ k) s = .next (s.modCtx c k fun x => { x with state := .stopped, stopReq := false, shadow := none })) ∧
    (let u := s.abandoned c made
     (s.core c).cur = k → s.midPair c = false → u.settled c →
      exec (.contextStop ⟨c, made⟩ k) s = .next ((u.modCore c fun x => { x with held := none, head := none, taking := none }).modCtx c k fun x =>
        { x with state := .stopped, stopReq := false, shadow := none })))

/-- The mode switch, the caches and the store buffer (R219, R316 to R325, R331, R338, R346, R347, R371, R386): a commit of LCC_MODE starts a count of two
instructions and its mode applies when that has run out, from cold caches where it changes to fast; LCC_CACHE invalidates for another master at the
next boundary and for the core itself at SYNC; a line fill enters its line, with the parity error it has taken; the oldest entry drains and writes
exactly its masked bytes, a device register in one access, or the key entry of its frame; a double-bit error halts the core and writes nothing. An
instruction that waits runs its operation again once there is room or the entries have gone, and the core is at a boundary when it has ended.
It rests also on the model's own choices of log 27 and 81. -/
def Obligations.CachesAndStoreBuffer : Prop :=
  (∀ s m c v, s.takes m (Reg.lccMode c.val) v →
    exec (.lccModeWrite m c v) s = .next (s.lineEvent fun s =>
      (s.setReg (Reg.lccMode c.val) v).modCore c fun x => { x with modeCounts := x.modeCounts ++ [(2, bit v 0)] })) ∧
  (∀ s c d rest, (s.core c).modeCounts = (0, d) :: rest → (∀ e ∈ rest, e.1 ≠ 0) → let cold := (s.core c).det && !d
    exec (.modeSwitchPoint c) s = .next (s.modCore c fun x => { x with
      modeCounts := rest, det := d, lineBuf := [], fills := [], icache := if cold then [] else x.icache, dcache := if cold then [] else x.dcache,
      predictor := if cold then Vector.replicate 64 1 else x.predictor })) ∧
  (∀ s m c v, s.takes m (Reg.lccCache c.val) v → let a := Reg.lccCache c.val; let inv : BitVec 3 := BitVec.ofNat 3 (field v 8 3)
    let t := s.lineEvent fun s =>
      if ownCore m c.val then ((s.keepOld c a).stored a v).modCore c fun x => { x with pendInv := x.pendInv ||| inv }
      else ((s.useNew c a).stored a v).modCore c fun x =>
        if x.held.isSome then { x with lateInv := x.lateInv ||| inv } else x.invalidate inv
    (bit v 8 = true → exec (.lccCacheIinv m c v) s = .next t) ∧ (bit v 9 = true → exec (.lccCacheDinv m c v) s = .next t) ∧
    (bit v 10 = true → exec (.lccCacheBpinv m c v) s = .next t)) ∧
  (∀ (x : CoreSt) (v : BitVec 3), x.fills = [] → x.invalidate v = { x with
    icache := if v.getLsbD 0 then [] else x.icache, lineBuf := if v.getLsbD 0 then [] else x.lineBuf,
    dcache := if v.getLsbD 1 then [] else x.dcache, predictor := if v.getLsbD 2 then Vector.replicate 64 1 else x.predictor }) ∧
  (∀ s c upset line rest, let u := match upset with | .lab k idx => s.modCore c fun x => x.spoilLab k idx.val | _ => s
    let bad := decide (upset = .line); let t := fun g : CoreSt → CoreSt => u.modCore c fun x => g { x with fills := rest }
    ((s.core c).fills = .icache line :: rest →
      exec (.lineFillDone ⟨c, upset⟩) s = .next (t fun x => { x with icache := cacheTake (·.1) 128 x.icache (line, bad) })) ∧
    ((s.core c).fills = .lineBuf line :: rest → exec (.lineFillDone ⟨c, upset⟩) s = .next (t fun x => { x with
      lineBuf := (line :: x.lineBuf.filter fun l => decide (l ≠ line)).take 2 })) ∧
    ((s.core c).fills = .dcache line :: rest → exec (.lineFillDone ⟨c, upset⟩) s = .next (t fun x => { x with
      dcache := cacheTake (·.line) 64 x.dcache { line, bytes := (List.range 32).map fun i => fillByte s (line * 32 + i), bad } }))) ∧
  (∀ s c e rest, (s.core c).buf = e :: rest → e.key = none →
    (region (e.word * 8) = .sram → ∃ t, exec (.storeBufferDrain c .none) s = .next t ∧ (t.core c).buf = rest ∧
      (∀ i, i < 8 → t.byte (e.word * 8 + i) = if e.mask.getLsbD i then wordByte e.data i else s.byte (e.word * 8 + i)) ∧
      (∀ a, (a < e.word * 8 ∨ e.word * 8 + 8 ≤ a) → t.byte a = s.byte a) ∧ t = { s with cores := t.cores, mem := t.mem } ∧
      (∀ d, d ≠ c → t.core d = s.core d) ∧
      t.core c = { s.core c with buf := rest, icache := (s.core c).icache.filter fun l => decide (l.1 ≠ e.word / 4), dcache := (t.core c).dcache }) ∧
    (region (e.word * 8) = .dev → exec (.storeBufferDrain c .corrected) s = .next
      ((s.modCore c fun x => { x with buf := rest }).writePiece true (.lc c e.ctx e.sup) (e.word * 8 + maskLow e.mask) (maskWidth e.mask)
        (half (wordByte e.data (maskLow e.mask)) (wordByte e.data (maskLow e.mask + 1))))) ∧
    ((s.core c).core ≠ .halted → ∃ t, exec (.storeBufferDrain c .double) s = .next t ∧ (t.core c).buf = rest ∧ (t.core c).core = .halted ∧
      (t.core c).hcause = 0x80) ∧
    ((s.core c).core = .halted → exec (.storeBufferDrain c .double) s =
      .next ((s.modCore c fun x => { x with buf := rest, hcause := 0x80 }).haltNoted c 0x80))) ∧
  (∀ s c e rest f v, (s.core c).buf = e :: rest → e.key = some (f, v) → ∃ t, exec (.storeBufferDrain c .none) s = .next t ∧
    (t.core c).buf = rest ∧ t.keyEntry f = v ∧ f ∉ t.keyBad ∧ ∀ g, g ≠ f → t.keyEntry g = s.keyEntry g) ∧
  (∀ s c h op stop, (s.core c).held = some h → s.canRun c = true → heldOp h.form h.bytes = some op →
    let r := runOp c h.form stop op (s.modCore c fun x => { x with held := none }) h.half
    let t := if (r.core c).held.isSome then r else r.boundary c true
    exec (.loadDrainResume ⟨c, stop⟩) s = .next t ∧ ((s.core c).buf.length < 4 → exec (.storeRoomResume ⟨c, stop⟩) s = .next t)) ∧
  (∀ s c (a : Half), s.canRun c = true → let s' := s.modCore c fun x => { x with held := none }
    ((s.core c).held = some { form := .A, bytes := [0x01, lowByte a, highByte a] } → ∃ r, exec (.lda c (.abs a)) s' = .next r ∧
      exec (.loadDrainResume ⟨c, none⟩) s = .next (if (r.core c).held.isSome then r else r.boundary c true)) ∧
    ((s.core c).held = some { form := .A, bytes := [0x09, lowByte a, highByte a] } → (s.core c).buf.length < 4 → ∃ r,
      exec (.sta c (.abs a)) s' = .next r ∧
      exec (.storeRoomResume ⟨c, none⟩) s = .next (if (r.core c).held.isSome then r else r.boundary c true)))

/-- Translation, storage-key and interrupt registers (R222, R361, R376 to R379, R400, R403 to R405, R414, R418): a window or line register of another
master reaches a core at its next boundary or checkpoint and empties the LABs it names, a core's own wait for its SYNC; XLT_XDIAG empties the LABs
that it turns off; IRQ_RSDROP drops the entries of STOPPED contexts and what waited for their RTI; doorbells are set and cleared by bit. -/
def Obligations.TranslationAndInterruptRegisters : Prop :=
  (∀ s m c k v n, s.takes m (if n then Reg.bdtn c.val k.val else Reg.bdtb c.val k.val) v → (n = true → field v 0 6 ≤ 32) →
    let a := if n then Reg.bdtn c.val k.val else Reg.bdtb c.val k.val
    exec (.xltBdtWrite m c k n v) s = .next (s.lineEvent fun s =>
      if ownCore m c.val then (s.keepOld c a).stored a v
      else if (s.core c).held = none then ((s.useNew c a).stored a v).dropLabs c k else (s.useNew c a).stored a v)) ∧
  (∀ s m c k (i : Fin 4) v, s.takes m (Reg.pbrL c.val k.val i.val) v → descBad v (s.reg (Reg.pbrP c.val k.val i.val)) = false →
    let a := Reg.pbrL c.val k.val i.val
    exec (.xltPbrWrite m c k i false v) s = .next (s.lineEvent fun s => (if ownCore m c.val then s.keepOld c a else s.useNew c a).stored a v)) ∧
  (∀ s m c k (i : Fin 4) v, s.takes m (Reg.pbrP c.val k.val i.val) v → descBad (s.reg (Reg.pbrL c.val k.val i.val)) v = false →
    let a := Reg.pbrP c.val k.val i.val
    exec (.xltPbrWrite m c k i true v) s = .next (s.lineEvent fun s => (if ownCore m c.val then s.keepOld c a else s.useNew c a).stored a v)) ∧
  -- a value of another master: used at once, but by an instruction that waits not before its boundary
  (∀ (s : State) c a v, let t := (s.useNew c a).stored a v
    ((s.core c).held = none → (s.core c).lateRegs = [] → effReg t c a = t.reg a) ∧ ((s.core c).held ≠ none → effReg t c a = effReg s c a) ∧
    ∀ b, b ≠ a → effReg t c b = effReg s c b) ∧
  (∀ s m (j : Fin 1280) v, s.takes m (Reg.xltKey j.val) v → (∀ i, i < 4 → (4 * j.val + i) ∉ s.keyBad) → let u := s.latched
    ∃ t : State, exec (.xltKeyClear m j v) s = .next t.unkept ∧
    t.reg (Reg.xltKey j.val) = s.reg (Reg.xltKey j.val) &&& ~~~ (v &&& 0x03030303) ∧ (∀ a, a ≠ Reg.xltKey j.val → t.reg a = s.reg a) ∧
    t = { u with regs := t.regs, cores := t.cores } ∧ (∀ d, ownCore m d.val = false → t.core d = u.core d) ∧
    ∀ d f, ownCore m d.val = true → t.keyFor d f = s.keyFor d f) ∧
  (∀ s m v, s.takes m Reg.xltXdiag v → let r := s.latched
    ∃ u : State, exec (.xltXdiagWrite m v) s = .next (u.expertLog Reg.xltXdiag v).unkept ∧
      u = { r.setReg Reg.xltXdiag v with cores := u.cores } ∧ ∀ c,
        ((s.core c).held = none → u.core c = { r.core c with
          oldRegs := (r.core c).oldRegs.filter fun e => decide (e.1 ≠ Reg.xltXdiag)
          l2 := if bit v 0 then [] else (r.core c).l2, ilab := if bit v 1 then [] else (r.core c).ilab,
          dlab := if bit v 1 then [] else (r.core c).dlab }) ∧
        ((s.core c).held ≠ none → effReg u c Reg.xltXdiag = effReg s c Reg.xltXdiag ∧
          u.core c = { r.core c with lateRegs := (u.core c).lateRegs, oldRegs := (u.core c).oldRegs })) ∧
  (∀ s m v, s.takes m Reg.irqRsdrop v → let c : Core := Fin.ofNat 4 (field v 0 2); let u := s.latched
    let drops := fun k : Ctx => bit v (8 + k.val) && decide ((u.ctx c k).state = .stopped)
    ∃ t : State, exec (.irqRsdropWrite m v) s = .next t.unkept ∧ t = { u with cores := t.cores } ∧ (∀ d, d ≠ c → t.core d = u.core d) ∧
      t.core c = { u.core c with
        ctxs := (t.core c).ctxs, ec11Back := if drops 0 then (u.core c).ec11Back.filter fun e => decide (e.1 < 0) else (u.core c).ec11Back
        kept := (u.core c).kept.filter fun e => !(drops e.2.1 && decide (0 ≤ e.2.2)) } ∧
      ∀ k : Ctx, t.ctx c k = if drops k then { u.ctx c k with stack := [] } else u.ctx c k) ∧
  (∀ s m v, (s.takes m Reg.irqDbset v → exec (.doorbellSet m v) s = .next (s.lineEvent fun s => s.setBits Reg.irqDb (v &&& 0xF))) ∧
    (s.takes m Reg.irqDb v → exec (.doorbellClear m v) s = .next (s.lineEvent fun s => s.stored Reg.irqDb v))) ∧
  (∀ s m (n : Fin 48) v, s.takes m (Reg.irqLine n.val) v → let a := Reg.irqLine n.val; let u := s.latched
    let own := fun d : Core => ownCore m d.val && decide (field (s.reg a) 0 2 = d.val ∨ field v 0 2 = d.val)
    ∃ t : State, exec (.irqLineWrite m n v) s = .next t.unkept ∧ t = { u with cores := t.cores, regs := t.regs } ∧
      t.reg a = (s.stored a v).reg a ∧ (∀ b, b ≠ a → t.reg b = s.reg b) ∧
      (∀ d, t.core d = { u.core d with
        oldRegs := (t.core d).oldRegs, lateRegs := (t.core d).lateRegs, kept := (t.core d).kept, taking := (t.core d).taking }) ∧
      (∀ d b, b ≠ a → effReg t d b = effReg s d b) ∧ (∀ d, own d = true → effReg t d a = effReg s d a) ∧
      (∀ d, ownCore m d.val = false → (s.core d).held ≠ none → effReg t d a = effReg s d a) ∧
      (∀ d, ownCore m d.val = false → (s.core d).held = none → (s.core d).lateRegs = [] → effReg t d a = t.reg a) ∧
      (∀ d x, (s.core d).taking = some x → x.1 = n.val → field (s.reg a) 0 5 ≠ field v 0 5 →
        (t.core d).kept = x :: (u.core d).kept ∧ (t.core d).taking = none)) ∧
  (∀ s m v, s.takes m Reg.irqXforce v → field v 0 6 < 48 →
    exec (.irqXforceWrite m v) s = .next (s.lineEvent fun s => (s.stored Reg.irqXforce v).expertLog Reg.irqXforce v))

/-- A halted core (R408 to R411, R419, R718): DBGHALT halts with HCAUSE 01h, a state-machine error with 82h and one of the register file, the return
stack or the context store with 81h; no instruction waits, its LABs and line buffer are empty, every context is STOPPED and the other cores stand; an
EC 11h that context 0 had still to take is in its FAULTINFO; the lines of a halted core go to its fallback, which is logged. -/
def Obligations.CoreHalts : Prop :=
  (∀ s c, (s.core c).core = .run → let halted := fun (t : State) (cause : Byte) => (t.core c).core = .halted ∧ (t.core c).hcause = cause ∧
      (t.core c).held = none ∧ (t.core c).ilab = [] ∧ (t.core c).dlab = [] ∧ (t.core c).l2 = [] ∧ (t.core c).lineBuf = [] ∧
      (t.core c).ec11 = none ∧ (∀ e, (s.core c).ec11 = some e → t.reg (Reg.irqFi c.val 0 0) = BitVec.ofNat 32 (0x11 + e.pc.toNat * 2 ^ 16)) ∧
      (∀ k, (t.ctx c k).state = .stopped ∧ (t.ctx c k).regs = (s.ctx c k).regs ∧ (t.ctx c k).stack = (s.ctx c k).stack) ∧
      (∀ d, d ≠ c → t.core d = s.core d)
    (∀ store, ∃ t, exec (.stateMachineCheck ⟨c, store⟩) s = .next t ∧ halted t (if store then 0x81 else 0x82)) ∧
    (s.debugOn = true → ∃ t, exec (.dbghalt c true) s = .next t ∧ halted t 1)) ∧
  (∀ s c f, fallbackOf s c = some f → (s.core c).fallbackOn = false →
    exec (.fallbackDelivery c) s = .next ((s.modCore c fun x => { x with fallbackOn := true }).hlog 0x0190 sevNotice c.val []))

/-! ### Decimal and string instructions (spec/08) -/

/-- The decimal instructions that compute on packed fields (R268, R272, R278 to R282, R286): with valid operands `xs` at X and `ys` at Y,
and a result that fits, each stores the result of its row at X and changes nothing else but PC and the CD its rule names; DCB only
branches; DDIV that an event abandons changes nothing; DMUL is given here with a multiplier of one digit.
It rests also on the model's own choices of log 29. -/
def Obligations.DecimalArithmetic : Prop :=
  ∀ s c (lb : Byte) (xs ys : List Byte), let v := s.seenA c; let n1 := len1 lb; let n2 := len2 lb
    let rd := s.operandOf c 1; let a := packedValue xs; let b := packedValue ys
    let stores := fun (i : Instr) (out : List Byte) (r : CtxRegs) => ∀ ps, s.storesField c (s.operandOf c 2) v.x out ps →
      (s.bufAfter c ps).length ≤ 4 → Completes i s c r none (s.runs c).stack (s.bufAfter c ps)
    (Ready s c .A 3 → let r := s.after c 3
      (s.loadsField c rd v.y n2 ys → badPacked ys = none →
        (b.natAbs < 10 ^ (2 * n1 - 1) → stores (.dld c lb) (packedResult n1 b) r) ∧
        (s.loadsField c rd v.x n1 xs → badPacked xs = none →
          ((a + b).natAbs < 10 ^ (2 * n1 - 1) → stores (.dadd c lb) (packedResult n1 (a + b)) r) ∧
          ((a - b).natAbs < 10 ^ (2 * n1 - 1) → stores (.dsub c lb) (packedResult n1 (a - b)) r) ∧
          (n2 ≤ 8 → n2 < n1 → b ≠ 0 → a.natAbs / b.natAbs < 10 ^ (2 * (n1 - n2) - 1) →
            stores (.ddiv c lb false) (packedResult (n1 - n2) (a.tdiv b) ++ packedResult n2 (a.tmod b)) r ∧
            ((∃ ps, s.storesField c (s.operandOf c 2) v.x xs ps) → ∃ t, exec (.ddiv c lb true) s = .next t ∧
              OnlyContext s t c (s.core c).buf ∧ t.runs c = { s.runs c with regs := (s.regsOf c).withFs false })))) ∧
      (n2 ≤ n1 → s.loadsField c rd v.x n1 xs → s.loadsField c rd v.y n2 ys → badUnsigned xs = none → badUnsigned ys = none →
        let x := unsignedValue xs; let t := unsignedValue ys + v.cd; let top := 10 ^ (2 * n1)
        stores (.uadd c lb) (unsignedBytes n1 ((x + t) % top)) (r.withCd ((x + t) / top)) ∧
        stores (.usub c lb) (unsignedBytes n1 (if t ≤ x then x - t else if t ≤ x + top then x + top - t else
          Config.deepBorrow x (unsignedValue ys) v.cd % top)) (r.withCd (if x < t then 1 else 0)))) ∧
    (Ready s c .A 4 → let r := s.after c 4
      (∀ sh : Byte, n2 ≤ 10 → s.loadsField c rd v.x n1 xs → badPacked xs = none → let m := a.natAbs; let top := 10 ^ (2 * n1 - 1)
        (0 < sh.toInt → sh.toInt ≤ 31 → m * 10 ^ sh.toInt.natAbs < top →
          stores (.dshr c lb sh) (packedBytes n1 (decide (a < 0)) (m * 10 ^ sh.toInt.natAbs)) r) ∧
        (sh = 0 → stores (.dshr c lb sh) (packedBytes n1 (decide (a < 0)) m) (r.withCd 0)) ∧
        (sh.toInt < 0 → -31 ≤ sh.toInt → let out := m / 10 ^ (sh.toInt.natAbs - 1) % 10
          let w := m / 10 ^ sh.toInt.natAbs + (if 10 ≤ out + (n2 - 1) then 1 else 0)
          w < top → stores (.dshr c lb sh) (packedBytes n1 (decide (a < 0)) w) (r.withCd out))) ∧
      (∀ (m : Byte) stop, n2 + 1 ≤ n1 → overlaps v.x.toNat n1 v.y.toNat n2 = false → overlaps v.x.toNat n1 v.l.toNat 1 = false →
        s.loadsField c rd v.x n1 xs → s.loadsField c rd v.y n2 ys → s.loadsField c rd v.l 1 [m] → badPacked ys = none → badPacked [m] = none →
        (∀ p ∈ s.fieldAt c (s.operandOf c 2) v.x n1, p ∉ s.fieldAt c rd v.y n2 ∧ p ∉ s.fieldAt c rd v.l 1) →
        stores (.dmul c lb 0 stop) (packedResult n1 (b * packedValue [m])) r)) ∧
    (∀ bw : Half, Ready s c .A 5 → decimalCond (branchCond bw) = true → s.loadsField c rd v.x n1 xs → s.loadsField c rd v.y n2 ys →
      badPacked xs = none → badPacked ys = none → let r := s.after c 5
      Gives (.dcb c lb bw) s c (if intCond (branchCond bw) a b then { r with pc := r.pc + branchDisp bw } else r))

/-- The conversions between packed, zoned, binary and unsigned fields (R283 to R285): ZPK takes its sign from CD and PZN leaves the sign in
CD; each stores its result at X and changes nothing else but PC. -/
def Obligations.DecimalConversions : Prop :=
  ∀ s c (lb : Byte) (ys : List Byte), let v := s.seenA c; let n1 := len1 lb; let n2 := len2 lb
    let rd := s.operandOf c 1
    let stores := fun (i : Instr) (out : List Byte) (r : CtxRegs) => ∀ ps, s.storesField c (s.operandOf c 2) v.x out ps →
      (s.bufAfter c ps).length ≤ 4 → Completes i s c r none (s.runs c).stack (s.bufAfter c ps)
    (∀ lz : Byte, Ready s c .A 4 → field lb 4 4 = 0 → zonedBad lz = false → let nz := zonedLen lz; let r := s.after c 4
      (s.loadsField c rd v.y nz ys → badZoned ys = none → zonedValue ys < 10 ^ (2 * n2 - 1) →
        stores (.zpk c lb lz) (packedBytes n2 (decide (v.cd ≠ 0)) (zonedValue ys)) r) ∧
      (s.loadsField c rd v.y n2 ys → badPacked ys = none → (packedValue ys).natAbs < 10 ^ nz →
        stores (.pzn c lb lz) (zonedBytes nz (packedValue ys).natAbs) (r.withCd (if packedValue ys < 0 then 1 else 0)))) ∧
    (Ready s c .A 3 → s.loadsField c rd v.y n2 ys → let r := s.after c 3
      (n1 ≤ 8 → badPacked ys = none → -2 ^ (8 * n1 - 1) ≤ packedValue ys → packedValue ys < 2 ^ (8 * n1 - 1) →
        stores (.dtob c lb) (leBytes n1 (packedValue ys % 2 ^ (8 * n1)).toNat) r) ∧
      (n2 ≤ 8 → (binaryValue ys).natAbs < 10 ^ (2 * n1 - 1) → stores (.btod c lb) (packedResult n1 (binaryValue ys)) r) ∧
      (badUnsigned ys = none → unsignedValue ys < 10 ^ (2 * n1 - 1) → stores (.dus c lb) (packedBytes n1 false (unsignedValue ys)) r))

/-- The string instructions, a chunk at a time (R287 to R291, R298, R364): the bytes of a chunk lie in one aligned word of X, or are one byte
in a move that overlaps by less than 8. A chunk that ends the string completes the instruction; a STOP that waits at the checkpoint leaves
the rest in X, Y and L with PH 1. A length of 0 does nothing but set A for TRTS. TRS is given here with a table apart from the string. -/
def Obligations.StringInstructions : Prop :=
  ∀ s c, let v := s.seenA c; let x := v.x.toNat; let y := v.y.toNat; let l := v.l.toNat; let k := s.runs c
    let rd := s.operandOf c 1; let wr := s.operandOf c 2
    let adv := fun (r : CtxRegs) (n m : Nat) => { r with x := BitVec.ofNat 16 (x + n), y := BitVec.ofNat 16 (y + n), l := BitVec.ofNat 16 (l - m) }
    let stops := fun (i : Instr) (r : CtxRegs) ps => ∃ t, exec i s = .next t ∧ OnlyContext s t c (s.bufAfter c ps) ∧
      t.runs c = { k with regs := (r.withPh 1).withFs false, shadow := none }
    let moves := fun (op : Option Nat → Instr) (rd wr : Access) (down : Bool) (r : CtxRegs) =>
      s.fieldFree c v.x l → s.fieldFree c v.y l → ∀ data ps,
      let n := if down then (if shortOverlap (v.y - v.x) then 1 else min l ((x + l - 1) % 8 + 1)) else chunkUp (shortOverlap (v.x - v.y)) x l
      let o := if down then l - n else 0
      s.loadsPieces c rd (pieces (y + o) (n + 1) n) data → s.storesPieces c wr (pieces (x + o) (n + 1) n) data ps →
      (s.bufAfter c ps).length ≤ 4 → let go := fun r => if down then { r with l := BitVec.ofNat 16 o } else adv r n n
      (0 < l → l ≤ n → Completes (op none) s c (go r) none k.stack (s.bufAfter c ps)) ∧
      (0 < l → stops (op (some 0)) (go { r with pc := (s.regsOf c).pc }) ps)
    (Ready s c .A 2 → let r := s.after c 2
      (v.a.toNat % 16 = 0 → s.supervisor c = true →
        moves (fun z => .mvu c z) rd (s.userOf c 2) false r ∧ moves (fun z => .mvfu c z) (s.userOf c 1) wr false r) ∧
      ((∀ z, l = 0 → Gives (.mvs c z) s c r ∧ Gives (.mvsb c z) s c r ∧ Gives (.fils c z) s c r ∧ Gives (.trs c z) s c r ∧
        Gives (.trts c z) s c { r with a := 0 }) ∧
      moves (fun z => .mvs c z) rd wr false r ∧ moves (fun z => .mvsb c z) rd wr true r ∧
      (∀ ps, let n := chunkUp false x l
        s.fieldFree c v.x l → 0 < l → s.storesPieces c wr (pieces x (n + 1) n) (List.replicate n v.a) ps → (s.bufAfter c ps).length ≤ 4 →
        (l ≤ n → Completes (.fils c none) s c { r with x := BitVec.ofNat 16 (x + n), l := BitVec.ofNat 16 (l - n), a := v.a } none k.stack
          (s.bufAfter c ps)) ∧
        stops (.fils c (some 0)) { s.regsOf c with x := BitVec.ofNat 16 (x + n), l := BitVec.ofNat 16 (l - n), a := v.a } ps) ∧
      (∀ xs (e : Byte → Byte) z, let n := chunkUp false x l
        s.fieldFree c v.x l → s.fieldFree c v.y 256 → 0 < l → l ≤ n → s.loadsPieces c rd (pieces x (n + 1) n) xs →
        (∀ b ∈ xs, s.loads c rd (BitVec.ofNat 16 (y + b.toNat)) 1 [e b]) →
        (∀ ps, s.storesPieces c wr (pieces x (n + 1) n) (xs.map e) ps → (s.bufAfter c ps).length ≤ 4 →
          (∀ p ∈ s.fieldAt c wr v.x n, ∀ b ∈ xs, p ∉ s.fieldAt c rd (BitVec.ofNat 16 (y + b.toNat)) 1) → z = none →
          Completes (.trs c z) s c { r with x := BitVec.ofNat 16 (x + n), l := BitVec.ofNat 16 (l - n) } none k.stack (s.bufAfter c ps)) ∧
        (∀ i b, i < n → xs[i]? = some b → e b ≠ 0 → (∀ j d, j < i → xs[j]? = some d → e d = 0) →
          Gives (.trts c z) s c { r with x := BitVec.ofNat 16 (x + i), l := BitVec.ofNat 16 (l - i), a := e b }) ∧
        ((∀ b ∈ xs, e b = 0) → z = none →
          Gives (.trts c z) s c { r with x := BitVec.ofNat 16 (x + n), l := BitVec.ofNat 16 (l - n), a := 0 })))) ∧
    (∀ (bw : Half) z, Ready s c .A 4 → stringCond (branchCond bw) = true → let r := s.after c 4
      let go := fun (r : CtxRegs) (a b : Byte) => if condHolds (branchCond bw) a b then { r with pc := r.pc + branchDisp bw } else r
      (l = 0 → Gives (.cbs c bw z) s c (go r 0 0)) ∧
      (∀ xs ys, let n := chunkUp false x l
        s.fieldFree c v.x l → s.fieldFree c v.y l → 0 < l → s.loadsPieces c rd (pieces x (n + 1) n) xs →
        s.loadsPieces c rd (pieces y (n + 1) n) ys →
        (∀ i a b, xs[i]? = some a → ys[i]? = some b → a ≠ b → xs.take i = ys.take i → Gives (.cbs c bw z) s c (go (adv r i i) a b)) ∧
        (xs = ys → l ≤ n → z = none → Gives (.cbs c bw z) s c (go (adv r n n) 0 0))))

/-- EDT and EDTL on the last byte of a pattern, from phase 0 (R292 to R296, Table 8.4): SEL shows its digit or the fill byte, SST and NEXT
and the sign bytes yield theirs, and a printable byte the fill byte while suppression lasts; EDTL also pushes the position of the first
byte printed, or FFFFh for a field with none. -/
def Obligations.EditInstructions : Prop :=
  ∀ s c (p b : Byte), let v := s.seenA c; let rd := s.operandOf c 1; let wr := s.operandOf c 2; let x := v.x; let dp := v.dp.toNat
    Ready s c .A 2 → v.l = 1 → 0x20 ≤ v.a.toNat → s.fieldFree c x 1 → s.loads c rd x 1 [p] →
    let done := fun (i : Instr) (out : Byte) (y : Half) (dp' : Half) (q : List Put) => ∀ w, s.puts c wr x .word [out] w → w.se = false →
      (s.bufAfter c (w :: q)).length ≤ 4 →
      Completes i s c { s.after c 2 with x := BitVec.ofNat 16 (x.toNat + 1), y, l := 0, a := v.a, dp := dp' } none (s.runs c).stack (s.bufAfter c (w :: q))
    let hi := b.toNat / 16; let lo := b.toNat % 16; let digit : Byte := BitVec.ofNat 8 (0x30 + hi)
    let y' := if 9 < lo then BitVec.ofNat 16 (v.y.toNat + 1) else v.y
    (s.loads c rd v.y 1 [b] → hi ≤ 9 →
      (p = 1 → done (.edt c none) (if hi = 0 then v.a else digit) y' v.dp []) ∧ (p = 2 → done (.edt c none) digit y' v.dp []) ∧
      (p = 1 → hi ≠ 0 → ∀ q, s.dslo c + 2 ≤ dp → s.storesEach c (dp - 2) (leBytes 2 x.toNat) q → done (.edtl c none) digit y' (BitVec.ofNat 16 (dp - 2)) q)) ∧
    (p = 3 → done (.edt c none) v.a v.y v.dp []) ∧ (p = 4 → done (.edt c none) v.a v.y v.dp []) ∧
    (p = 5 → done (.edt c none) 0x2B v.y v.dp []) ∧ (0x20 ≤ p.toNat → done (.edt c none) v.a v.y v.dp []) ∧
    (0x20 ≤ p.toNat → ∀ q, s.dslo c + 2 ≤ dp → s.storesEach c (dp - 2) (leBytes 2 0xFFFF) q →
      done (.edtl c none) v.a v.y (BitVec.ofNat 16 (dp - 2)) q)

/-! ### Tarn (spec/03) -/

/-- Increments, totalizers and pulses (R57 to R64, R68): a good increment adds its count to FWD or REV of its own channel, and to SES when
a session counts in its direction, modulo 10^20, and a session that reaches its preset stops; quanta outside a session are recorded; a
pulse takes one from the backlog and is followed by its gap. No other channel changes. An increment waits while a RELOAD is under way (R52). -/
def Obligations.IncrementsAndPulses : Prop :=
  (∀ s n (i : Incr) rest, s.tarnOn = true → s.tarn.reload = none → (s.eng n).incs = i :: rest → let c := s.chan n; let k := i.count.toNat
    let inSes := c.sess.counts && decide (i.rev = c.dir); let ses := if inSes then (c.ses + k) % 10 ^ 20 else c.ses
    ∃ t, exec (.incrementTake n false) s = .next t ∧ (t.eng n).incs = rest ∧
      (t.chan n).fwd = (if i.rev then c.fwd else (c.fwd + k) % 10 ^ 20) ∧ (t.chan n).rev = (if i.rev then (c.rev + k) % 10 ^ 20 else c.rev) ∧
      (t.chan n).ses = ses ∧ (t.chan n).legal = c.legal ∧
      (t.chan n).sess = (if c.sess = .open ∧ presetValue c.preset ≠ 0 ∧ presetValue c.preset ≤ ses then .stopped else c.sess) ∧
      (∀ j, j ≠ n → t.chan j = s.chan j ∧ t.eng j = s.eng j) ∧ t.cores = s.cores ∧ t.mesh = s.mesh) ∧
  (∀ s n (i : Incr) rest, s.tarnOn = true → s.tarn.reload = none → (s.eng n).incs = i :: rest → (s.chan n).legal ≠ .sealedOut → ∃ t, exec (.incrementTake n true) s = .next t ∧
    (t.eng n).incs = rest ∧ (t.chan n).legal = .out ∧ (t.chan n).fault = 0x11 ∧ (t.chan n).fwd = (s.chan n).fwd ∧ (t.chan n).rev = (s.chan n).rev) ∧
  (∀ s n b, s.tarn.reload.isSome = true → exec (.incrementTake n b) s = .next s) ∧
  (∀ s n, s.tarnOn = true → rateDue s.us (seconds 1) (s.chan n).outLoggedAt = true → (s.chan n).outCount ≠ 0 → let c := s.chan n
    exec (.outsideSessionRecord n) s = .next ((s.tlog 0x0411 n.val 0 (beBytes 4 c.outCount ++ beBytes 6 c.outFirst.toNat ++ beBytes 6 c.outLast.toNat)).modChanKept n
      fun c => { c with outCount := 0, outLoggedAt := some s.us })) ∧
  (∀ s, s.tarnOn = true → ∃ t, exec .totalizerSave s = .next t ∧ t.tarn.savedRtc = s.rtc ∧
    (∀ n, t.chan n = { s.chan n with savedFwd := (s.chan n).fwd, savedRev := (s.chan n).rev, savedSes := (s.chan n).ses }) ∧
    t = { s with tarn := { s.tarn with chans := t.tarn.chans, savedRtc := s.rtc } }) ∧
  (∀ s n, s.tarnOn = true → (s.chan n).mpo = .rest → (s.chan n).backlog ≠ 0 →
    exec (.mpoPulseStart n) s = .next (s.modChan n fun c => { c with mpo := .pulse, backlog := c.backlog - 1 })) ∧
  (∀ s n, ((s.chan n).mpo = .pulse → exec (.mpoPulseEnd n) s = .next (s.modChanKept n fun c => { c with mpo := .gap })) ∧
    ((s.chan n).mpo = .gap → exec (.mpoGapEnd n) s = .next (s.modChanKept n fun c => { c with mpo := .rest })))

/-- Sessions (R66 to R73, R84, R104): OPEN takes a new number, the time, the direction, price and preset and clears SES; FREEZE fixes the
quantity and the totalizer; SIGN queues the record with its amount; SIGNATURE_DONE releases it, and a check that fails twice stops
signing. No other channel changes at OPEN, FREEZE and SIGN. -/
def Obligations.SessionCommands : Prop :=
  (∀ s slot cmd, s.serves slot cmd 1 → let n := chanOf cmd; let c := s.chan n; let dir := bit (s.tmbArg slot 0) 0
    (parsePacked (s.argBytes slot 1 6)).isSome = true → (parsePacked (s.argBytes slot 3 8)).isSome = true →
    s.tarn.signStop = false → s.tarn.keyLost = false → s.boundaryOn = false → s.tarn.unexported < 3008 → c.legal = .isIn → c.sess = .none →
    ∃ t, exec (.tmbOpen slot cmd) s = .next t ∧ t.answered slot cmd .ok [s.tarn.sesCtr + 1] ∧ t.tarn.sesCtr = s.tarn.sesCtr + 1 ∧
      let d := t.chan n
      d.sess = .open ∧ d.session = s.tarn.sesCtr + 1 ∧ d.start = s.rtc ∧ d.dir = dir ∧ beBytes 6 d.uprice.toNat = s.argBytes slot 1 6 ∧
      beBytes 8 d.preset.toNat = s.argBytes slot 3 8 ∧ d.ses = 0 ∧ d.before = (if dir then c.rev else c.fwd) ∧ d.fwd = c.fwd ∧ d.rev = c.rev ∧
      d.legal = .isIn ∧ ∀ j, j ≠ n → t.chan j = s.chan j) ∧
  (∀ s slot cmd, s.serves slot cmd 2 → let n := chanOf cmd; let c := s.chan n
    c.sess = .open ∨ c.sess = .stopped → ∃ t, exec (.freeze slot cmd) s = .next t ∧ t.answered slot cmd .ok [c.session] ∧
      t.chan n = { c with sess := .frozen, endTime := s.rtc, qty := c.ses, after := (if c.dir then c.rev else c.fwd), ucnt := c.ucnt + 2 } ∧
      ∀ j, j ≠ n → t.chan j = s.chan j) ∧
  (∀ s slot cmd, s.serves slot cmd 3 → let n := chanOf cmd; let c := s.chan n; let am := s.argBytes slot 0 8; let a2 := s.tmbArg slot 2
    c.sess = .frozen →
    (∀ am', (a2 = 0 ∧ (parsePacked am).isSome = true ∧ (signNibble am = 0xC ∨ signNibble am = 0xD) ∧ am' = am) ∨
        (a2 = 1 ∧ s.tmbArg slot 0 = 0 ∧ s.tmbArg slot 1 = 0 ∧ am' = unpricedAmount) →
      ∃ t, exec (.sign slot cmd) s = .next t ∧ t.answered slot cmd .ok [] ∧ (t.chan n).sess = .signing ∧
        (t.chan n).body = recordBody n c am' closeComplete (decide (slot = 4)) ∧ t.tarn.queue = s.tarn.queue ++ [n] ∧
        ∀ j, j ≠ n → j ∉ s.tarn.queue → t.chan j = s.chan j)) ∧
  (∀ s n rest, s.tarn.queue = n :: rest → s.tarn.signing = true → s.tarnOn = true → let c := s.chan n
    (∃ t, exec (.signatureDone true) s = .next t ∧ t.tarn.queue = rest ∧ (t.chan n).sess = .none ∧
      (t.chan n).record = c.body ++ (List.range 64).map (Config.sign c.body) ∧ bit (t.reg Reg.tmbEvt) n.val = true) ∧
    (s.tarn.retry = false → exec (.signatureDone false) s = .next (s.modTarn fun t => { t with retry := true })) ∧
    (s.tarn.retry = true → ∃ t, exec (.signatureDone false) s = .next t ∧ t.tarn.signStop = true ∧ t.tarn.signing = false ∧
      t.tarn.queue = s.tarn.queue ∧ t.chan n = s.chan n))

/-- The other mailbox commands (R77, R80, R83, R84, Table 3.6): SETOUT and REEVAL move a channel between IN and OUT, NONCE gives a new
nonce that NONCE_EXPIRY ends, LOGACK moves the export mark, TIMESET logs both times and sets the RTC, a reserved code is answered
RESERVED with no effect, ACK clears DONE.
It rests also on the model's own choices of log 14 and 80. -/
def Obligations.MailboxCommands : Prop :=
  (∀ s slot cmd, s.serves slot cmd 4 → let n := chanOf cmd; (s.chan n).legal = .isIn → (s.chan n).sess = .none →
    ∃ t, exec (.setout slot cmd) s = .next t ∧ t.answered slot cmd .ok [] ∧ t.chan n = { s.chan n with legal := .out, ucnt := (s.chan n).ucnt + 2 } ∧
      ∀ j, j ≠ n → t.chan j = s.chan j) ∧
  (∀ s slot cmd, s.serves slot cmd 5 → let n := chanOf cmd; (s.chan n).legal = .out → (s.chan n).perm = false → s.chanFaultPresent n = false →
    ∃ t, exec (.reeval slot cmd) s = .next t ∧ t.answered slot cmd .ok [] ∧ t.chan n = { s.chan n with legal := .isIn, ucnt := (s.chan n).ucnt + 2 } ∧
      ∀ j, j ≠ n → t.chan j = s.chan j) ∧
  (∀ s slot cmd, s.serves slot cmd 6 → let v := Config.nonce s.free
    ∃ t, exec (.nonce slot cmd) s = .next t ∧ t.answered slot cmd .ok [(v >>> 32).setWidth 32, v.setWidth 32] ∧ t.tarn.nonce = some v ∧
      t.free = s.free + 1 ∧ t.tarn.chans = s.tarn.chans) ∧
  (∀ s, exec .nonceExpiry s = .next (s.modTarn fun t => { t with nonce := none })) ∧
  (∀ s slot cmd, s.serves slot cmd 8 → let q := s.tmbArg slot 0; s.tarn.logExp ≤ q → q ≤ s.tarn.logHead →
    ∃ t, exec (.logack slot cmd) s = .next t ∧ t.answered slot cmd .ok [] ∧ t.tarn.logExp = q + 1 ∧ t.tarn.log = s.tarn.log ∧
      t.tarn.logHead = s.tarn.logHead) ∧
  (∀ s slot cmd, s.serves slot cmd 10 → (s.tmbArg slot 1).toNat < 65536 →
    let v : Time := BitVec.ofNat 48 ((s.tmbArg slot 0).toNat * 65536 + (s.tmbArg slot 1).toNat)
    ∃ t, exec (.timeset slot cmd) s = .next t ∧ t.answered slot cmd .ok [] ∧ t.rtc = v ∧ t.tarn.chans = s.tarn.chans ∧
      (s.tarn.unexported < 3072 → t.tarn.log.head? = some (legalRecord (s.tarn.logHead + 1) s.rtc 0x0408 0xFF 0
        (beBytes 6 s.rtc.toNat ++ beBytes 6 v.toNat) (s.tarn.log.headD [])))) ∧
  (∀ s slot cmd code, s.serves slot cmd code → code = 0 ∨ 10 < code →
    ∃ t, exec (.tmbReservedCode slot cmd) s = .next t ∧ t.answered slot cmd .reserved [] ∧ t.tarn = { s.tarn with lastSlot := slot } ∧
      t = { s with tarn := t.tarn, regs := t.regs }) ∧
  (∀ s m slot, tmbOwner slot m = true → s.takes m (Reg.tmbAck slot.val) 1 →
    exec (.tmbAck m slot 1) s = .next (s.lineEvent fun s => s.clearBits (Reg.tmbRsp slot.val) 0x40000000))

/-- The signed commands (R88 to R90, Table 3.8): with the seal open, the nonce of NONCE, a valid signing key, a signature that verifies and the
type's own condition met, the command has the effect of its type, is answered OK, and consumes the nonce; a type that Table 3.8 does not list
is answered RESERVED.
It rests also on the model's own choices of log 14 and 80. -/
def Obligations.SignedCommands : Prop :=
  (∀ s slot cmd (c : SignedCmd) key, s.serves slot cmd 7 → s.readSigned (s.tmbArg slot 0).toNat = .ok c → s.tarn.sealOpen = true →
    s.tarn.nonce = some c.nonce → s.signedKey c = some key → Config.verify key c.covered c.sig = true → s.signedCondition c = none →
    let p := c.payload; let n := payloadChan c; let k : Fin 4 := Fin.ofNat 4 (p.getD 0 0).toNat; let x := s.chan n
    let does := fun (i : Instr) (f : State → Prop) => ∃ t, exec i s = .next t ∧ t.answered slot cmd .ok [] ∧ t.tarn.nonce = none ∧
      t.tarn.signedCtr = s.tarn.signedCtr + 1 ∧ t.cores = s.cores ∧ f t
    let others := fun t : State => ∀ j, j ≠ n → t.chan j = s.chan j
    (c.type = 1 → does (.enrollKey slot cmd) fun t => t.tarn.keys = s.tarn.keys.set k { state := .valid, pub := BitVec.ofNat 256 (beNat (p.drop 1)) } ∧
      t.tarn.chans = s.tarn.chans) ∧
    (c.type = 2 → does (.revokeKey slot cmd) fun t => t.tarn.keys = s.tarn.keys.set k { s.tarn.keys[k] with state := .revoked } ∧ t.tarn.chans = s.tarn.chans) ∧
    (c.type = 3 → does (.setConstants slot cmd) fun t => others t ∧ (t.eng n).mc = (t.chan n).mc ∧
      (∀ i : Fin 8, (t.chan n).mc[i] = BitVec.ofNat 32 (beNat ((p.drop (2 + 4 * i.val)).take 4))) ∧
      t.chan n = { x with src := decide (p.getD 1 0 = 1), mc := (t.chan n).mc, mpoCfg := BitVec.ofNat 32 (beNat (p.drop 34)), valid := true, ucnt := x.ucnt + 2 }) ∧
    (c.type = 4 → does (.setCnvFactors slot cmd) fun t => let u : Cnv := Fin.ofNat 2 (p.getD 0 0).toNat
      t.tarn.chans = s.tarn.chans ∧ ∀ g : Fin 6, (t.tarn.factors[u])[g] = factorWords p g.val ∧
        t.reg (Reg.cnvLoff u.val g.val) = (factorWords p g.val).1 ∧ t.reg (Reg.cnvLgain u.val g.val) = (factorWords p g.val).2) ∧
    (c.type = 5 → does (.channelIn slot cmd) fun t => others t ∧
      t.chan n = { x with legal := if x.legal = .sealedOut then .isIn else x.legal, ucnt := x.ucnt + 2 }) ∧
    (c.type = 6 → does (.channelSealedOut slot cmd) fun t => others t ∧ t.chan n = { x with legal := .sealedOut, ucnt := x.ucnt + 2 }) ∧
    (c.type = 7 → does (.clearTamper slot cmd) fun t => t.tarn.meshLatched = false ∧ t.tarn.chans = s.tarn.chans) ∧
    (c.type = 8 → does (.debugEnable slot cmd) fun t => t.tarn.debugLeft = beNat p ∧ t.tarn.chans = s.tarn.chans)) ∧
  (∀ s slot cmd ty, s.serves slot cmd 7 → let a := (s.tmbArg slot 0).toNat
    s.signedType a = some ty → signedLength ty = none → s.nvBad a 16 = false →
    ∃ t, exec (.signedReservedType slot cmd) s = .next t ∧ t.answered slot cmd .reserved [] ∧ t.tarn = { s.tarn with lastSlot := slot } ∧
      t = { s with tarn := t.tarn, regs := t.regs })

/-- RELOAD (R52, R102, R134, R135, R148, R149, R608, R615): with an image that verifies, the recorded digest or the seal open, the engine goes to
LOAD with the image in its store and the slot stays BUSY, another command waits meanwhile; a verification that matches is marked, one that fails
leaves the engine HELD and the channel OUT with 05h; RELOAD_DONE starts the engine and answers OK, and what has waited is served. A start-up load
that passes its check releases the engine.
It rests also on the model's own choices of log 14, 15 and 80. -/
def Obligations.ReloadCommands : Prop :=
  (∀ s slot cmd b h, s.serves slot cmd 9 → let n := chanOf cmd; let a := mcodeCopy n b
    (s.tmbArg slot 0).toNat = a → (s.chan n).sess = .none → (s.chan n).perm = false → s.reloadSpent n = false → s.nvBad a 0x6200 = false →
    (s.eng n).incs = [] → verifyImage s (nvlByte s) typeMcode a = .ok h → (s.eng n).digest = some h.digest ∨ s.tarn.sealOpen = true →
    ∃ t, exec (.reload slot cmd) s = .next t ∧ (t.eng n).runst = .load ∧ (t.eng n).store = loadStore (nvlByte s) (a + 0xC0) h.load ∧
      t.tarn.reload = some { slot, tag := BitVec.ofNat 8 (field cmd 16 8), chan := n, addr := a, verified := false } ∧
      t.reg (Reg.tmbRsp slot.val) = BitVec.ofNat 32 (2 ^ 31 + field cmd 16 8 * 65536) ∧ ∀ j, j ≠ n → t.eng j = s.eng j ∧ t.chan j = s.chan j) ∧
  (∀ s slot cmd, s.tarnOn = true → s.tarn.reload.isSome = true → bit (s.reg (Reg.tmbRsp slot.val)) 31 = false → s.power.entry = 0 → field cmd 0 8 = 2 →
    ∃ t, exec (.freeze slot cmd) s = .next t ∧ t.tarn = { s.tarn with waiting := s.tarn.waiting.set slot (some cmd) } ∧
      t.reg (Reg.tmbRsp slot.val) = BitVec.ofNat 32 (2 ^ 31 + field cmd 16 8 * 65536)) ∧
  (∀ s n, (s.eng n).checking = true →
    ((s.eng n).storeGood = true → exec (.loadVerifyDone n true) s = .next (s.modEng n fun e => e.started (s.chan n).mc)) ∧
    ∀ ok, ok = false ∨ (s.eng n).storeGood = false → ∃ t, exec (.loadVerifyDone n ok) s = .next t ∧ (t.eng n).runst = .held ∧ (t.chan n).fault = 5) ∧
  (∀ s n (r : Reload), s.tarn.reload = some r → r.chan = n → (s.eng n).checking = false →
    (r.verified = false → (s.eng n).storeGood = true →
      exec (.loadVerifyDone n true) s = .next (s.modTarn fun t => { t with reload := some { r with verified := true } })) ∧
    (∀ ok, ok = false ∨ (s.eng n).storeGood = false → r.verified = false → (s.chan n).legal ≠ .sealedOut →
      ∃ t : State, exec (.loadVerifyDone n ok) s = .next t.serveWaiting ∧ (t.eng n).runst = .held ∧
        (t.chan n).legal = .out ∧ (t.chan n).fault = 5 ∧ t.tarn.reload = none ∧ t.tarn.waiting = s.tarn.waiting ∧
        t.reg (Reg.tmbRsp r.slot.val) = BitVec.ofNat 32 (2 ^ 30 + r.tag.toNat * 65536 + tmbCode .nvFault)) ∧
    (r.verified = true → let h := imageHead (nvlByte s) r.addr
      ∃ t : State, exec (.reloadDone n) s = .next t.serveWaiting ∧ (t.eng n).runst = .run ∧ (t.eng n).mc = (s.chan n).mc ∧
        (t.eng n).digest = some h.digest ∧ (t.eng n).store = (s.eng n).store ∧ t.tarn.reload = none ∧ t.tarn.waiting = s.tarn.waiting ∧
        t.reg (Reg.tmbRsp r.slot.val) = BitVec.ofNat 32 (2 ^ 30 + r.tag.toNat * 65536 + tmbCode .ok)))

/-- Seal, mesh, case and Tarn's faults (R52, R83, R87, R91 to R94, R101, R103, R105, R187): the third mismatch in a row latches a mesh break, which
seals every channel out; SEAL_N and CASE_N are logged; pin events wait for the end of a RELOAD; an engine's notice takes its channel OUT, a
converter's its four channels; the loss of the device key seals every channel out; the TCLK watchdog stops Tarn; a start acts on the losses it
finds and answers every slot left BUSY.
It rests also on the model's own choices of log 13, 15, 32 and 80. -/
def Obligations.TamperAndTarnFaults : Prop :=
  (∀ s o, s.tarnOn = true → s.tarn.reload.isSome = true →
    exec (.sealChange o) s = .next (s.modTarn fun t => { t with pins := t.pins ++ [.sealPin o] })) ∧
  (∀ s o, s.tarnOn = true → s.tarn.reload = none → s.tarn.sealOpen ≠ o → s.power.entry = 0 → ∃ t, exec (.sealChange o) s = .next t ∧ t.tarn.sealOpen = o ∧
    bit (t.reg Reg.tmbEvt) 17 = true ∧ t.tarn.chans = s.tarn.chans ∧ (o = false → t.tarn.debugLeft = 0)) ∧
  (∀ s b0 b1, s.tarnOn = true → s.tarn.reload = none → s.power.ps < 4 → s.tarn.meshLatched = false →
    ((b0 = false ∨ s.tarn.meshBad0 < 2) → (b1 = false ∨ s.tarn.meshBad1 < 2) → exec (.meshCompare b0 b1) s = .next (s.modTarn fun t => { t with
      meshBad0 := if b0 then t.meshBad0 + 1 else 0, meshBad1 := if b1 then t.meshBad1 + 1 else 0, meshBroken := b0 || b1 })) ∧
    ((b0 = true ∧ 2 ≤ s.tarn.meshBad0) ∨ (b1 = true ∧ 2 ≤ s.tarn.meshBad1) → ∃ t, exec (.meshCompare b0 b1) s = .next t ∧
      t.tarn.meshLatched = true ∧ bit (t.reg Reg.tmbEvt) 18 = true ∧ t.tarn.debugLeft = 0 ∧ ∀ n, (t.chan n).legal = .sealedOut ∧
        ((s.chan n).sess = .open ∨ (s.chan n).sess = .stopped → (t.chan n).sess = .signing ∧ n ∈ t.tarn.queue))) ∧
  (∀ s o, s.tarnOn = true → s.tarn.reload = none → s.power.ps < 4 → s.tarn.caseOpen ≠ o → ∃ t, exec (.caseChange o) s = .next t ∧ t.tarn.caseOpen = o ∧
    (∀ n, (t.chan n).legal = (s.chan n).legal ∧ (t.chan n).sess = (s.chan n).sess ∧ (o = true → (s.chan n).sess = .open → (t.chan n).caseSeen = true))) ∧
  (∀ s, 4 ≤ s.power.ps → exec (.lowPowerComparatorBreak .mesh) s = .next ((s.modTarn fun t => { t with lateMesh := true }).wake .tamp) ∧
    exec (.lowPowerComparatorBreak .caseChange) s = .next ((s.modTarn fun t => { t with lateCase := true }).wake .tamp)) ∧
  (∀ s c k b v, let m := Master.lc c k b; s.takes m Reg.tmbXdiag v →
    exec (.tmbXdiagWrite m v) s = .next (s.lineEvent fun s => (s.stored Reg.tmbXdiag v).expertLog Reg.tmbXdiag v)) ∧
  (∀ s n, s.tarnOn = true → bit (s.reg Reg.tmbXdiag) n.val = true → (s.chan n).legal = .out → (s.chan n).sess = .none →
    exec (.xdiagTestPulse n true) s = .next (s.modChanKept n fun c => { c with testPulse := true })) ∧
  (∀ s n, exec (.xdiagTestPulse n false) s = .next (s.modChanKept n fun c => { c with testPulse := false })) ∧
  (∀ s n code rest, s.tarn.notices = .engine n code :: rest → s.tarnOn = true → (s.eng n).incs = [] → (s.chan n).legal ≠ .sealedOut →
    ∃ t, exec .faultNotice s = .next t ∧ t.tarn.notices = rest ∧ (t.chan n).legal = .out ∧ (t.chan n).fault = code ∧
      ((s.chan n).sess = .open → (t.chan n).sess = .signing) ∧ (t.chan n).fwd = (s.chan n).fwd ∧
      (t.chan n).perm = ((s.chan n).perm || !(within s.us (hours 24) (s.chan n).faultTimes).isEmpty)) ∧
  (∀ s u p rest, s.tarn.notices = .converter u p :: rest → s.tarnOn = true → ∃ t, exec .faultNotice s = .next t ∧ t.tarn.notices = rest ∧
    ∀ n, (cnvOf n = u → (s.chan n).legal ≠ .sealedOut → (t.chan n).legal = .out ∧ (t.chan n).fault = 0x10 ∧
        (t.chan n).perm = ((s.chan n).perm || p)) ∧
      (cnvOf n ≠ u → (t.chan n).legal = (s.chan n).legal)) ∧
  (∀ s, s.tarnOn = true → exec (.tarnCopyLoss .one) s = .next ((s.tlog 0x0440 0xFF 0 []).healthNotice 0x50 .worn false 0x0440) ∧
    (∀ n, exec (.tarnCopyLoss (.channel n)) s = .next ((s.modChan n fun c => { c with legal := .sealedOut, perm := true }).tlog 0x0441 n.val 0 [])) ∧
    ∃ t, exec (.tarnCopyLoss .deviceKey) s = .next t ∧ t.tarn.keyLost = true ∧ t.tarn.signing = false ∧ ∀ n, (t.chan n).legal = .sealedOut) ∧
  (∀ s, s.power.ps ≠ 5 → exec .tclkWatchdog s = .next (s.modTarn fun t => { t with tclkStopped := true, running := false })) ∧
  (∀ s loss, s.tarnOn = false → exec (.tarnCopyLoss loss) s = .next (s.modTarn fun t => { t with losses := t.losses ++ [loss] })) ∧
  (∀ s o k m, s.tarnOn = false → s.power.stage ≠ .off → ∃ t, exec (.tarnStart o k m) s = .next t ∧ t.tarnOn = true ∧ t.tarn.sealOpen = o ∧
    t.tarn.caseOpen = k ∧ t.tarn.meshBroken = m ∧ t.tarn.debugLeft = 0 ∧ t.tarn.losses = [] ∧
    (.deviceKey ∈ s.tarn.losses → t.tarn.keyLost = true) ∧
    (∀ n, (s.chan n).valid = false ∨ .channel n ∈ s.tarn.losses → (t.chan n).legal = .sealedOut) ∧
    (∀ n, (s.eng n).incs = [] → (t.chan n).fwd = (s.chan n).fwd ∧ (t.chan n).rev = (s.chan n).rev) ∧
    (∀ n, (t.chan n).sess ≠ .open ∧ (t.chan n).sess ≠ .stopped) ∧ (s.power.entry ≠ 6 → ∀ n, (t.eng n).runst = .held) ∧
    ∀ slot : Slot, let a := Reg.tmbRsp slot.val
      bit (s.reg a) 31 = true → t.reg a = BitVec.ofNat 32 (2 ^ 30 + field (s.reg a) 16 8 * 65536 + tmbCode .refused))


/-! ### Channel engines (spec/04) -/

/-- MICROWORD and MICRO_HELD_COMPLETE (R110 to R113, R117, R119, R124, R125, R129, R144): a word takes all its effects together; a waiting word
of an EVENT engine is held until its condition holds; a STRICT engine traps on it at vector 6; a word with two flipped bits is hard fault 01h,
and an illegal word 03h, run on in post-mortem at vector 7. -/
def Obligations.Microwords : Prop :=
  (∀ s n (d : BitVec 96), let e := s.eng n; let w := mword d
    EngineReady s n → e.runst = .run → e.heldWord = none → (e.word e.upc).errors = 0 → (e.word e.upc).data = d →
    (wordPlain s n w → w.wait = false ∨ (s.condHolds n w.cond = true ∧ e.event = true) →
      ∃ t, exec (.microword n) s = .next t ∧ WordDone s t n w) ∧
    (e.illegal w = false → w.wait = true → s.condHolds n w.cond = false → e.event = true →
      exec (.microword n) s = .next (s.modEng n fun e => { e with runst := .wait, heldWord := some d })) ∧
    (e.illegal w = false → w.wait = true → e.event = false → ∃ t, exec (.microword n) s = .next t ∧ (t.eng n).upc = 14 ∧
      (t.eng n).inHandler = true ∧ (t.eng n).shadow.upc = e.upc ∧ (t.eng n).shadow.latch = e.latch ∧ (t.eng n).g = e.g) ∧
    (e.illegal w = true → ∃ t, exec (.microword n) s = .next t ∧ (t.eng n).upc = 15 ∧ (t.eng n).postMortem = true ∧ (t.eng n).fcode = 3 ∧
      t.tarn.notices = s.tarn.notices ++ [.engine n 3] ∧ bit (t.reg (Reg.ceEvt n.val)) 2 = true)) ∧
  (∀ s n (d : BitVec 96), let w := mword d
    EngineReady s n → (s.eng n).runst = .wait → (s.eng n).heldWord = some d → wordPlain s n w → w.mem ≠ 4 →
    (w.wait = true → s.condHolds n w.cond = true) → ∃ t, exec (.microHeldComplete n) s = .next t ∧ WordDone s t n w) ∧
  (∀ s n, EngineReady s n → (s.eng n).runst = .run → (s.eng n).heldWord = none → 2 ≤ ((s.eng n).word (s.eng n).upc).errors →
    ∃ t, exec (.microword n) s = .next t ∧ (t.eng n).runst = .fault ∧ (t.eng n).fcode = 1 ∧ (t.eng n).g = (s.eng n).g ∧
      t.tarn.notices = s.tarn.notices ++ [.engine n 1] ∧ bit (t.reg (Reg.ceEvt n.val)) 2 = true)

/-- The ALU of Table 4.5 (R113): sums and differences with carry and signed overflow, C being "no borrow" for a difference, saturation with
SAT, the logical operations, the products, MAC and MSU on the 64-bit accumulator, and the signed minimum, maximum and absolute value. -/
def Obligations.AluOperations : Prop :=
  ∀ (a b k : Word) (c sat : Bool) (acc : BitVec 64),
    (alu 2 a b k c false acc).res = a + b ∧ (alu 2 a b k c sat acc).carry = some (decide (2 ^ 32 ≤ a.toNat + b.toNat)) ∧
    (alu 3 a b k c false acc).res = a + b + (if c then 1 else 0) ∧ (alu 4 a b k c false acc).res = a - b ∧
    (alu 4 a b k c sat acc).carry = some (decide (b.toNat ≤ a.toNat)) ∧
    (alu 4 a b k c sat acc).ovf = some (decide (a.toInt - b.toInt < -2147483648 ∨ 2147483647 < a.toInt - b.toInt)) ∧
    (alu 4 a b k c true acc).res.toInt = max (-2147483648) (min 2147483647 (a.toInt - b.toInt)) ∧
    (alu 2 a b k c true acc).res.toInt = max (-2147483648) (min 2147483647 (a.toInt + b.toInt)) ∧
    (alu 5 a b k c false acc).res = a - b - (if c then 0 else 1) ∧
    (alu 6 a b k c sat acc).res = a &&& b ∧ (alu 7 a b k c sat acc).res = a ||| b ∧ (alu 8 a b k c sat acc).res = a ^^^ b ∧
    (alu 9 a b k c sat acc).res = ~~~ a ∧ (alu 0xA a b k c sat acc).res = a * b ∧
    (alu 0xC a b k c sat acc).res.toNat = a.toNat * b.toNat / 2 ^ 32 ∧
    (alu 0xD a b k c false acc).acc.map (·.1) = some (acc + a.signExtend 64 * b.signExtend 64) ∧
    (alu 0xE a b k c false acc).acc.map (·.1) = some (acc - a.signExtend 64 * b.signExtend 64) ∧
    (alu 0x11 a b k c sat acc).acc = some (a ++ b, false) ∧
    (alu 0x12 a b k c sat acc).res.toInt = min a.toInt b.toInt ∧ (alu 0x13 a b k c sat acc).res.toInt = max a.toInt b.toInt ∧
    (alu 0x14 a b k c true acc).res.toInt = min 2147483647 (a.toInt.natAbs : Int) ∧ (alu 0x15 a b k c sat acc).res = k ∧
    (alu 0x16 a b k c false acc).res = a + k ∧ (alu 0x17 a b k c false acc).res = a - k ∧ (alu 0x18 a b k c sat acc).res = a &&& k ∧
    (alu 0x19 a b k c sat acc).res = a ||| k

/-- The engine's own events (R114, R120, R125, R128, R130, R138, R142): TICK reaching the compare value sets TCMPH, and takes the timer trap at
vector 3 when it is armed; the end of a post-mortem halts the engine; the scrubber corrects one flipped bit and faults on two, whatever the engine does; pulses
count by QMODE, and a quadrature pair that changes both levels sets QERR; CE_HPARAM makes HOSTP true; CE_XINJ flips one stored bit of
an engine that is OUT without a session.
It rests also on the model's own choices of log 25. -/
def Obligations.EngineEvents : Prop :=
  (∀ s n, let e := s.eng n
    s.engineClocked = true → e.wq = [] → e.pending = 0 → e.postMortem = false →
    (e.armed = false → exec (.tickCompare n) s = .next (s.modEng n fun e => { e with
      tick := e.cmp, tcmph := true, pmLeft := e.pmLeft - ((e.cmp - e.tick - 1).toNat + 1) })) ∧
    (e.armed = true → e.masked = false → e.inHandler = false → e.runst = .run → e.heldWord = none →
      ∃ t, exec (.tickCompare n) s = .next t ∧ (t.eng n).upc = 11 ∧ (t.eng n).inHandler = true ∧ (t.eng n).shadow.upc = e.upc ∧
        (t.eng n).armed = false ∧ (t.eng n).pending = 0 ∧ ∀ j, j ≠ n → t.eng j = s.eng j)) ∧
  (∀ s n, (s.eng n).postMortem = true → exec (.postMortemTimeout n) s = .next (s.modEng n fun e => { e with
    runst := .fault, postMortem := false, pmLeft := 0, heldWord := none })) ∧
  (∀ s n, let e := s.eng n; let w := e.word e.scrub
    s.engineClocked = true → e.runst ≠ .load →
    (w.errors = 0 → exec (.scrubRead n) s = .next (s.modEng n fun e => { e with scrub := e.scrub + 1 })) ∧
    (w.errors = 1 → ∃ t, exec (.scrubRead n) s = .next t ∧ (t.eng n).scrub = e.scrub + 1 ∧ (t.eng n).word e.scrub = { w with flips := 0 } ∧
      (∀ a, a ≠ e.scrub → (t.eng n).word a = e.word a) ∧ (t.eng n).runst = e.runst ∧ bit (t.reg (Reg.ceEvt n.val)) 0 = true) ∧
    (2 ≤ w.errors → e.runst ≠ .fault → ∃ t, exec (.scrubRead n) s = .next t ∧ (t.eng n).runst = .fault ∧
      (t.eng n).fcode = 2 ∧ (t.eng n).postMortem = false ∧ t.tarn.notices = s.tarn.notices ++ [.engine n 2])) ∧
  (∀ s n a b, let e := s.eng n; s.power.stage ≠ .off → s.power.entry < 7 →
    (e.qmode = 1 → exec (.pulseLevelChange n a b) s = .next (if a = true ∧ e.qa = false then
      s.modEng n fun e => { e with qa := a, qb := b, count := e.count + 1, edgeTick := e.tick, qedge := true }
      else s.modEng n fun e => { e with qa := a, qb := b })) ∧
    (e.qmode = 3 → a = true → e.qa = false → exec (.pulseLevelChange n a b) s = .next (s.modEng n fun e => { e with
      qa := a, qb := b, count := if b then e.count - 1 else e.count + 1, edgeTick := e.tick, qedge := true })) ∧
    (e.qmode = 2 → e.qa ≠ a → e.qb ≠ b → exec (.pulseLevelChange n a b) s = .next ((s.modEng n fun e => { e with qa := a, qb := b }).setBits
      (Reg.ceStat n.val) 0x20))) ∧
  (∀ s m n v, s.takes m (Reg.ceHparam n.val) v →
    exec (.ceHparamWrite m n v) s = .next (s.lineEvent fun s => (s.setReg (Reg.ceHparam n.val) v).modEng n fun e => { e with hostp := true })) ∧
  (∀ s m n v, s.takes m (Reg.ceXinj n.val) v → field v 16 7 ≤ 103 → (s.chan n).legal = .out → (s.chan n).sess = .none → bit v 24 = true →
    let w : BitVec 11 := BitVec.ofNat 11 (field v 0 11)
    exec (.ceXinjWrite m n v) s = .next (s.lineEvent fun s => ((s.stored (Reg.ceXinj n.val) v).modEng n fun e =>
      e.setWord w { e.word w with flips := (e.word w).flips ^^^ BitVec.ofNat 104 (2 ^ field v 16 7) }).expertLog (Reg.ceXinj n.val) v))

/-! ### Converters (spec/05) -/

/-- Starts and sequences (R152, R155 to R158, R168, R174, R175): a start of an idle converter copies the entries and begins the first; one that
finds a sequence running waits, and one that finds another waiting sets SMISS; a TRIG edge starts its delay and every engine's TRIGE; a
conversion's corrected result enters its channel's queue, and the sequence goes on to the next entry or ends with SEQDONE; the slow timer
runs its own sequence in Still. An entry takes CNV_TDAC and its factors as it begins to sample (R155, R169), and an injection switch is closed only while
its entry samples (R171).
It rests also on the model's own choices of log 16. -/
def Obligations.ConverterSequences : Prop :=
  (∀ s m u, let c := s.cnv u
    s.takes m (Reg.cnvCmd u.val) 1 → s.cnvStopped = false → bit (s.reg (Reg.cnvCtrl u.val)) 4 = true → s.still = false → c.calHeld = false →
    (c.state = .ready → c.seq = none → c.work = none → c.urgents = [] → exec (.cnvStart m u) s = .next (s.lineEvent fun s =>
      s.modCnv u fun c => { c with
        state := .run, seq := some { kind := .soft, entries := s.seqEntries u (s.cnvLen u), pos := 0, aborts := 0 }, seqn := c.seqn + 1,
        work := some (.seqEntry (s.reg (Reg.cnvSeq u.val 0)) 0 0, false), cap := s.entryCap u (s.reg (Reg.cnvSeq u.val 0)) })) ∧
    (∀ q, c.state = .run → c.seq = some q → exec (.cnvStart m u) s = .next (s.lineEvent fun s =>
      if c.pendingStart.isSome then s.setBits (Reg.cnvStat u.val) 0x10 else s.modCnv u fun c => { c with pendingStart := some .soft })) ∧
    (∀ w k b, c.state = .ready → c.seq = none → c.work = some (.urgent w k, b) → c.pendingStart = none → exec (.cnvStart m u) s =
      .next (s.lineEvent fun s => s.modCnv u fun c => { c with pendingStart := some .soft }))) ∧
  (∀ s t rising, ∃ s', exec (.trigEdge t rising) s = .next s' ∧ s'.side = { s.side with trig := s.side.trig.set t rising } ∧
    (∀ n, s'.eng n = { s.eng n with trige := true }) ∧ s'.tarn = s.tarn ∧
    ∀ u, s'.cnv u = if (match field (s.reg (Reg.cnvCtrl u.val)) 8 2 with | 0 => rising | 1 => !rising | 2 => true | _ => false) = true ∧
        bit (s.reg (Reg.cnvCtrl u.val)) (5 + t.val) = true ∧ s.cnvLive u = true
      then { s.cnv u with trigDelay := true } else s.cnv u) ∧
  (∀ s u, let c := s.cnv u; c.trigDelay = true → s.cnvStopped = false → s.still = false → c.calHeld = false → c.state = .ready → c.seq = none →
    c.work = none → c.urgents = [] → exec (.trigDelayEnd u) s = .next (s.modCnv u fun c => { c with
      trigDelay := false, state := .run, seq := some { kind := .trig, entries := s.seqEntries u (s.cnvLen u), pos := 0, aborts := 0 },
      seqn := c.seqn + 1, work := some (.seqEntry (s.reg (Reg.cnvSeq u.val 0)) 0 0, false)
      cap := s.entryCap u (s.reg (Reg.cnvSeq u.val 0)) })) ∧
  (∀ s u, exec (.samplingEnd u) s = .next (s.modCnv u fun c => { c with work := c.work.map fun w => (w.1, true) })) ∧
  (∀ s u e k ab q raw, let c := s.cnv u; let j : Fin 4 := Fin.ofNat 4 (field e 16 2)
    c.work = some (.seqEntry e k ab, true) → c.seq = some q → c.urgents = [] → c.state = .run → s.cnvStopped = false →
    field e 18 2 = 0 → (s.eng (entryChan u e)).runst = .run → c.queues[j].length < 16 →
    ∃ t, exec (.conversionDone u raw) s = .next t ∧ (t.cnv u).queues = c.queues.set j (c.queues[j] ++ [s.resultOf u e k false raw]) ∧
      (q.pos + 1 < q.entries.length → (t.cnv u).seq = some { q with pos := q.pos + 1, aborts := 0 } ∧
        (t.cnv u).work = some (.seqEntry (q.entries.getD (q.pos + 1) 0) (q.pos + 1) 0, false) ∧
        (t.cnv u).cap = s.entryCap u (q.entries.getD (q.pos + 1) 0) ∧ t.engines = s.engines) ∧
      (q.entries.length ≤ q.pos + 1 → s.still = false → c.pendingStart = none → c.calHeld = false → (t.cnv u).seq = none ∧ (t.cnv u).work = none ∧
        (t.cnv u).state = .ready ∧ bit (t.reg (Reg.cnvEvt u.val)) 0 = true ∧ ∀ n, cnvOf n = u → (t.eng n).seqdone = true)) ∧
  (∀ s u, let c := s.cnv u; let r := s.reg (Reg.cnvSlow u.val)
    s.still = true → s.cnvStopped = false → c.state = .ready → field r 16 16 ≠ 0 → c.seq = none → c.work = none → c.urgents = [] →
    exec (.slowSequenceTimer u) s = .next (s.modCnv u fun c => { c with
      pendingStart := (match c.pendingStart with | some (.engines _) => none | k => k), state := .run
      seq := some { kind := .slow, entries := s.seqEntries u (field r 0 4), pos := 0, aborts := 0 }, seqn := c.seqn + 1
      work := some (.seqEntry (s.reg (Reg.cnvSeq u.val 0)) 0 0, false), cap := s.entryCap u (s.reg (Reg.cnvSeq u.val 0)) })) ∧
  -- the TDAC as source and as injection, with the settings that the entry took (R155, R170, R171)
  (∀ (s : State) u (input : Fin 8) neg w, let r := (s.cnv u).cap.tdac; let code := field r 0 10; let att := field r 10 3
    (s.cnv u).sampling = some w → att ≤ 5 →
    (field w 0 4 = 12 → ∃ v, s.internalSource u = some v ∧ v * (2 ^ att * 512) = ((code : Int) - 512) * 16384) ∧
    (s.injected u input neg = if field w 0 4 = input.val ∧ field w 20 2 = (if neg then 2 else 1) then some (code * 16384 / 1024) else none)) ∧
  (∀ (s : State) u input neg, (s.cnv u).sampling = none → s.internalSource u = none ∧ s.injected u input neg = none)

/-- Urgent entries, calibration and faults (R159 to R167, R179, R186 to R189): an urgent entry aborts a sequence entry and runs first, and a fifth
waiting one is dropped; a surge raises its entry and holds; CALFULL runs 16 steps of 128 conversions and replaces the factors together, or
faults with CALRANGE; a first fault is FAULT and a second within 24 h PERMFAULT, with the notices to Tarn and the health table.
It rests also on the model's own choices of log 16. -/
def Obligations.ConverterCalibrationAndFaults : Prop :=
  (∀ s u (e : Fin 16), let c := s.cnv u; s.cnvLive u = true →
    (∀ w k ab b q, c.urgents = [] → c.work = some (.seqEntry w k ab, b) → ab < 2 → c.state = .run → c.seq = some q →
      let w' := s.reg (Reg.cnvSeq u.val e.val)
      exec (.urgentArrival u (.tarn e)) s = .next (s.modCnv u fun c =>
        { c with seq := some { q with aborts := q.aborts + 1 }, work := some (.urgent w' e.val, false), cap := s.entryCap u w' })) ∧
    (∀ w k b, c.work = some (.urgent w k, b) → c.urgents.length < 4 →
      exec (.urgentArrival u (.tarn e)) s = .next (s.modCnv u fun c => { c with urgents := c.urgents ++ [e.val] })) ∧
    (4 ≤ c.urgents.length → ∃ t, exec (.urgentArrival u (.tarn e)) s = .next t ∧ t.cnvs = s.cnvs ∧ bit (t.reg (Reg.cnvStat u.val)) 3 = true ∧
      bit (t.reg (Reg.cnvEvt u.val)) 4 = true)) ∧
  (∀ s u input diff, let c := s.cnv u; let r := s.reg (Reg.cnvSurge u.val); let e := field r 12 4; let w := s.reg (Reg.cnvSeq u.val e)
    (bit r 3 = true → c.surgeHold = false → field r 0 3 = input.val → field r 4 8 * 256 ≤ diff.natAbs → s.cnvStopped = false → c.state = .ready →
      c.seq = none → c.work = none → c.urgents = [] → exec (.surgeCrossing ⟨u, input, diff⟩) s = .next ((s.setBits (Reg.cnvEvt u.val) 0x20).modCnv u fun c =>
        { c with surgeHold := true, work := some (.urgent w e, false), cap := s.entryCap u w })) ∧
    ((bit r 3 = false ∨ c.surgeHold = true ∨ field r 0 3 ≠ input.val ∨ diff.natAbs < field r 4 8 * 256) →
      exec (.surgeCrossing ⟨u, input, diff⟩) s = .next s)) ∧
  (∀ s u, exec (.surgeHoldEnd u) s = .next (s.modCnv u fun c => { c with surgeHold := false })) ∧
  (∀ s m u v, s.takes m (Reg.cnvXsurge u.val) v → s.groupInSession u = false →
    exec (.cnvXsurgeWrite m u v) s = .next (s.lineEvent fun s => let r := s.stored (Reg.cnvXsurge u.val) v
      (if bit v 0 then r.surgeFire u else r).expertLog (Reg.cnvXsurge u.val) v)) ∧
  (∀ s m u, let c := s.cnv u; s.takes m (Reg.cnvCmd u.val) 2 →
    (s.groupInSession u = true → exec (.calfull m u) s = .next (s.lineEvent fun s => s.setBits (Reg.cnvStat u.val) 0x20)) ∧
    (s.groupInSession u = false → s.cnvStopped = false → s.power.refFault = false → c.state = .ready → c.calHeld = false → c.work = none →
      c.urgents = [] → c.seq = none → exec (.calfull m u) s = .next (s.lineEvent fun s => s.modCnv u fun c => { c with
        state := .cal, calStep := 0, calConv := 0, calRestarts := 0, bgConv := 0, work := some (.calStep, false) }))) ∧
  (∀ s u f b, let c := s.cnv u; c.work = some (.calStep, b) → c.state = .cal → s.cnvStopped = false → c.urgents = [] →
    (c.calConv + 1 < 128 → exec (.calConversionDone u f) s = .next (s.modCnv u fun c => { c with
      calConv := c.calConv + 1, work := some (.calStep, false) })) ∧
    (c.calConv = 127 → c.calStep + 1 < 16 → exec (.calConversionDone u f) s = .next (s.modCnv u fun c => { c with
      calConv := 0, calRestarts := 0, calStep := c.calStep + 1, work := some (.calStep, false) })) ∧
    (c.calConv = 127 → c.calStep = 15 → factorsOk f = true → c.seq = none → c.pendingStart = none → c.calHeld = false →
      ∃ t, exec (.calConversionDone u f) s = .next t ∧ (t.cnv u).state = .ready ∧ (t.cnv u).calDone = c.calDone + 1 ∧
        bit (t.reg (Reg.cnvEvt u.val)) 1 = true ∧ ∀ g, g < 6 → t.reg (Reg.cnvCaloff u.val g) = f.getD (2 * g) 0 ∧
          t.reg (Reg.cnvCalgain u.val g) = f.getD (2 * g + 1) 0) ∧
    (c.calConv = 127 → c.calStep = 15 → factorsOk f = false → ∃ t, exec (.calConversionDone u f) s = .next t ∧ (t.cnv u).fcause = 2 ∧
      (t.cnv u).faulty = true)) ∧
  (∀ s u, let c := s.cnv u; bit (s.reg (Reg.cnvCtrl u.val)) 10 = true → s.cnvLive u = true → c.state = .ready → c.work = none → c.seq = none →
    c.pendingStart = none → c.urgents = [] → c.calHeld = false →
    exec (.bgcalConversionStart u) s = .next (s.modCnv u fun c => { c with work := some (.background, false) })) ∧
  (∀ s u, let c := s.cnv u; let perm := !(within s.us (hours 24) c.faultTimes).isEmpty
    let faulted := fun (t : State) (cause : Nat) => (t.cnv u).state = (if perm then .permFault else .fault) ∧ (t.cnv u).fcause = cause ∧
      (t.cnv u).work = none ∧ (t.cnv u).seq = none ∧ (t.cnv u).queues = Vector.replicate 4 [] ∧ bit (t.reg (Reg.cnvEvt u.val)) 3 = true ∧
      Notice.converter u perm ∈ t.tarn.notices
    c.faulty = false →
    (∀ w, c.work = some (w, true) → ∃ t, exec (.conversionWatchdog u) s = .next t ∧ faulted t 1) ∧
    (∀ n v, cnvOf n = u → s.takes (.ce n) (Reg.cnvDeclare u.val) v → field v 0 8 = 0xA5 →
      ∃ t, exec (.cnvDeclareWrite (.ce n) u v) s = .next t ∧ faulted t 5) ∧
    (c.state ≠ .off → ∃ t, exec .referenceFault s = .next t ∧ faulted t 3))

/-! ### Nonvolatile ledger array (spec/12) -/

/-- Commit groups and the array's upkeep (R426 to R433, R439 to R442, R444): OPEN takes an IDLE slot while the limits allow, CLOSE queues it, ABORT and the
close of an overflowed group end it with their results; a sealed group becomes durable in the order of the CLOSE commands and its words reach the
array together, in the order in which groups became durable. A discharge test gives the capacitance and the energy, GMAX is the largest count of
groups up to GROUPS whose 380 + 30 g microjoules it holds, and a block copied to a spare takes one from the spares.
It rests also on the model's own choices of log 17. -/
def Obligations.GroupsAndNvlaMaintenance : Prop :=
  (∀ s c k, let g := s.nvla.groups[c]
    (g.state = .idle → s.openGroups < s.nvla.gmax → 11500 ≤ s.holdMilli → s.nvla.refuseOpen = false →
      exec (.cgOpen c k) s = .next (s.modGroup c fun g => { g with state := .open, owner := k, words := [] })) ∧
    (g.state ≠ .idle → exec (.cgOpen c k) s = .next (s.modGroup c fun g => { g with result := cgBusy })) ∧
    (g.state = .open → g.owner = k → exec (.cgClose c k) s = .next ((s.modGroup c fun g => { g with state := .closing }).modNvla fun n =>
      { n with closing := n.closing ++ [c] })) ∧
    (g.state = .overflow → g.owner = k → exec (.cgClose c k) s = .next (s.modGroup c fun g => { g with state := .idle, words := [], result := cgOverflow })) ∧
    (g.state = .open → g.owner = k → exec (.cgAbort c k) s = .next (s.modGroup c fun g => { g with state := .idle, words := [], result := cgAborted })) ∧
    (g.state = .idle → exec (.cgClose c k) s = .next (s.modGroup c fun g => { g with result := cgNoGroup }) ∧
      exec (.cgAbort c k) s = .next (s.modGroup c fun g => { g with result := cgNoGroup }))) ∧
  (∀ s c rest, s.nvla.closing = c :: rest → let g := s.nvla.groups[c]
    (∃ t, exec (.groupDurable c true) s = .next t ∧ t.nvla = { s.nvla with
      closing := rest, groups := s.nvla.groups.set c { g with state := .idle, words := [], result := cgDurable },
      last := s.nvla.last.set c (s.nvla.last[c] + 1)
      durable := s.nvla.durable ++ [{ core := c, words := g.words, last := s.nvla.last[c] + 1, stamp := sealWord g.words (s.nvla.last[c] + 1) }] } ∧
      bit (t.reg Reg.nvlEvt) c.val = true ∧ t.mem = s.mem) ∧
    (∃ t, exec (.groupDurable c false) s = .next t ∧ NvlaSt.Logged { s.nvla with
      closing := rest, groups := s.nvla.groups.set c { g with state := .idle, words := [], result := cgNvFault } } t.nvla)) ∧
  (∀ s c bad r rest, s.nvla.durable = r :: rest → r.core = c → (r.words.map GroupWord.word).Nodup →
    (∀ w ∈ r.words, region (w.word * 8) = .nvla) →
    ∃ t, exec (.groupApplied ⟨c, bad⟩) s = .next t ∧ t.nvla.durable = rest ∧
      (∀ w ∈ r.words, ∀ i, i < 8 → t.byte (w.word * 8 + i) = if w.mask.getLsbD i then wordByte w.data i else s.byte (w.word * 8 + i)) ∧
      ∀ a, a < 0x017C0000 → (∀ w ∈ r.words, a / 8 ≠ w.word) → t.byte a = s.byte a) ∧
  -- at a start every sealed record whose seal checks reaches the array, and every slot is IDLE (R431)
  (∀ s : State, (∀ r ∈ s.nvla.durable, r.good = true ∧ ∀ w ∈ r.words, region (w.word * 8) = .nvla) → let t := s.journalStart
    t.nvla.durable = [] ∧ t.nvla.groups = Vector.replicate 4 {} ∧ t.nvla.closing = [] ∧ t.nvla.last = s.nvla.last ∧
    ∀ r rest, s.nvla.durable = r :: rest → ∀ w ∈ r.words, (∀ r' ∈ rest, ∀ w' ∈ r'.words, w'.word ≠ w.word) →
      (r.words.map GroupWord.word).Nodup → ∀ i, i < 8 → w.mask.getLsbD i = true → t.byte (w.word * 8 + i) = wordByte w.data i) ∧
  (∀ s charged d, let e := if charged then 523125 / max 1 d else 0; let g := field (s.reg Reg.nvlCtrl) 0 3
    ∃ t, exec (.dischargeTest charged d) s = .next t ∧ NvlaSt.Logged { s.nvla with
      centiUF := if charged then 900000 / max 1 d else 0, microJ := e, holdOk := decide (380 ≤ e), tested := true, measured := true, gmax := t.nvla.gmax } t.nvla ∧
      t.nvla.gmax ≤ g ∧ (t.nvla.gmax ≠ 0 → 380 + 30 * t.nvla.gmax ≤ e) ∧ ∀ k, k ≤ g → 380 + 30 * k ≤ e → k ≤ t.nvla.gmax) ∧
  (∀ s m v, s.takes m Reg.nvlCtrl v → field v 0 3 ≤ 4 → ∃ t : State, exec (.nvlCtrlWrite m v) s = .next t.unkept ∧
    field (t.reg Reg.nvlCtrl) 0 3 = field v 0 3 ∧
    t = { s.latched.stored Reg.nvlCtrl v with nvla := { s.nvla with gmax := t.nvla.gmax } } ∧ t.nvla.gmax ≤ field v 0 3 ∧
    (t.nvla.gmax ≠ 0 → 380 + 30 * t.nvla.gmax ≤ s.nvla.microJ) ∧ ∀ k, k ≤ field v 0 3 → 380 + 30 * k ≤ s.nvla.microJ → k ≤ t.nvla.gmax) ∧
  (∀ s b r rest, s.nvla.remapping = (b, r) :: rest → (∀ e ∈ rest, e.1 ≠ b) → ∃ t, exec (.remapDone b) s = .next t ∧ rest <+: t.nvla.remapping ∧
    t.nvla.remapped = s.nvla.remapped ++ [b] ∧ t.nvla.spares = s.nvla.spares - 1 ∧ bit (t.reg Reg.nvlEvt) 5 = true ∧
    t.nvla.groups = s.nvla.groups ∧ (s.nvla.spares - 1 < 8 → bit (t.reg Reg.nvlEvt) 4 = true))

/-! ### Usdar links (spec/13) -/

/-- Training (R454 to R463, R472, R484, R502, Table 13.2): an attempt begins in Seep where the port may train, its ordered sets lock it into
Fill or make it send four ECHO frames; an OFFER with SEEN both ways leads to Level at the agreed rate with the settings that Level takes, PARAM
and the four echoes to READY, READY both ways to Flow; a field outside Table 13.3, a timeout or the loss of the signal ends it, with a failure
counted up to 16.
It rests also on the model's own choices of log 21. -/
def Obligations.PortTraining : Prop :=
  ∀ s p, let x := s.port p; let others := fun t : State => ∀ q, q ≠ p → t.port q = s.port q
    let seep := { x.fresh with state := .seep, rate := 1 }
    let level := fun (t : State) (r : Byte) => let y := t.port p; y.state = .level ∧ y.rate = agreedRate (s.ratesMask p) r.toNat ∧
      y.setFlow = bit (s.reg (Reg.usdCtrl p.val)) 4 ∧ y.setTimer = s.reg (Reg.usdTimer p.val) ∧ y.setPool = s.reg (Reg.usdPool p.val)
    let syms := fun (h : BitVec 64) (tp : TrainPayload) => frameSyms (frameOfHeader h tp.toList)
    (s.mayTrain p = true → exec (.backoffExpiry p) s = .next (s.modPort p fun _ => seep) ∧
      ∃ t, exec (.ts1Detect p) s = .next t ∧ t.port p = seep ∧ others t) ∧
    (s.mayTrain p = false → exec (.backoffExpiry p) s = .next s) ∧
    (∀ ts2 : Bool, let n2 := if ts2 then x.ts2 + 1 else 0; let many := decide (16 ≤ x.ts1 + 1)
      let sent := if many then x.tsSent + 1 else x.tsSent
      ¬ (8 ≤ x.ts2 ∧ 16 ≤ x.tsSent) →
      (x.state = .seep → exec (.tsOrderedSet p ts2) s = .next (s.modPort p fun x =>
        { (x.heard (if ts2 then setTs2 else setTs1)).transmit (if many then setTs2 else setTs1) with
          ts1 := x.ts1 + 1, ts2 := n2, tsSent := sent, state := if 8 ≤ n2 ∧ 16 ≤ sent then .fill else .seep })) ∧
      (x.state = .level → x.levelIdle = false → ∃ t, exec (.tsOrderedSet p ts2) s = .next t ∧ (t.port p).state = .level ∧
        (t.port p).tsSent = sent ∧ others t ∧ (t.port p).ctl.length = x.ctl.length + (if 8 ≤ n2 ∧ 16 ≤ sent then 4 else 0) ∧
        (t.port p).stamps.length = x.stamps.length + (if 8 ≤ n2 ∧ 16 ≤ sent then 4 else 0))) ∧
    (x.state = .fill →
      exec (.offerTimer p) s = .next (s.queueCtl p (plainFrame typeTrain 0 0 (s.trainBytes p 1 (s.ratesMask p) 0))) ∧
      (∀ f rest, x.ctl = f :: rest → f.type = typeTrain → f.payload.head? = some 1 → f.payload.getD 5 0 = 1 →
        ∃ t, exec (.frameSend p false) s = .next t ∧ others t ∧ (t.port p).lane = some f ∧ (t.port p).sentSeen = true ∧
          (x.gotSeen = true → level t x.rates) ∧ (x.gotSeen = false → (t.port p).state = .fill)) ∧
      (∀ h tp, TrainTaken s p 1 h tp → agreedRate (s.ratesMask p) (train8 tp 4) ≠ 0 →
        ∃ t, exec (.trainOffer p ⟨h, tp⟩) s = .next t ∧ others t ∧ (t.port p).gotOffer = true ∧
          (t.port p).gotSeen = (x.gotSeen || decide (train8 tp 5 = 1)) ∧ (t.port p).partner.node.toNat = train16 tp 2 % 4096 ∧
          ((t.port p).gotSeen = true → x.sentSeen = true → level t (BitVec.ofNat 8 (train8 tp 4))) ∧
          (¬ ((t.port p).gotSeen = true ∧ x.sentSeen = true) → (t.port p).state = .fill ∧ (t.port p).rate = x.rate))) ∧
    (x.state = .level → exec (.levelIdleEnd p) s = .next (s.modPort p fun x => { x with levelIdle := false })) ∧
    (∀ h tp, x.state = .level →
      (TrainTaken s p 2 h tp → ∃ t, exec (.trainParam p ⟨h, tp⟩) s = .next t ∧ others t ∧ (t.port p).gotParam = true ∧
        (t.port p).partner = partnerOf tp ∧ (t.port p).state = .level ∧
        (4 ≤ x.echoes → x.ctl = [] → x.sentReady = false → ∃ f, (t.port p).ctl = [f] ∧ f.type = typeTrain ∧ f.payload.head? = some 5)) ∧
      (TrainTaken s p 3 h tp → exec (.trainEcho p ⟨h, tp⟩) s = .next ((s.modPort p fun x => x.heard (syms h tp)).queueCtl p
        (plainFrame typeTrain 0 0 (s.trainBytes p 4 (2 ^ (x.rate - 1)) (train16 tp 0x1C))))) ∧
      (∀ ns, TrainTaken s p 4 h tp → ∃ t, exec (.trainEchorep p ⟨h, tp⟩ ns) s = .next t ∧ others t ∧ (t.port p).echoes = x.echoes + 1 ∧
        (t.port p).rttMax = max x.rttMax ns ∧ (x.echoes = 3 → (t.port p).rtt = max x.rttMax ns ∧
          (t.port p).headroom = headroomOf (max x.rttMax ns) x.rate ∧ (t.port p).sentFlow = t.flowBit p ∧
          ∃ f ∈ (t.port p).ctl, f.type = typeTrain ∧ f.payload.head? = some 2)) ∧
      (TrainTaken s p 5 h tp →
        (x.sentReady = false → exec (.trainReady p ⟨h, tp⟩) s = .next (s.modPort p fun x => { x.heard (syms h tp) with gotReady := true })) ∧
        (x.sentReady = true → ∃ t, exec (.trainReady p ⟨h, tp⟩) s = .next t ∧ (t.port p).state = .flow ∧ bit (t.reg (Reg.usdEvt p.val)) 0 = true ∧
          t.mesh.unreach.getLsbD p.val = false ∧ (t.port p).hgMode = (x.partner.flow && x.sentFlow) ∧
          (t.port p).timerEff = max ((x.replayNs + 999) / 1000) (field x.setTimer 8 12) ∧
          (t.port p).replay = (if s.resumes p then x.resumed.replay else []))) ∧
      (∀ o l, (frameOfHeader h tp.toList).type = typeTrain →
        fieldFlaw (frameOfHeader h tp.toList) (decide ((frameOfHeader h tp.toList).len = 32)) = none → trainFlaws s.nodeId 2 x tp = o :: l →
        ∃ t, exec (.trainParam p ⟨h, tp⟩) s = .next t ∧ bit (t.reg (Reg.usdEvt p.val)) 7 = true ∧ (t.port p).fails = min 16 (x.fails + 1) ∧
          ((t.port p).state = .dry ∨ (t.port p).state = .quarantine))) ∧
    (x.training = true →
      (∃ t, exec (.trainingTimeout p true) s = .next t ∧ others t ∧ (t.port p).state = .dry ∧ (t.port p).fails = min 16 (x.fails + 1)) ∧
      ∃ t, exec (.lossOfSignal p) s = .next t ∧ others t ∧ (t.port p).state = .dry ∧ (t.port p).fails = min 16 (x.fails + 1)) ∧
    (x.state = .flow →
      exec (.flowStable p) s = .next (s.modPort p fun x => { x with fails := 0, stuck := false, stuckAt := none, clockFails := 0 }) ∧
      ∃ t, exec (.lossOfSignal p) s = .next t ∧ (t.port p).state = .dry ∧ (t.port p).replay = x.replay ∧ (t.port p).exp = x.exp ∧
        (t.port p).expValid = true ∧ (t.port p).fails = min 16 (x.fails + 1) ∧ (∀ c : Fin 4, (t.port p).queues[c] = []) ∧
        bit (t.reg (Reg.usdEvt p.val)) 1 = true ∧ (s.routesTo p ≠ 0 → t.mesh.unreach.getLsbD p.val = true))

/-- Frames in Flow (R456, R466 to R470, R475, R477, R481, R482, R488, R503): every frame's ACK frees what it acknowledges; ACK and IDLE do no
more, CREDIT sets the limit of its class, HOLD and GO hold and free the port, NAK starts a replay; a sequenced frame in order that fits is
accepted, one up to 127 ahead asks for a replay, an old one is acknowledged again; codes that make no frame are answered with NAK or lose the
signal, a reserved type and a field outside the catalogue are violations, more than 256 in a second quarantine the port, and TRAIN ends Flow.
It rests also on the model's own choices of log 21 and 82. -/
def Obligations.FramesReceived : Prop :=
  (∀ s p f, FrameTaken s p f → let x := s.port p; let y := (x.heard (frameSyms f)).ackTaken f
    (f.len = 0 →
      (f.type = typeAck → exec (.ackFrame p f) s = .next (s.modPort p fun _ => y)) ∧
      (f.type = typeIdle → exec (.idleFrame p f) s = .next (s.modPort p fun _ => y)) ∧
      (f.type = typeCredit → exec (.creditFrame p f) s = .next (s.modPort p fun _ => { y with limit := y.limit.set (Fin.ofNat 4 f.tc.toNat) f.seq })) ∧
      (f.type = typeHold → x.held = false → exec (.holdFrame p f) s = .next (s.modPort p fun _ => { y with held := true })) ∧
      (f.type = typeGo → x.held = true → exec (.goFrame p f) s = .next (s.modPort p fun _ => { y with held := false })) ∧
      (f.type = typeNak → ¬ (y.replayAt.isSome = true ∧ y.replayFrom = some f.ack) → ∃ t, exec (.nakFrame p f) s = .next t ∧
        t.port p = if y.replay.isEmpty then y else { y with replayAt := some 0, replayFrom := some f.ack })) ∧
    (f.len.toNat ≤ 256 → ∀ i, (f.type = typeData ∧ i = .dataFrame p f) ∨ (f.type = typeBcast ∧ i = .bcastFrame p f) → let d := (f.seq - x.exp).toNat
      (d = 0 → x.fits f = true → ∃ t, exec i s = .next t ∧ (t.port p).exp = x.exp + 1 ∧ (t.port p).nakOut = false ∧ (t.port p).acked = f.ack ∧
        (t.port p).replay = y.replay ∧ (f.type = typeData → f.dst = s.nodeId → t.mesh.arrivals = s.mesh.arrivals ++ [(some p, f)]) ∧
        (f.type = typeBcast → let e := BitVec.ofNat 16 (beNat (f.payload.take 2))
          2 ≤ f.payload.length → f.src ≠ s.nodeId → s.mesh.bcastNew f.src e f.dst = true → t.mesh.bcastOf f.src = some (e, f.dst))) ∧
      (1 ≤ d → d ≤ 127 → x.nakOut = false → ∃ t, exec i s = .next t ∧ t.port p = { y with nakOut := true, ctl := x.ctl ++ [ctlFrame typeNak] }) ∧
      (3968 ≤ d → ∃ t, exec i s = .next t ∧ t.port p = { y with ctl := x.ctl ++ [ctlFrame typeAck] })) ∧
    (f.type = typeViolation → f.len = 12 → ∃ t, exec (.violationFrame p f) s = .next t ∧ t.port p = y ∧ bit (t.reg (Reg.usdEvt p.val)) 3 = true)) ∧
  (∀ s p f, let x := s.port p
    (x.state = .fill ∨ x.state = .level → f.type = typeViolation → fieldFlaw f (decide (f.len = 12)) = none →
      ∃ t, exec (.violationFrame p f) s = .next t ∧ (t.port p).state = .dry ∧ (t.port p).fails = min 16 (x.fails + 1)) ∧
    (x.framed = true → f.type = 0 ∨ 10 < f.type → ∃ t, exec (.reservedTypeFrame p f) s = .next t ∧ bit (t.reg (Reg.usdEvt p.val)) 2 = true ∧
      (s.reg (Reg.usdVcnt p.val 1) ≠ 0xFFFF → t.reg (Reg.usdVcnt p.val 1) = s.reg (Reg.usdVcnt p.val 1) + 1) ∧
      (t.port p).state = if x.violSec.toList.sum < 256 then x.state else .quarantine) ∧
    (x.state = .flow → f.type = typeTrain → ∃ t, exec (.trainInFlow p f) s = .next t ∧ (t.port p).state ≠ .flow ∧ bit (t.reg (Reg.usdEvt p.val)) 1 = true) ∧
    (∀ codes, x.framed = true → readFrame (readCodes x.rxPlus codes).1 = none → let y := x.heardCodes codes
      (y.signalLost = true → ∃ t, exec (.badFrame ⟨p, codes⟩) s = .next t ∧ (t.port p).state = .dry ∧ (t.port p).fails = min 16 (x.fails + 1)) ∧
      (y.signalLost = false → x.state = .flow → x.nakOut = false →
        ∃ t, exec (.badFrame ⟨p, codes⟩) s = .next t ∧ t.port p = { y with nakOut := true, ctl := x.ctl ++ [ctlFrame typeNak] })))

/-- The timers of a port and the frames it sends (R453, R464, R465, R468 to R473, R475, R477, R478, R483, R504, R787, Table 13.5): acks,
credits and IDLE fall due, the replay timer starts a replay unless the partner holds the port, a stall leaves Flow, quarantine ends with an
attempt, and 60 s out of Flow without a resume empty the replay buffer; a port sends a HOLD or GO and its running replay first, then a control
frame, then the head of the class whose turn it is, with the next sequence number, and IDL where there is none; held, it sends control frames
alone; and what the lane carries for a frame is read back as that frame.
It rests also on the model's own choices of log 21 and 82. -/
def Obligations.PortTimersAndSending : Prop :=
  (∀ s p, let x := s.port p; let ackDue := decide (x.sinceAck ≠ 0) && !x.ctl.any carriesAck
    exec (.violationSecondTick p) s = .next (s.modPort p fun x => { x with violSec := Vector.replicate 8 0 }) ∧
    (x.state = .quarantine → let dry := s.modPort p fun x => { x with state := .dry, noBackoff := false }
      ∃ t, exec (.quarantineEnd p) s = .next t ∧ (t.port p).noBackoff = false ∧ (t.port p).state = (if dry.mayTrain p then .seep else .dry)) ∧
    (x.state ≠ .flow → x.expValid = true ∨ x.replay ≠ [] → ∃ t, exec (.resumeHoldExpiry p) s = .next t ∧ (t.port p).replay = [] ∧
      (t.port p).expValid = false ∧ (t.port p).exp = 0 ∧ t.reg (Reg.usdEvt p.val) = 0) ∧
    (x.state = .flow →
      exec (.idleTimerExpiry p) s = .next (s.queueCtl p (ctlFrame typeIdle)) ∧
      (x.hgMode = true → exec (.ackTimerExpiry p) s = .next (if ackDue then s.queueCtl p (ctlFrame typeAck) else s)) ∧
      (x.hgMode = false → (∃ t, exec (.ackTimerExpiry p) s = .next t ∧ (t.port p).ctl = x.ctl ++ (if ackDue then [ctlFrame typeAck] else []) ++
          (classes.filter fun c => decide (x.sinceCredit[c] ≠ 0)).map (creditFor x)) ∧
        exec (.creditTimer p) s = .next (s.modPort p fun x => { x with
          ctl := x.ctl ++ classes.map (creditFor x), sinceCredit := Vector.replicate 4 0 })) ∧
      (x.held = false → x.replay ≠ [] → ∃ t, exec (.replayTimerExpiry p) s = .next t ∧ t.port p = { x with replayAt := some 0, replayFrom := none }) ∧
      (x.held = true → exec (.replayTimerExpiry p) s = .next s) ∧
      (x.stalled = true → ∃ t, exec (.stallTimeout p) s = .next t ∧ (t.port p).state = .dry ∧ (t.port p).replay = x.replay ∧
        bit (t.reg (Reg.usdEvt p.val)) 6 = true))) ∧
  (∀ s p, let x := s.port p; x.state = .flow →
    (∀ i f, x.held = false → x.holdFirst = false → x.replayAt = some i → x.replay[i]? = some f → f.type ≠ typeTrain →
      ∃ t, exec (.frameSend p false) s = .next t ∧ x.carries f (t.port p) ∧ (t.port p).replay = x.replay ∧
        (t.port p).replayAt = (if x.replay.length ≤ i + 1 then none else some (i + 1))) ∧
    (∀ f rest, x.held = true ∨ x.replayAt = none ∨ x.holdFirst = true → x.ctl = f :: rest → f.type ≠ typeTrain →
      ∃ t, exec (.frameSend p false) s = .next t ∧ t = s.modPort p (fun _ => t.port p) ∧ x.carries f (t.port p) ∧
        (t.port p).ctl = (if carriesAck f then rest.filter fun g => decide (g.type ≠ typeAck) else rest) ∧
        (t.port p).sinceAck = if carriesAck f then 0 else x.sinceAck) ∧
    (x.held = true ∨ (x.replayAt = none ∧ (128 ≤ x.replay.length ∨ x.nextClass = none)) → x.ctl = [] →
      exec (.frameSend p false) s = .next (s.modPort p fun x => x.transmit setIdl)) ∧
    (∀ c f rest, x.held = false → x.replayAt = none → x.ctl = [] → x.replay.length < 128 → x.nextClass = some c → x.queues[c] = (none, f) :: rest →
      f.type ≠ typeTrain → let g := { f with seq := x.acked + BitVec.ofNat 12 (x.replay.length + 1) }
      ∃ t, exec (.frameSend p false) s = .next t ∧ t = s.modPort p (fun _ => t.port p) ∧ (t.port p).replay = x.replay ++ [g] ∧
        x.carries g (t.port p) ∧ (t.port p).queues = x.queues.set c rest ∧
        (t.port p).sent = x.sent.set c (x.sent[c] + BitVec.ofNat 12 (poolUnits g)))) ∧
  ∀ (f : Frame) (plus : Bool), readFrame (readCodes plus (sendCodes plus (frameSyms f)).1).1 = some f

/-! ### Mesh and transactions (spec/14) -/

/-- The requester's side (R509 to R512, R521, R522, Table 14.1): SUBMIT takes a tag with its own copy of the request and sends it once a route is
usable; a tag is sent again with RESENT while 1.5 s have not passed; its answer is copied to ABUF and gives the outcome; RELEASE frees a DONE
tag of the core, CLAIM takes one of a halted core, a timeout ends it. Other tags stand.
It rests also on the model's own choices of log 21. -/
def Obligations.TransactionTags : Prop :=
  (∀ s c v, field v 0 4 = 1 →
    (s.nodeValid = false → exec (.txnSubmit c v) s = .next (s.slotRsp c txnNoNode 0)) ∧
    (∀ r, s.submitCheck c = .error r → exec (.txnSubmit c v) s = .next (s.slotRsp c r 0)) ∧
    ∀ g, s.submitCheck c = .ok g → ∃ t, exec (.txnSubmit c v) s = .next t ∧ (s.mesh.tags[g]).state = .free ∧
      t.reg (Reg.txnRsp c.val) = BitVec.ofNat 32 (2 ^ 31 + g.val * 256) ∧ (∀ h, h ≠ g → t.mesh.tags[h] = s.mesh.tags[h]) ∧
      let x := t.mesh.tags[g]
      x.owner = c ∧ x.dst = s.slotDst c ∧ x.req = s.bytes (s.slotAddr c) (s.slotLen c) ∧ x.abuf = s.slotAbuf c ∧
        (match s.route (s.slotDst c) none with
        | .dropped _ => x.state = .wait
        | .here => x.state = .sent ∧ x.sends = 1 ∧ x.firstAt = s.us
        | .port p => x.state = .sent ∧ x.sends = 1 ∧ x.firstAt = s.us ∧ let k : Fin 4 := Fin.ofNat 4 (kindClass (kindOf x.req)).toNat
          (t.port p).queues[k] = (s.port p).queues[k] ++ [(none, s.dataFrame x.dst (kindClass (kindOf x.req)) x.req)])) ∧
  (∀ (s : State) c v, let g : Tag := cmdTag v; let x : TagSt := s.mesh.tags[g]
    (field v 0 4 = 2 → exec (.txnRelease c v) s = .next (if x.state = .done ∧ x.owner = c then (s.modTag g fun _ => {}).slotRsp c txnOk g.val
      else s.slotRsp c txnNotOwner g.val)) ∧
    (field v 0 4 = 3 → exec (.txnClaim c v) s = .next (if x.state = .free then s.slotRsp c txnFreeTag g.val
      else if (s.core x.owner).core = .halted then (s.modTag g fun x => { x with owner := c }).slotRsp c txnOk g.val
      else s.slotRsp c txnNotHalted g.val))) ∧
  (∀ s g, let x := s.mesh.tags[g]
    (x.state = .sent → x.sends ≠ 0 → s.us ≤ x.firstAt + 1500000 → ∃ t, exec (.resendTimer g) s = .next t ∧
      t.mesh.tags[g] = { x with sends := if x.sends = 0xFF then 0xFF else x.sends + 1 } ∧ (∀ h, h ≠ g → t.mesh.tags[h] = s.mesh.tags[h]) ∧
      ∀ p, s.route x.dst none = .port p → let k : Fin 4 := Fin.ofNat 4 (kindClass (kindOf x.req)).toNat
        (t.port p).queues[k] = (s.port p).queues[k] ++
          [(none, s.dataFrame x.dst (kindClass (kindOf x.req)) ((x.req.headD 0 ||| 0x08) :: x.req.drop 1))]) ∧
    (x.state = .sent → x.firstAt + 1500000 < s.us → exec (.resendTimer g) s = .next s) ∧
    (x.state = .sent ∨ x.state = .wait → exec (.requestTimeout g) s = .next ((s.modTag g fun x => { x with state := .done, outcome := 2 }).setBits
      (Reg.txnDone (g.val / 32)) (BitVec.ofNat 32 (2 ^ (g.val % 32)))))) ∧
  (∀ s f rest, s.mesh.arrivals = (none, f) :: rest → isAnswer f = true → 12 ≤ f.payload.length →
    (∀ g, s.mesh.matchTag f = some g → let st := f.payload.getD 8 0; let x := s.mesh.tags[g]
      ∃ t, exec (.answerArrival false) s = .next t ∧ t.mesh.arrivals = rest ∧ (∀ h, h ≠ g → t.mesh.tags[h] = s.mesh.tags[h]) ∧
        t.mesh.tags[g] = { x with
          state := .done, outcome := statusOutcome st.toNat, status := st, replayed := bit (wordOf f.payload) 59,
          epoch := BitVec.ofNat 16 (beNat ((f.payload.drop 10).take 2)) } ∧
        bit (t.reg (Reg.txnDone (g.val / 32))) (g.val % 32) = true ∧
        (∀ i b, f.payload[i]? = some b → t.byte (x.abuf + i) = b) ∧ ∀ a, a < x.abuf ∨ x.abuf + f.payload.length ≤ a → t.byte a = s.byte a) ∧
    (s.mesh.matchTag f = none → ∃ t, exec (.answerArrival false) s = .next t ∧ t.mesh = { s.mesh with arrivals := rest } ∧ bit (t.reg Reg.txnEvt) 3 = true))

/-- The responder's side (R503, R508, R514 to R518, R521, R523, Table 14.2): a new request takes an entry and goes to the ring, a tunnel line to
the Wellhead slot; a repeated one is answered from the entry or dropped while PENDING; ANSWER stores and sends the answer, TAKE opens a session
for the line, which Narga then reads and takes, BCAST floods; an entry ages, and a PENDING one ends at its expiry.
It rests also on the model's own choices of log 20 and 21. -/
def Obligations.TransactionAnswers : Prop :=
  (∀ s f rest, s.mesh.arrivals = (none, f) :: rest →
    (isRequest f = true → requestBad f = false → let w := wordOf f.payload
      (s.mesh.lookup f.src (commitId w) = none → ¬ (bit w 59 = true ∧ s.mesh.young = true) → ∀ e : Entry, s.mesh.takeEntry = some e →
        let entry : EntSt := { state := .pending, src := f.src, key := commitId w, tc := f.tc }
        (tunnelLine f = false → s.ringFull = false → ∃ t, exec (.requestArrival false) s = .next t ∧
          t.mesh = { s.mesh with arrivals := rest, cache := s.mesh.cache.set e entry, rhead := t.mesh.rhead } ∧
          t.mesh.rhead.toNat = (s.mesh.rhead.toNat + 1) % s.ringSlots ∧ bit (t.reg Reg.txnEvt) 0 = true ∧
          let base := (s.reg Reg.txnRing).toNat % 2 ^ 21 / 16 * 16 + s.mesh.rhead.toNat * 272
          let slot := [1, BitVec.ofNat 8 e.val] ++ leBytes 2 f.src.toNat ++ leBytes 2 f.payload.length ++ [f.tc.setWidth 8] ++ List.replicate 9 0 ++ f.payload
          (∀ i b, slot[i]? = some b → region (base + i) = .sram → t.byte (base + i) = b) ∧
            ∀ a, a < base ∨ base + slot.length ≤ a → t.byte a = s.byte a) ∧
        (tunnelLine f = true → s.mesh.wPend = false → exec (.requestArrival false) s = .next (s.modMesh fun m => { m with
          arrivals := rest, cache := m.cache.set e entry, wPend := true, wEntry := e, wSrc := f.src, wReq := f.payload }))) ∧
      (∀ e, s.mesh.lookup f.src (commitId w) = some e →
        ((s.mesh.cache[e]).state = .pending → exec (.requestArrival false) s = .next (s.modMesh fun m => { m with arrivals := rest })) ∧
        ((s.mesh.cache[e]).state = .complete → ∃ t, exec (.requestArrival false) s = .next t ∧ t.mesh.cache = s.mesh.cache ∧ t.mesh.rhead = s.mesh.rhead ∧
          ∀ p, s.route f.src none = .port p → let k : Fin 4 := Fin.ofNat 4 f.tc.toNat; let x := s.mesh.cache[e]
            (t.port p).queues[k] = (s.port p).queues[k] ++ [(none, s.dataFrame f.src f.tc ((x.answer.headD 0 ||| 0x08) :: x.answer.drop 1))]))) ∧
    (isRequest f = false → isAnswer f = false → ∃ t, exec (.requestArrival false) s = .next t ∧ t.mesh = { s.mesh with arrivals := rest } ∧
      bit (t.reg Reg.rtEvt) 2 = true)) ∧
  (∀ s c v, field v 0 4 = 4 → let e := cmdEntry v; let x := s.mesh.cache[e]; let (status, len) := answerArg (s.reg (Reg.txnArg c.val))
    (x.state ≠ .pending → exec (.txnAnswer c v) s = .next (s.slotRsp c txnBadEntry 0)) ∧
    (x.state = .pending → status < 0x80 → len ≤ 244 → s.slotAddr c + len ≤ 0x200000 → ∃ t, exec (.txnAnswer c v) s = .next t ∧
      t.reg (Reg.txnRsp c.val) = 0x80000000 ∧ t.mesh.cache = s.mesh.cache.set e { x with
        state := .complete, answer := answerPayload x.key false status s.mesh.epoch (s.bytes (s.slotAddr c) len), doneSeq := s.mesh.doneCount, aged := false })) ∧
  (∀ s v, field v 0 4 = 4 → let e := cmdEntry v; let x := s.mesh.cache[e]; let (status, len) := answerArg (s.reg Reg.txnWArg)
    x.state = .pending → status < 0x80 → len ≤ 244 → ∃ t, exec (.txnWAnswer v) s = .next t ∧ t.reg Reg.txnWRsp = 0x80000000 ∧
      ∃ data, t.mesh.cache = s.mesh.cache.set e { x with
        state := .complete, answer := answerPayload x.key false status s.mesh.epoch data, doneSeq := s.mesh.doneCount, aged := false } ∧
        data.length = len ∧ ∀ j, j < len → data.getD j 0 = byteOf (s.reg (Reg.txnWAbuf (j / 4))) (j % 4)) ∧
  (∀ s v i, field v 0 4 = 6 →
    (s.mesh.wPend = false → exec (.txnWTake v) s = .next (s.wRsp 0).takeEnded) ∧
    (s.mesh.wPend = true → tunnelAdmits s.narga.tunnel s.mesh.wSrc = true → (∀ b ∈ s.mesh.wReq.drop 8, b ≠ 0x0D ∧ b ≠ 0x0A) →
      s.tunnelSession s.mesh.wSrc = some i → ∃ t : State, exec (.txnWTake v) s = .next t.takeEnded ∧ t.mesh = { s.mesh with wPend := false } ∧
        t.reg Reg.txnWRsp = 0x80000000 ∧ (t.narga.sess[i]).active = true ∧ (t.narga.sess[i]).node = s.mesh.wSrc ∧
        (∀ j, j ≠ i → t.narga.sess[j] = s.narga.sess[j]) ∧
        t.narga.ended = s.narga.ended ++ (readLine i false (s.mesh.wReq.drop 8)).toList)) ∧
  (∀ s c v, field v 0 4 = 5 → let len := s.slotLen c
    (s.nodeValid = false → exec (.txnBcast c v) s = .next (s.slotRsp c txnNoNode 0)) ∧
    (s.nodeValid = true → len ≤ 254 → s.slotAddr c + len ≤ 0x200000 → ∃ t, exec (.txnBcast c v) s = .next t ∧
      t.mesh = { s.mesh with bseq := s.mesh.bseq + 1 } ∧ t.reg (Reg.txnRsp c.val) = 0x80000000 ∧
      ∀ p, (s.port p).state = .flow → let tc := BitVec.ofNat 2 (field (s.reg (Reg.txnArg c.val)) 12 2); let k : Fin 4 := Fin.ofNat 4 tc.toNat
        ∃ f, (t.port p).queues[k] = (s.port p).queues[k] ++ [(none, f)] ∧ f.type = typeBcast ∧ f.dst = s.mesh.bseq ∧ f.src = s.nodeId ∧
          f.payload = beBytes 2 s.mesh.epoch.toNat ++ s.bytes (s.slotAddr c) len)) ∧
  (∀ s e, ((s.mesh.cache[e]).state = .pending → ∃ t, exec (.pendingExpiry e) s = .next t ∧ t.mesh = { s.mesh with cache := s.mesh.cache.set e {} }) ∧
    ((s.mesh.cache[e]).state = .complete → exec (.completeEntryAged e) s = .next (s.modEnt e fun x => { x with aged := true }))) ∧
  (∀ s, exec .epochWindowEnd s = .next (s.modMesh fun m => { m with young := false }))

/-- The registers of ports, node and routes (R457, R484, R486, R495, R496, R498): RETRAIN takes a port that trains or is in Flow to Dry without
a failure, EN = 0 with one; USD_XTEST takes a value, logged, while EN is 0 in Dry; a new node number takes effect while no tag waits or is sent,
makes its own entry 8 and the old one Fh, and takes the ports out of Flow; a routing register takes a value whose entries are ports 0 to 3 or Fh,
and 8 at the own node alone, else the write sets RESW and does nothing else.
It rests also on the model's own choices of log 21. -/
def Obligations.LinkAndRouteRegisters : Prop :=
  (∀ s m p v, let x := s.port p; let a := Reg.usdCtrl p.val; let moves := decide (x.state = .flow) || x.training
     (s.takes m a v → field v 1 3 ≠ 0 → bit v 5 = false →
       (bit v 0 = true → exec (.usdEnWrite m p v) s = .next (s.lineEvent fun s => s.setReg a v)) ∧
       (bit v 0 = false → ∃ t : State, exec (.usdEnWrite m p v) s = .next t.unkept ∧ t.reg a = v ∧
         (t.port p).fails = (if moves then min 16 (x.fails + 1) else x.fails) ∧ (t.port p).state = if moves then .dry else x.state)) ∧
     (s.takes m a (s.reg a ||| 0x20) → field (s.reg a ||| 0x20) 1 3 ≠ 0 → ∃ t : State, exec (.usdRetrain m p) s = .next t.unkept ∧
       (t.port p).fails = x.fails ∧ t.reg a = (s.reg a &&& 0x8000001F) ∧ (t.port p).state = if moves then .dry else x.state) ∧
     (s.takes m (Reg.usdXtest p.val) v → s.usdEn p = false → x.state = .dry → exec (.usdXtestWrite m p v) s =
       .next (s.lineEvent fun s => (s.stored (Reg.usdXtest p.val) v).expertLog (Reg.usdXtest p.val) v))) ∧
  (∀ s m v, s.takes m Reg.rtNode v → let new : BitVec 12 := v.setWidth 12; let busy := allTags.any fun g => decide ((s.mesh.tags[g]).state = .wait ∨ (s.mesh.tags[g]).state = .sent)
    (busy = true → exec (.rtNodeWrite m v) s = .next (s.lineEvent fun s => s.setBits Reg.rtStat 0x80000000)) ∧
    (busy = false → ∃ t : State, exec (.rtNodeWrite m v) s = .next t.unkept ∧ t.mesh.node = v ∧ t.routeEntry new = 8 ∧
      (new ≠ s.nodeId → t.routeEntry s.nodeId = 15 ∧ ∀ p, (t.port p).state ≠ .flow ∧ (bit v 31 = true → (t.port p).fails = (s.port p).fails)) ∧
      (bit v 31 = false → ∀ p, (t.port p).state ≠ .flow ∧ (t.port p).training = false))) ∧
  (∀ s m (i : Fin 512) v, s.takes m (Reg.rtRoute i.val) v →
    let ok := ∀ k, k < 8 → if 8 * i.val + k = s.nodeId.toNat then field v (4 * k) 4 = 8 else field v (4 * k) 4 < 4 ∨ field v (4 * k) 4 = 15
    (ok → ∃ t : State, exec (.rtRouteWrite m i v) s = .next t.unkept ∧ t.reg (Reg.rtRoute i.val) = v ∧
      ∀ j, j < 512 → j ≠ i.val → t.reg (Reg.rtRoute j) = s.reg (Reg.rtRoute j)) ∧
    (¬ ok → exec (.rtRouteWrite m i v) s = .next (s.lineEvent fun s => s.setBits Reg.rtStat 0x80000000)))

/-! ### Narga (spec/15) -/

/-- The verbs that show (Table 15.2, R485, R498, R552): each answers with its data lines and final status line and changes nothing but Narga's
own state. The words of the lines are the model's (log 9). -/
def Obligations.NargaReports : Prop :=
  ∀ s l, LineRuns s l false → let ok := "OK 000"
    let tells := fun (i : Instr) (data : List String) (final : String) => ∃ t, exec i s = .next t ∧ Answered s t l data final ∧ OnlyNarga s t
    tells (.nargaHelp l none) ((s.verbsOf l.sess).map fun v => v.1) ok ∧
    (∀ v x, (s.verbsOf l.sess).find? (fun y => decide (y.1 = v)) = some x → tells (.nargaHelp l (some v)) [x.2] ok) ∧
    tells (.nargaId l) [] ("OK 000 " ++ partText) ∧ tells (.nargaIdFull l) (idLines s) ok ∧
    tells (.nargaStat l) (statLines s) (if s.well.replN then "OK 001 replace on" else ok) ∧
    tells (.nargaCh l none) (allChans.map fun n => chLine s n) ok ∧ (∀ n : Chan, tells (.nargaCh l (some n.val)) [chLine s n] ok) ∧
    (∀ u, tells (.nargaCnv l u) [cnvLine s u] ok) ∧
    (∀ p : Port, tells (.nargaPort l p.val) (portLines s p) ok ∧
      if (s.port p).state = .flow then tells (.nargaPortPeer l p.val) [peerLine s p] ok else tells (.nargaPortPeer l p.val) [] "ER 303") ∧
    tells (.nargaRouteNode l) ["node " ++ hText 3 s.nodeId.toNat ++ " v " ++ natText (b2n s.nodeValid) ++ " epoch " ++ natText s.mesh.epoch.toNat] ok ∧
    (∀ id, id < 4096 → tells (.nargaRoute l id) ["route " ++ hText 3 id ++ " " ++ routeText (s.routeEntry (BitVec.ofNat 12 id))] ok) ∧
    tells (.nargaRouteTunnel l none) ["tunnel " ++ tunnelText s.narga.tunnel] ok ∧
    (∀ k, countOk k = true →
      tells (.nargaLogLegal l k) ((s.tarn.log.take (recordCount k)).map hexBytes) ok ∧
      (∀ q, q ≤ s.tarn.logHead.toNat → s.tarn.logHead.toNat < q + s.tarn.log.length →
        tells (.nargaLogLegalFrom l q k) ((s.tarn.recordsFrom q (recordCount k)).map hexBytes) ok) ∧
      ∀ h, s.well.logSeq = some h → let text := fun q => hexBytes (s.bytes (healthSlot q) 32); let good := fun q => s.nvBad (healthSlot q) 32 = false
        (∀ qs, qs = (List.range (min (recordCount k) (min 8192 (h.toNat + 1)))).map (fun i => h - BitVec.ofNat 32 i) → (∀ q ∈ qs, good q) →
          tells (.nargaLogHealth l k) (qs.map text) ok) ∧
        (∀ q qs, q ≤ h.toNat → h.toNat + 1 ≤ q + 8192 →
          qs = (List.range (min (recordCount k) (h.toNat + 1 - q))).map (fun i => BitVec.ofNat 32 (q + i)) → (∀ q ∈ qs, good q) →
          tells (.nargaLogHealthFrom l q k) (qs.map text) ok)) ∧
    tells (.nargaTarn l) (tarnLines s) ok ∧ tells (.nargaTarnTime l none) ["time " ++ timeText (s.rtc.toNat / 65536)] ok ∧
    tells (.nargaPwr l) (pwrLines s) ok ∧ tells (.nargaClk l) ((List.range 6).map fun k => clkLine s k) ok ∧ tells (.nargaImg l) (imgLines s) ok ∧
    (∀ img, (∀ h, s.imageCheck img = .ok h → tells (.nargaImgVerify l img) [] ok) ∧
      ∀ r, s.imageCheck img = .error r → tells (.nargaImgVerify l img) [] ("ER 202 reason " ++ natText r))

/-- The verbs that reach Tarn through slot 4, and `cnv cal` (R85, R547, R552, R553, Table 15.2): REEVAL, SETOUT, FREEZE with SIGN, RELOAD, TIMESET,
LOGACK, NONCE, SIGNED, each with its mapped result; the staging area takes bytes and is emptied by `tarn submit`.
It rests also on the model's own choices of log 9. -/
def Obligations.NargaTarnVerbs : Prop :=
  ∀ s l, LineRuns s l false → let ok := "OK 000"
    let acts := fun (i : Instr) (data : List String) (final : String) (f : State → Prop) => ∃ t, exec i s = .next t ∧ Answered s t l data final ∧ f t
    (∀ u, let c := s.cnv u; s.power.entry ≤ 1 →
      (s.groupInSession u = true → acts (.nargaCnvCal l u) [] "ER 301" fun t => t.cnvs = s.cnvs) ∧
      (s.groupInSession u = false → c.state = .permFault → acts (.nargaCnvCal l u) [] "ER 300" fun t => t.cnvs = s.cnvs) ∧
      (s.groupInSession u = false → s.cnvStopped = false → s.power.refFault = false → c.state = .ready → c.calHeld = false → c.work = none →
        c.urgents = [] → c.seq = none → acts (.nargaCnvCal l u) [] ok fun t => (t.cnv u).state = .cal ∧ (t.cnv u).calStep = 0)) ∧
    (∀ off data, 1 ≤ data.length → data.length ≤ 32 → off + data.length ≤ 144 → acts (.nargaTarnStage l off data) [] ok fun t =>
      (∀ i b, data[i]? = some b → t.byte (0x017A2000 + off + i) = b) ∧
        ∀ a, a < 0x017A2000 + off ∨ 0x017A2000 + off + data.length ≤ a → a < 0x017C0000 ∨ 0x01800000 ≤ a → t.byte a = s.byte a) ∧
    (s.tarnOn = true → s.tarn.reload = none → bit (s.reg (Reg.tmbRsp 4)) 31 = false → s.power.entry = 0 →
      (∀ n : Chan, let c := s.chan n; let others := fun t : State => ∀ j, j ≠ n → t.chan j = s.chan j
        (c.legal = .out → c.perm = false → s.chanFaultPresent n = false →
          acts (.nargaChIn l n.val) [] ok fun t => t.chan n = { c with legal := .isIn, ucnt := c.ucnt + 2 } ∧ others t) ∧
        (c.legal = .isIn → c.sess = .none →
          acts (.nargaChOut l n.val) [] ok fun t => t.chan n = { c with legal := .out, ucnt := c.ucnt + 2 } ∧ others t) ∧
        (c.sess = .open ∨ c.sess = .stopped → acts (.nargaChClose l n.val) [] ok fun t => (t.chan n).sess = .signing ∧
          t.tarn.queue = s.tarn.queue ++ [n] ∧ (t.chan n).qty = c.ses) ∧
        (∀ h, let a := mcodeCopy n (s.eng n).copy1; c.sess = .none → c.perm = false → s.reloadSpent n = false → s.nvBad a 0x6200 = false →
          (s.eng n).incs = [] → verifyImage s (nvlByte s) typeMcode a = .ok h → (s.eng n).digest = some h.digest ∨ s.tarn.sealOpen = true →
          ∃ t, exec (.nargaChReload l n.val) s = .next t ∧ (t.eng n).runst = .load ∧ t.tarn.reload.isSome = true ∧
            t.narga.jobs = s.narga.jobs ++ [.slot l.sess l.tag (.reload n false)] ∧ (t.narga.sess[l.sess]).busy = true ∧ others t)) ∧
      (∀ v, v < 2 ^ 32 → acts (.nargaTarnTime l (some v)) [] ok fun t => t.rtc = BitVec.ofNat 48 (v * 65536) ∧ t.tarn.chans = s.tarn.chans) ∧
      (∀ q, q < 2 ^ 32 → s.tarn.logExp ≤ BitVec.ofNat 32 q → BitVec.ofNat 32 q ≤ s.tarn.logHead →
        acts (.nargaTarnLogack l q) [] ok fun t => t.tarn.logExp = BitVec.ofNat 32 q + 1 ∧ t.tarn.log = s.tarn.log) ∧
      (let v : BitVec 64 := Config.nonce s.free;
        acts (.nargaTarnNonce l) ["nonce " ++ hexText 8 ((v >>> 32).setWidth 32 : Word).toNat ++ hexText 8 (v.setWidth 32 : Word).toNat] ok fun t =>
          t.tarn.nonce = some v ∧ t.free = s.free + 1) ∧
      ∃ final, acts (.nargaTarnSubmit l) [] final fun t => ∀ i, i < 144 → t.byte (0x017A2000 + i) = 0)

/-- The verbs that act on the rest of the part (R496, R498, R546, R549, R551, R554 to R557, R590, R592, R614, R625, Table 15.2): ports, routes, the
power ladder, image activation, reconciliation, the `app` exchange, the resets, `more` and expert level.
It rests also on the model's own choices of log 9. -/
def Obligations.NargaSystemVerbs : Prop :=
  ∀ s l, LineRuns s l false → let ok := "OK 000"
    let acts := fun (i : Instr) (data : List String) (final : String) (f : State → Prop) => ∃ t, exec i s = .next t ∧ Answered s t l data final ∧ f t
    let sess := fun t : State => t.narga.sess[l.sess]
    (∀ p : Port, let a := Reg.usdCtrl p.val; let x := s.port p; let v := s.reg a; let may := fun w => s.takes .wellhead a w ∧ field w 1 3 ≠ 0
      let dry := fun t : State => t.reg a = v &&& 0x8000001F ∧ (t.port p).state = if x.training ∨ x.state = .flow then .dry else x.state
      (may (v ||| 0x20) → acts (.nargaPortRetrain l p.val) [] ok dry) ∧
      (may (v ||| 1) → acts (.nargaPortOn l p.val) [] ok fun t => t.reg a = (v ||| 1) &&& 0x8000001F) ∧
      (may (v &&& ~~~ 1) → acts (.nargaPortOff l p.val) [] ok fun t => t.reg a = v &&& 0x8000001E ∧
        (t.port p).state = if x.training ∨ x.state = .flow then .dry else x.state) ∧
      acts (.nargaResetPort l p.val) [] ok fun t => (t.port p).replay = [] ∧ (t.port p).fails = 0 ∧ (t.port p).state ≠ .flow) ∧
    (∀ id, id < 4096 → let v := BitVec.ofNat 32 (0x80000000 + id); s.takes .wellhead Reg.rtNode v →
      (s.tagsBusy = true → acts (.nargaRouteNodeSet l id) [] "BZ 500" fun t => t.mesh = s.mesh) ∧
      (s.tagsBusy = false → acts (.nargaRouteNodeSet l id) [] ok fun t => t.mesh.node = v)) ∧
    (∀ id nbr, id < 4096 → nbr.getD 0 < 4 →
      (id = s.nodeId.toNat → acts (.nargaRouteSet l id nbr) [] "ER 202" fun t => t.mesh = s.mesh) ∧
      (id ≠ s.nodeId.toNat → let a := Reg.rtRoute (id / 8); let k := 2 ^ (4 * (id % 8))
        let w := (s.reg a &&& ~~~ BitVec.ofNat 32 (15 * k)) ||| BitVec.ofNat 32 (nbr.getD 15 * k)
        s.takes .wellhead a w → s.routeOk (id / 8) w = true →
        acts (.nargaRouteSet l id nbr) [] ok fun t => t.routeEntry (BitVec.ofNat 12 id) = nbr.getD 15)) ∧
    (∀ x, acts (.nargaRouteTunnel l (some x)) [] ok fun t => t.narga.tunnel = x ∧ t.mesh = s.mesh) ∧
    (∀ ps, ps < 6 →
      (3 ≤ ps → s.anySession = true → acts (.nargaPwrGo l ps) [] "ER 301" fun t => t.power = s.power) ∧
      (s.takes .wellhead Reg.pwrReq (BitVec.ofNat 32 ps) → ¬ (3 ≤ ps ∧ s.anySession = true) → s.power.entry = 0 → ps ≠ 0 → s.ladderRefusal ps = none →
        acts (.nargaPwrGo l ps) [] ok fun t => t.power = { s.power with pend := ps })) ∧
    (∀ (k : Fin 3) b h, let img : ImageRef := match k with | 0 => .wfw b | 1 => .tfw b | 2 => .lfw b
      s.imageCheck img = .ok h → acts (.nargaImgActivate l img) [] ok fun t => ∀ a, 0x05000000 ≤ a →
        t.byte a = (s.writeDirectory fun v => v.set k { active := b, state := 1, tries := 0 }).byte a) ∧
    (∀ unit : Byte, (unitNames.any fun x => decide (x.2 = unit.toNat)) = true → ¬ (0x70 ≤ unit.toNat ∧ unit.toNat < 0x78) →
      s.unitFault unit.toNat = false → let h := (unitOf s unit.toNat).health
      h ≠ .failed → acts (.nargaReconcile l unit) ["legal none", "health " ++ healthText h] ok fun t => t.tarn = s.tarn ∧ t.engines = s.engines) ∧
    (∀ text, s.someCoreRuns = true → s.bgCount < 2 → s.well.appPend = false → ∃ t, exec (.nargaApp l text) s = .next t ∧ t.well.appPend = true ∧
      t.well.appSerial = s.well.appSerial + 2 ∧ t.well.appLen = BitVec.ofNat 8 text.length ∧ t.well.appReady = true ∧ t.well.appClosed = false ∧
      bit (t.reg Reg.wmbEvt) 0 = true ∧ t.narga.jobs = s.narga.jobs ++ [.app l.sess l.tag] ∧ (sess t).busy = true ∧
      (∀ j, j < 64 → t.reg (Reg.wmbAreq 0 + 4 * j) = wordAt text (4 * j))) ∧
    (∀ c : Core, s.power.stage = .released → s.power.pfail = false →
      (s.coreSpent c = false → acts (.nargaResetCore l c.val) [] ok fun t => t.narga.resetCore = some c ∧ t.cores = s.cores) ∧
      (s.coreSpent c = true → acts (.nargaResetCore l c.val) [] "ER 300" fun t => t.narga.resetCore = s.narga.resetCore)) ∧
    (if s.anySession = true then acts (.nargaResetDevice l) [] "ER 301" (fun t => t.narga.resetDevice = s.narga.resetDevice)
      else acts (.nargaResetDevice l) [] ok (fun t => t.narga.resetDevice = true)) ∧
    (let left := (s.narga.sess[l.sess]).remaining; let k := linesThatFit 244 left;
      (left = [] → acts (.nargaMore l) [] "OK 001" fun _ => True) ∧
      (left ≠ [] → l.sess ≠ 0 → ∃ t, exec (.nargaMore l) s = .next t ∧ (sess t).remaining = left.drop k ∧ (sess t).stored = left.take k ∧
        t.narga.sent = s.narga.sent ++ (left.take k).map fun x => (l.sess, x))) ∧
    (acts (.nargaExpertOn l) [] "OK 001 expert" fun t => (sess t).expert = true) ∧
    acts (.nargaExpertOff l) [] ok fun t => (sess t).expert = false ∧ ∀ i, i < 144 → t.byte (0x017A2000 + i) = 0

/-- The expert verbs (R138, R179, R486, R558 to R560, Table 15.3): at expert level each makes its register write with EXP set around it, or is
refused by the condition of its block; below expert level each is answered ER 200 and writes nothing.
It rests also on the model's own choices of log 9. -/
def Obligations.NargaExpertVerbs : Prop :=
  ∀ s l, let ok := "OK 000"
    let acts := fun (i : Instr) (data : List String) (final : String) (f : State → Prop) => ∃ t, exec i s = .next t ∧ Answered s t l data final ∧ f t
    let wrote := fun (a : Nat) (v : Word) (t : State) => t.reg a = (s.stored a v).reg a ∧ t.reg (ctrlOf a) = s.reg (ctrlOf a)
    (LineRuns s l true →
      (∀ a, a / 0x10000 = 0x0404 ∨ a / 0x10000 = 0x0405 → a % 4 = 0 →
        acts (.nargaXregRead l a) [hText 8 (s.liveWord .wellhead a).toNat] ok fun t => t.engines = s.engines ∧ t.cnvs = s.cnvs) ∧
      (∀ a v, a % 4 = 0 → v < 2 ^ 32 → a < 0x04000000 ∨ (0x040FFFFF < a ∧ a < 2 ^ 32) → acts (.nargaXregWrite l a v) [] "ER 202" fun _ => True) ∧
      (∀ n : Chan, let x := s.chan n
        (∀ i, 256 ≤ i → i ≤ 65535 → s.answers .wellhead (Reg.ceXscrub n.val) = true →
          acts (.nargaXchScrub l n.val i) [] ok (wrote (Reg.ceXscrub n.val) (BitVec.ofNat 32 i))) ∧
        (∀ w b, w < 2048 → b ≤ 103 → s.answers .wellhead (Reg.ceXinj n.val) = true →
          (x.sess ≠ .none → acts (.nargaXchInj l n.val w b) [] "ER 301" fun t => t.engines = s.engines) ∧
          (x.sess = .none → x.legal ≠ .out → acts (.nargaXchInj l n.val w b) [] "ER 202" fun t => t.engines = s.engines) ∧
          (x.sess = .none → x.legal = .out → acts (.nargaXchInj l n.val w b) [] ok fun t => let k := BitVec.ofNat 11 w
            (t.eng n).word k = { (s.eng n).word k with flips := ((s.eng n).word k).flips ^^^ BitVec.ofNat 104 (2 ^ b) } ∧
              ∀ j, j ≠ k → (t.eng n).word j = (s.eng n).word j))) ∧
      (∀ u, let free := s.groupInSession u = false
        (s.groupInSession u = true → (∀ on, acts (.nargaXcnvRaw l u on) [] "ER 301" fun t => t.cnvs = s.cnvs) ∧
          acts (.nargaXcnvSurge l u) [] "ER 301" fun t => t.cnvs = s.cnvs) ∧
        (∀ on, free → s.answers .wellhead (Reg.cnvXraw u.val) = true →
          acts (.nargaXcnvRaw l u on) [] ok (wrote (Reg.cnvXraw u.val) (BitVec.ofNat 32 (b2n on))) ∧
          acts (.nargaXregWrite l (Reg.cnvXraw u.val) (b2n on)) [] ok (wrote (Reg.cnvXraw u.val) (BitVec.ofNat 32 (b2n on)))) ∧
        (free → s.answers .wellhead (Reg.cnvXsurge u.val) = true → acts (.nargaXcnvSurge l u) [] ok (wrote (Reg.cnvXsurge u.val) 1))) ∧
      (∀ p : Port, s.answers .wellhead (Reg.usdXtest p.val) = true → ∀ i v, (i = .nargaXportLoop l p.val ∧ v = 1) ∨ (i = .nargaXportPrbs l p.val ∧ v = 2) ∨
          (i = .nargaXportTestOff l p.val ∧ v = 0) →
        (s.usdEn p = false ∧ (s.port p).state = .dry → acts i [] ok fun t => field (t.reg (Reg.usdXtest p.val)) 0 2 = v) ∧
        (¬ (s.usdEn p = false ∧ (s.port p).state = .dry) → acts i [] "ER 304" fun t => t.reg (Reg.usdXtest p.val) = s.reg (Reg.usdXtest p.val))) ∧
      (∀ (p : Port) b, s.answers .wellhead (Reg.usdXhead p.val) = true →
        (b < 65536 → acts (.nargaXportHead l p.val b) [] ok (wrote (Reg.usdXhead p.val) (BitVec.ofNat 32 b))) ∧
        (512 ≤ b → b ≤ 8192 → acts (.nargaXportGohyst l p.val b) [] ok (wrote (Reg.usdXgohyst p.val) (BitVec.ofNat 32 b)))) ∧
      acts (.nargaXclkMon l none) ((List.range 6).map fun k => monLine s k) ok (fun t => t.power = s.power) ∧
      ∀ k, k < 6 → acts (.nargaXclkMon l (some k)) [monLine s k] ok fun t => t.power = s.power) ∧
    (LineRuns s l false → (s.narga.sess[l.sess]).expert = false →
      (∀ a v, acts (.nargaXregWrite l a v) [] "ER 200" (OnlyNarga s)) ∧ (∀ n i, acts (.nargaXchScrub l n i) [] "ER 200" (OnlyNarga s)) ∧
      (∀ n w b, acts (.nargaXchInj l n w b) [] "ER 200" (OnlyNarga s)) ∧ ∀ u on, acts (.nargaXcnvRaw l u on) [] "ER 200" (OnlyNarga s))

/-- Lines and sessions (R534, R536, R538, R541, R544 to R546, R549, R550, R552, R557): editing of a typed line, how a line is read when it is too
long, holds a bad byte or has no token, a line too long, an unknown verb, a repeated machine line, a line that waits for the command before it,
the answer of Tarn to that command, expert level that times out and a tunnel session that ends.
It rests also on the model's own choices of log 9, 54, 55, 56 and 83. -/
def Obligations.NargaLinesAndSessions : Prop :=
  (∀ s, s.wellheadRuns = true → s.narga.typed.head? ≠ some 0x23 →
    let typed := fun l sent => s.modNarga fun n => { n with typed := l, typedBad := n.typedBad && !l.isEmpty, sent := n.sent ++ sent }
    (∀ b : Byte, b = 8 ∨ b = 0x7F → exec (.nargaErase b) s = .next (typed s.narga.typed.dropLast [(0, asciiText [8, 0x20, 8])])) ∧
    exec .nargaKill s = .next (typed [] [(0, crlf)]) ∧ exec .nargaCancel s = .next (typed [] [(0, "^C" ++ crlf), (0, s.prompt 0)])) ∧
  (∀ (i : Session) (bad : Bool) (text : List Byte),
    (255 < text.length → ∃ l, readLine i bad text = some (l, .lineTooLong) ∧ l.sess = i) ∧
    (text.length ≤ 255 → (∃ b ∈ text, lineByte b = false) → ∃ l, readLine i bad text = some (l, .unknownVerb) ∧ l.sess = i ∧ l.flaw = some .badByte) ∧
    (text.length ≤ 255 → (∀ b ∈ text, b = 0x20 ∨ b = 9) → readLine i false text = none)) ∧
  (∀ s l, s.lineReaches l = true → s.repeats l = false →
    (∃ t, exec (.nargaLineTooLong l) s = .next t ∧ Answered s t l [] "ER 104") ∧
    (l.flaw = none → ∃ t, exec (.nargaUnknownVerb l) s = .next t ∧ Answered s t l [] "ER 100") ∧
    (l.flaw = some .badCheck → ∃ t, exec (.nargaStat l) s = .next t ∧ Answered s t l [] "ER 105") ∧
    (l.flaw = none → s.nargaWorks = true → (s.narga.sess[l.sess]).busy = false → s.narga.updateLock = false →
      (s.narga.waiting.length < 8 → exec (.nargaId l) s = .next ((s.modNarga fun n => { n with waiting := n.waiting ++ [(l, .id)] }).modSess l.sess
        fun z => { z with busy := true })) ∧
      (8 ≤ s.narga.waiting.length → ∃ t, exec (.nargaId l) s = .next t ∧ Answered s t l [] "BZ 500"))) ∧
  (∀ s l, s.lineReaches l = true → s.repeats l = true → l.sess = 0 → ∃ t, exec (.nargaResetDevice l) s = .next t ∧ t.narga.resetDevice = s.narga.resetDevice ∧
    t.narga.sent = s.narga.sent ++ (s.narga.sess[(0 : Session)]).stored.map fun x => (0, x)) ∧
  (∀ s i tag n act rest, s.wellheadRuns = true → bit (s.reg (Reg.tmbRsp 4)) 31 = false → s.narga.jobs = .slot i tag (.reload n act) :: rest →
    ∃ (t : State) (more : List (Session × String)), exec .backgroundCommandDone s = .next (t.takeWaiting 8) ∧ t.narga.jobs = rest ∧
      t.narga.waiting = s.narga.waiting ∧ (t.narga.sess[i]).busy = false ∧ (act = true → t.narga.updateLock = false) ∧
      (i = 0 → t.narga.sent = s.narga.sent ++ (0, responseLine tag s.slot4Text) :: more)) ∧
  (∀ (s : State) (i : Session), (∃ t, exec (.expertIdleTimeout i) s = .next t ∧ (t.narga.sess[i]) = { s.narga.sess[i] with expert := false } ∧
      ∀ j : Session, j ≠ i → t.narga.sess[j] = s.narga.sess[j]) ∧
    (i ≠ 0 → (s.narga.sess[i]).busy = false → ∃ t, exec (.tunnelSessionIdle i) s = .next t ∧ t.narga.sess[i] = {} ∧
      ∀ j : Session, j ≠ i → t.narga.sess[j] = s.narga.sess[j]))

/-! ### Wellhead and updates (spec/16, spec/17) -/

/-- Sensors, tamper status, views and health (R572 to R576, R578 to R582, R586, R589, R594): a sensor's second sample beyond a limit crosses it,
a second one inside clears it, one outside the range makes the sensor bad; the views are compared without changing either; the oldest health
notice is applied where R578 allows it and drives the FAILED inputs and REPLACE_N.
It rests also on the model's own choices of log 8 and 11. -/
def Obligations.WellheadMonitors : Prop :=
  (∀ s i r st, s.wellheadRuns = true → let x := s.well.sensors[sensorIndex i]; let row := sensorRow i x
    let same := if x.valid ∧ x.reading = r then x.same + 1 else 1
    x.bad = false → ∃ t, exec (.sensorSample i r st) s = .next t ∧ t.tarn = s.tarn ∧ t.cores = s.cores ∧ let y := t.well.sensors[sensorIndex i]
      y.reading = r ∧ y.valid = (decide (row.low ≤ r) && decide (r ≤ row.high) && !(decide (1000 ≤ same) && st)) ∧ y.bad = !y.valid ∧
      (y.valid = true → ∀ k : Fin 4, let u := x.limits[k]; let v := y.limits[k]
        (∀ l, row.limits[k] = some l →
          v.crossed = (if u.crossed then !(row.inside k l r && decide (1 ≤ u.inside)) else row.beyond k l r && decide (1 ≤ u.beyond)) ∧
          (v.crossed = false → v.beyond = if row.beyond k l r ∧ u.crossed = false then 1 else 0)) ∧
        (v.crossed = true → u.crossed = false → t.reg Reg.wmbEvt &&& row.evt = row.evt ∧
          (i = .hold → k.val < 2 → bit (t.reg Reg.nvlEvt) 7 = true)))) ∧
  (∀ s, s.wellheadRuns = true →
    (∃ t, exec .clockMonitorPoll s = .next t ∧ t.well.clkEvents = [] ∧ t.power = s.power ∧ t.tarn = s.tarn) ∧
    (tamperBits s.tarn ≠ s.well.tamp → ∃ t, exec .tamperStatusCopy s = .next t ∧ t.well.tamp = tamperBits s.tarn ∧ t.tarn = s.tarn) ∧
    (∃ w, exec .stateAreaWrite s = .next { s with well := w } ∧ w = { s.well with copies := w.copies } ∧ w.saved = some s.toSave ∧
      w.copies[s.well.newer] = s.well.copies[s.well.newer]) ∧
    (∃ t, exec .logSuppressSecond s = .next t ∧ t.well.dropCount = 0 ∧ (s.well.dropCount = 0 → t.well.secCount = 0) ∧ t.well.secCount ≤ 2)) ∧
  (∀ s, s.wellheadRuns = true → ∃ t, exec .viewCompare s = .next t ∧ t.tarn = s.tarn ∧ ∀ n : Chan,
    let x := unitOf s (0x70 + n.val); let y := unitOf t (0x70 + n.val); let d := viewsDisagree s n
    y.disagree = (if d then min 12 (x.disagree + 1) else 0) ∧ y.mismatch = (d && (x.mismatch || decide (11 ≤ x.disagree))) ∧
      y.health = x.health ∧ y.perm = x.perm) ∧
  (∀ s n rest, s.wellheadRuns = true → s.well.notices = n :: rest → let u := n.unit.toNat; let x := unitOf s u
    (healthAllowed x n = false → exec .healthTransition s = .next (s.modWell fun w => { w with notices := rest })) ∧
    (healthAllowed x n = true → ∃ t, exec .healthTransition s = .next t ∧ rest <+: t.well.notices ∧
      unitOf t u = { x with health := n.health, perm := n.perm, cause := n.event } ∧ (∀ v, v ≠ u → unitOf t v = unitOf s v) ∧
      (∀ j : Chan, t.well.failedIn[j] = decide (chanHealth t j = .failed)) ∧ bit (t.reg Reg.wmbEvt) 1 = true ∧ t.tarn = s.tarn ∧
      (n.health = .failed → (∀ e ∈ s.well.causes, e.1 ≠ .unit n.unit) → t.well.replN = true ∧ t.well.causes = s.well.causes ++ [(.unit n.unit, n.event)]) ∧
      (n.health = .worn → x.health = .failed → (∃ e, (.unit n.unit, e) ∈ s.well.causes) →
        t.well.causes = s.well.causes.filter (fun e => decide (e.1 ≠ .unit n.unit)) ∧ t.well.replN = s.well.replN ∧
          t.well.release = if t.well.causes.isEmpty then some (n.event, s.us) else none))) ∧
  -- the release comes 10 ms after the last cause has ended; a cause that begins before it keeps the pin without a second 0711h (R582, R599)
  (∀ (s : State), ∃ r : State, s.idle = ({ r with us := r.us + 1 } : State).releaseReplace) ∧
  (∀ (s : State) ev at', s.wellheadRuns = true → s.well.release = some (ev, at') →
    (s.us < at' + 10000 → s.releaseReplace = s) ∧
    (at' + 10000 ≤ s.us → s.releaseReplace.well.replN = false ∧ s.releaseReplace.well.release = none ∧ bit (s.releaseReplace.reg Reg.wmbEvt) 2 = true)) ∧
  (∀ (s : State) c event r, s.well.causes = [] → s.well.release = some r → s.addCause c event =
    s.modWell fun w => { w with causes := [(c, BitVec.ofNat 16 event)], replN := true, release := none }) ∧
  (∀ s m v, s.takes m Reg.wmbXpin v → ∃ u : State, exec (.wmbXpinWrite m v) s = .next (u.expertLog Reg.wmbXpin v).unkept ∧
    u.reg Reg.wmbXpin = v ∧ (u.well.causes.any fun e => decide (e.1 = .testPin)) = bit v 0 ∧
    (bit v 0 = true → (∀ e ∈ s.well.causes, e.1 ≠ .testPin) → u.well.replN = true))

/-- The `app` exchange and Wellhead's starts (R497, R588, R592, R593, R600, R602, R613): ledger firmware hands over one line at a time while the
exchange is open, the final line, a faulty line or 1 s ends it; a watchdog restart loses the sessions and keeps the latches; a start restores
the state area, takes a new epoch and opens Narga.
It rests also on the model's own choices of log 8 and 19. -/
def Obligations.WellheadExchangeAndStarts : Prop :=
  let ended := fun (s t : State) (final : String) => t.well.appPend = false ∧ t.well.appClosed = true ∧ t.well.appPut = none ∧
    ∀ tag, s.appJob = some (0, tag) → ∃ more, t.narga.sent = s.narga.sent ++ (0, responseLine tag final) :: more
  (∀ s m v, s.takes m Reg.wmbAput v → let w := s.well
    let may := 1 ≤ field v 0 8 ∧ field v 0 8 ≤ 220
    let good := w.appPend = true ∧ w.appReady = true ∧ w.appClosed = false ∧ field v 9 7 = w.appSerial.toNat / 2
    (¬ may → exec (.appPut m v) s = .next (s.lineEvent fun s => s.setBits Reg.wmbStat 0x80000000)) ∧
    (may → good → exec (.appPut m v) s = .next (s.lineEvent fun s => s.modWell fun w => { w with appPut := some v, appReady := false })) ∧
    (may → ¬ good → exec (.appPut m v) s = .next (s.lineEvent fun s => s.modWell fun w => { w with aperr := true }))) ∧
  (∀ s v, s.well.appPut = some v → s.wellheadRuns = true → s.well.appPend = true → let line := s.appLine (field v 0 8); let n := s.well.appLines
    (bit v 8 = true → printable line = true → startsWithCode line = true → n ≤ 64 →
      ∃ t, exec .appLineTake s = .next t ∧ ended s t (asciiText line)) ∧
    (bit v 8 = false → printable line = true → n < 64 → ∃ t, exec .appLineTake s = .next t ∧ t.well.appPend = true ∧ t.well.appReady = true ∧
      t.well.appLines = n + 1 ∧ ∀ tag, s.appJob = some (0, tag) →
        t.narga.sent = s.narga.sent ++ [(0, responseLine tag ("= " ++ asciiText line))]) ∧
    (printable line = false ∨ (bit v 8 = true ∧ startsWithCode line = false) ∨ (bit v 8 = false ∧ 64 ≤ n) →
      ∃ t, exec .appLineTake s = .next t ∧ ended s t "ER 400 app reply")) ∧
  (∀ s, s.well.appPend = true → ∃ t, exec .appTimeout s = .next t ∧ ended s t "ER 401") ∧
  (∀ s, s.wellheadRuns = true → ∃ t, exec .wellheadWatchdog s = .next t ∧ t.well.restarting = true ∧ t.well.appPend = false ∧ t.well.appClosed = true ∧
    t.power.trialBroken = true ∧ t.narga.sess = Vector.replicate 9 {} ∧ t.well.failedIn = s.well.failedIn ∧ t.well.replN = s.well.replN ∧
    t.tarn = s.tarn ∧ t.cores = s.cores) ∧
  (∀ s, s.well.restarting = true → ∃ t, exec .wellheadRestartDone s = .next t ∧ t.well.running = true ∧ t.well.restarting = false ∧ t.mesh = s.mesh ∧
    t.well.units = (s.well.saved.getD {}).units ∧ bit (t.reg Reg.wmbEvt) 7 = true ∧ t.tarn = s.tarn ∧
    t.narga.sent = s.narga.sent ++ [(0, "OK 000 narga ready"), (0, "> ")]) ∧
  (∀ s b, s.power.stage = .spring → s.power.slotsRun[(0 : Fin 3)] = some b → let v := s.well.saved.getD {}
    ∃ t, exec .wellheadStart s = .next t ∧ t.power.stage = .wellhead ∧ t.well.running = true ∧ t.well.units = v.units ∧ t.mesh.node = v.node ∧
      t.mesh.epoch = nextEpoch v.epoch ∧ t.narga.tunnel = v.tunnel ∧ t.narga.sess = Vector.replicate 9 {} ∧ t.well.tamp = tamperBits s.tarn ∧
      t.tarn = s.tarn ∧ (∀ i, i < 144 → t.byte (0x017A2000 + i) = 0) ∧ t.narga.sent = s.narga.sent ++ [(0, "OK 000 narga ready"), (0, "> ")])

/-- Updates (R608, R613, R616): a confirmed image raises its type's rollback floor and no floor ever falls; a verified Tarn firmware that does not
run is installed and marked once its copy is checked; a TRIAL image that has lasted is CONFIRMED in the directory.
It rests also on the model's own choices of log 18. -/
def Obligations.Updates : Prop :=
  (∀ s, s.tarnOn = true → s.power.stage = .released → ∃ t, exec .rollbackFloorCheck s = .next t ∧ t.tarn.chans = s.tarn.chans ∧
    (∀ i : Fin 4, s.tarn.floors[i] ≤ t.tarn.floors[i]) ∧
    ∀ (k : Fin 3) b, s.runningSlot k = some b → (s.directory.entries[k]).state ≠ 1 →
      headerSigned s (flashByte s) (k.val + 1) (imgAddr (k.val + 1) b) = true →
      (imageHead (flashByte s) (imgAddr (k.val + 1) b)).rollback ≤ t.tarn.floors[Fin.ofNat 4 k.val]) ∧
  (∀ s h, s.tarnOn = true → s.power.stage = .released → s.tarn.tfwInstall = none →
    verifyImage s (flashByte s) typeTfw (imgAddr typeTfw (s.directory.entries[(1 : Fin 3)]).active) = .ok h →
    h.digest ≠ s.tarn.runDigest → s.tarn.tfwMarked ≠ some h.digest →
    exec .tfwInstall s = .next (s.modTarn fun t => { t with tfwInstall := some h.digest })) ∧
  (∀ s d, s.tarn.tfwInstall = some d → s.tarnOn = true →
    (∃ t, exec (.tfwInstallDone true) s = .next t ∧ t.tarn.tfwInstall = none ∧ t.tarn.tfwMarked = some d ∧ t.tarn.chans = s.tarn.chans) ∧
    exec (.tfwInstallDone false) s = .next (s.modTarn fun t => { t with tfwInstall := none })) ∧
  (∀ s (k : Fin 3), s.wellheadRuns = true → s.power.stage = .released → s.power.trialBroken = false → let e := s.directory.entries[k]
    e.state = 1 → ∃ t, exec (.trialConfirm k) s = .next t ∧ t.tarn = s.tarn ∧
      ∀ a, 0x05000000 ≤ a → t.byte a = (s.writeDirectory fun v => v.set k { e with state := 0, tries := 0 }).byte a)


/-! ### Power, clocks and starts (spec/18, spec/19) -/

/-- The power ladder (R625 to R631, R648): a request that Table 18.2 does not refuse is pending until the entry, whose steps follow one another
and whose last shows the new state and sets EVT.ENTERED; a refusal is shown with its reason; Wellhead's request for a higher state, like WAKE_N, is a
wake source, and a wake ends in Surface with EVT.WOKE. Deep keeps the SRAM banks that PWR_RET names.
It rests also on the model's own choices of log 24. -/
def Obligations.PowerLadder : Prop :=
  (∀ s m v, s.takes m Reg.pwrReq v → (match m with | .lc _ _ _ => True | .wellhead => True | _ => False) → s.power.entry = 0 →
    let t := field v 0 3
    (t = 0 → exec (.pwrCancel m v) s = .next (s.lineEvent fun s => (s.setReg Reg.pwrReq v).modPower fun p => { p with pend := 0 })) ∧
    (1 ≤ t → t ≤ 5 → s.ladderRefusal t = none → exec (.pwrRequest m v) s =
      .next (s.lineEvent fun s => (s.setReg Reg.pwrReq v).modPower fun p => { p with pend := t })) ∧
    (∀ k, 1 ≤ t → t ≤ 5 → s.ladderRefusal t = some k → ∃ u : State, exec (.pwrRequest m v) s = .next u.unkept ∧
      u.power = { s.power with refuse := BitVec.ofNat 8 k, pend := 0 } ∧ bit (u.reg Reg.pwrEvt) 2 = true)) ∧
  (∀ s v, s.takes .wellhead Reg.pwrReq v → field v 0 3 = 0 → 1 ≤ s.power.entry → s.power.entry ≤ 5 → s.power.waking = none →
    ∃ u : State, exec (.pwrCancel .wellhead v) s = .next u.unkept ∧ u.power = { s.power with waking := some (.req, s.power.ps) }) ∧
  (∀ s, let p := s.power; let n := p.entry + 1; p.pend ≠ 0 → p.waking = none → p.pfail = false → p.stage ≠ .off → (p.entry = 0 → s.coresQuiet = true) →
    (∀ k, s.ladderRefusal p.pend = some k → p.entry = 0 → ∃ t, exec .ladderEntry s = .next t ∧ t.power = { p with refuse := BitVec.ofNat 8 k, pend := 0 } ∧
      bit (t.reg Reg.pwrEvt) 2 = true) ∧
    (s.ladderRefusal p.pend = none → n ≤ stepsTo p.pend → (n = 4 → s.cnvsIdle = true) → ∃ t, exec .ladderEntry s = .next t ∧ t.power.entry = n ∧
      (n = stepsTo p.pend → t.power.ps = p.pend ∧ t.power.pend = 0 ∧ bit (t.reg Reg.pwrEvt) 0 = true) ∧
      (n < stepsTo p.pend → t.power.ps = p.ps ∧ t.power.pend = p.pend) ∧
      (n = 3 → ∀ j, (t.chan j).savedFwd = (s.chan j).fwd ∧ (t.chan j).savedRev = (s.chan j).rev) ∧
      (n = 4 → ∀ q, (t.port q).state ≠ .flow ∧ (t.port q).fails = (s.port q).fails) ∧
      (n = 6 → t.power.spll = false ∧ t.power.cpll = false ∧ ∀ a, a < 0x200000 → bit (s.reg Reg.pwrRet) (a / 0x20000) = true → t.byte a = s.byte a) ∧
      (n = 7 → t.tarn.running = false))) ∧
  (∀ s, s.power.waking = none → 1 ≤ s.power.entry → s.power.entry ≤ 7 → bit (s.reg Reg.pwrWakeen) 0 = true →
    exec .wakeNLow s = .next ((s.modPower fun p => { p with waking := some (.waken, p.ps) }).setReg Reg.pwrWcause
      (BitVec.ofNat 32 (1 + s.power.ps * 65536)))) ∧
  (∀ s w k, s.power.waking = some (w, k) → ∃ t, exec .wakeComplete s = .next t ∧ t.power.entry = 0 ∧ t.power.ps = 0 ∧ t.power.pend = 0 ∧
    t.power.waking = none ∧ bit (t.reg Reg.pwrEvt) 1 = true ∧ (s.power.entry < 6 → ∀ a, a < 0x200000 → t.byte a = s.byte a) ∧
    (7 ≤ s.power.entry → t.power.startCause = 3 ∧ t.power.stage = .vcore))

/-- Clocks (R639 to R641, R646, R655 to R660, R739, Table 18.12): the PLLs lock; the loss of XIN moves SPLL to RCO, stops CPLL and faults the
converters, its return moves SPLL back; XRTC, CPLL, TPLL, RCO and ECLK have their own consequences; SPLL's loss with XIN valid resets the device.
It rests also on the model's own choices of log 24. -/
def Obligations.ClockEvents : Prop :=
  (∀ s ref, s.power.stage ≠ .off → s.power.entry < 6 →
    exec (.pllLock .spll ref) s = .next (s.modPower fun p => { p with spll := true, spllOnce := true, xin := true, xinAbsent := false }) ∧
    exec (.pllLock .tpll ref) s = .next (s.modPower fun p => { p with tpll := true }) ∧
    (s.power.cpll = false → s.power.fovr = false → ∃ t, exec (.pllLock .cpll ref) s = .next t ∧ t.power.cpll = true ∧
      if 500 ≤ ref ∧ ref < 2000 then t.power.refFault = true ∧ ∀ u, (t.cnv u).faulty = true
      else t.power.refInt = decide (ref < 500) ∧ ∀ u, t.cnv u = if (s.cnv u).state = .off then
        { s.cnv u with state := .cal, calHeld := false, calStep := 0, calConv := 0, calRestarts := 0, bgConv := 0, work := some (.calStep, false) } else s.cnv u)) ∧
  (∀ s, s.power.xin = true → ∃ t, exec .xinLoss s = .next t ∧ t.power.xin = false ∧ bit (t.reg Reg.clkLoss) 0 = true ∧ bit (t.reg Reg.pwrEvt) 3 = true ∧
    (s.power.spllOnce = false → t.power = { s.power with xin := false } ∧ t.ports = s.ports) ∧
    (s.power.spllOnce = true → s.power.fovr = false → t.power.fovr = true ∧ t.power.cpll = false ∧ (∀ u, (t.cnv u).faulty = true) ∧
      ∀ p, (t.port p).state ≠ .flow ∧ (t.port p).training = false ∧ (t.port p).fails = (s.port p).fails)) ∧
  (∀ s, s.power.xin = false → s.power.stage ≠ .off → s.power.entry < 7 →
    (s.power.fovr = false → exec .xinRestore s = .next (s.modPower fun p => { p with xin := true })) ∧
    (s.power.fovr = true → ∃ t, exec .xinRestore s = .next t ∧ t.power = { s.power with xin := true, fovr := bit (s.reg Reg.clkXforce) 0 } ∧
      bit (t.reg Reg.pwrEvt) 3 = true)) ∧
  (∀ s, (s.power.xrtc = true → exec .xrtcLoss s = .next ((s.modPower fun p => { p with xrtc := false, rtcRco := true }).clkLost 1 0x0812)) ∧
    (s.power.xrtc = false → exec .xrtcRestore s = .next ((s.modPower fun p => { p with xrtc := true, rtcRco := bit (s.reg Reg.clkXforce) 1 }).clkBack 0x0813)) ∧
    (s.power.stage ≠ .off → s.power.entry < 4 → ∃ t, exec .cpllUnlock s = .next t ∧ t.power = { s.power with cpll := false } ∧
      bit (t.reg Reg.clkLoss) 4 = true ∧ (s.power.xin = true → ∀ u, (t.cnv u).faulty = true)) ∧
    (s.power.stage ≠ .off → s.power.entry < 7 → ∃ t, exec .tpllUnlock s = .next t ∧ t.power = { s.power with tpll := false } ∧
      bit (t.reg Reg.clkLoss) 5 = true ∧ t.tarn = { s.tarn with tclkStopped := true, running := false }) ∧
    (∀ b, s.power.rco = true → ∃ t, exec (.rcoRange b) s = .next t ∧ t.power = { s.power with rco := false, tpll := s.power.tpll && !b } ∧
      bit (t.reg Reg.clkLoss) 2 = true ∧ t.tarn = { s.tarn with tclkStopped := s.tarn.tclkStopped || b }) ∧
    (s.power.eclkStopped = false → s.power.spll = true → s.power.entry < 4 → ∃ t, exec .eclkStop s = .next t ∧ t.power.eclkStopped = true ∧
      ∀ n, (t.chan n).legal = (s.chan n).legal ∧ t.den n = false ∧ ((s.chan n).sess.counts = true → (t.chan n).sess = .signing)) ∧
    (s.power.spll = true → ∃ t, exec .spllUnlock s = .next t ∧
      (s.power.xin = false ∨ s.resettable = false → t = s.clkLost 3 0x0815) ∧
      (s.power.xin = true → s.resettable = true → t.power.stage = .tarn ∧ t.power.startCause = 6 ∧ t.power.spll = false))) ∧
  (∀ s m v, s.takes m Reg.clkXforce v → s.anySession = false → ∃ u : State, exec (.clkXforceWrite m v) s = .next (u.expertLog Reg.clkXforce v).unkept ∧
    u.reg Reg.clkXforce = v ∧ u.power.rtcRco = (bit v 1 || !s.power.xrtc) ∧
    (bit v 0 = true → s.power.xin = true → s.power.spllOnce = true → u.power.fovr = true))

/-- Starts, resets and power failure (R49, R61, R412, R435, R556, R612, R662 to R687): what a start, Spring, the release, the reset pin, a device
reset and a core reset leave, and how PFAIL saves: open groups are discarded, Tarn keeps its totals, the part goes off; a seal word that HOLD's
end cuts off stays as it was written (R431).
It rests also on the model's own choices of log 24. -/
def Obligations.StartsAndPowerFail : Prop :=
  (∀ s b, (s.power.stage = .off → ∃ t, exec (.vinValid b) s = .next t ∧ t.power.stage = .vcore ∧ t.power.boot = b ∧ t.power.ps = 0 ∧ t.power.entry = 0 ∧
      t.nvla.durable = [] ∧ t.tarn.running = false ∧ t.tarn.chans = s.tarn.chans ∧
      if s.power.holdRun then t.power.startCause = 2 ∧ t.rtc = s.rtc
      else t.power.startCause = 1 ∧ t.rtc = s.tarn.savedRtc ∧ ∀ a, t.reg a = Reg.resetVal a) ∧
    (s.power.stage ≠ .off → s.power.pfail = true → 7 ≤ s.power.entry → exec (.vinValid b) s = .next (s.modPower fun p => { p with pfail := false })) ∧
    (s.power.stage = .vin → exec (.buckRetry true) s = .next (s.modPower fun p => { p with stage := if s.tarnOn then .tarn else .vcore })) ∧
    (s.power.stage = .vcore ∨ s.power.stage = .tarn → s.power.spllOnce = false → exec (.buckRetry false) s = .next (s.modPower fun p => { p with stage := .vin })) ∧
    (s.power.stage = .tarn → s.power.xin = false → s.power.xinAbsent = false → s.tarnOn = true →
      exec .xinAbsent s = .next ((s.modPower fun p => { p with xinAbsent := true }).tlog 0x041C 0xFF 0 [])) ∧
    (s.power.resetLow = true → exec (.resetNHigh b) s = .next (s.modPower fun p => { p with
      resetLow := false, boot := if p.stage = .tarn ∧ p.startCause = 4 then b else p.boot })) ∧
    (s.power.resetLow = false → s.resettable = false → exec .resetNLow s = .next (s.modPower fun p => { p with resetLow := true })) ∧
    (s.power.resetLow = false → s.resettable = true → ∃ t, exec .resetNLow s = .next t ∧ t.power.resetLow = true ∧ t.power.stage = .tarn ∧ t.power.startCause = 4)) ∧
  (∀ s f, s.power.stage = .tarn → s.power.spll = true → s.power.resetLow = false → s.power.pfail = false →
    (2 ≤ s.power.boot.toNat → exec (.springStart f) s = .next (s.modPower fun p => { p with stage := .spring })) ∧
    (s.power.boot.toNat < 2 → ∃ t, exec (.springStart f) s = .next t ∧ t.power.stage = .spring ∧ t.tarn = s.tarn ∧
      (t.power.slotsRun[(0 : Fin 3)] = none → (s.power.startCause ≤ 3 → ∀ a, a < 0x200000 → t.byte a = 0) ∧
        t.narga.sent = s.narga.sent ++ [(0, "ER 400 no wellhead image")]) ∧
      (t.power.slotsRun[(0 : Fin 3)] ≠ none → ∀ b, t.power.slotsRun[(2 : Fin 3)] = some b → t.power.imageOk = true ∧
        t.power.releaseEntry = (imageHead (flashByte t) (imgAddr typeLfw b)).entry))) ∧
  (∀ s, s.power.stage = .wellhead → s.power.pfail = false → s.power.resetLow = false →
    (s.power.boot = 0 → s.power.imageOk = true → s.tarnReady = true → s.nvla.tested = true → (∀ n, (s.eng n).checking = false) → ∃ t, exec .coreRelease s = .next t ∧ t.power.stage = .released ∧
      t.mesh.tags = Vector.replicate 64 {} ∧ t.mesh.cache = Vector.replicate 256 {} ∧ t.mesh.young = true ∧ ∀ c : Core, let u := unitOf s c.val
        if u.health = .failed ∧ u.perm = true then (t.core c).core = .halted
        else (t.core c).core = .run ∧ (t.core c).cur = 0 ∧ (t.core c).det = true ∧ (t.core c).buf = [] ∧ (t.ctx c 0).state = .run ∧
          (t.regsOf c).pc = s.power.releaseEntry ∧ (t.regsOf c).ctx.getLsbD 15 = true ∧ ∀ k : Ctx, k ≠ 0 → (t.ctx c k).state = .stopped) ∧
    (s.power.boot = 1 → ∃ t, exec .coreRelease s = .next t ∧ t.power.enginesOut = true ∧ t.power.stage = .wellhead ∧ t.cores = s.cores)) ∧
  (∀ s cause b, s.resettable = true → (cause = .narga → s.narga.resetDevice = true) → (∀ c : Core, (s.core c).buf = []) → ∃ t, exec (.deviceReset cause b) s = .next t ∧ t.power.stage = .tarn ∧
    t.power.boot = b ∧ t.power.startCause = resetCode cause ∧ t.rtc = s.rtc ∧ t.mesh.node = s.mesh.node ∧ t.tarn.keys = s.tarn.keys ∧
    (∀ c, (t.core c).buf = []) ∧ (s.tarn.running = true → ∀ n, (s.chan n).sess.counts = true → (t.chan n).sess = .signing)) ∧
  (∀ s c, s.narga.resetCore = some c → s.power.stage = .released → s.power.pfail = false → s.coreSpent c = false → ∃ t, exec (.coreReset c) s = .next t ∧
    t.narga.resetCore = none ∧ (t.core c).core = .run ∧ (t.core c).buf = [] ∧ (t.regsOf c).pc = s.power.releaseEntry ∧
    (∀ k, (t.ctx c k).stack = []) ∧ ((s.core c).buf = [] → ∀ d, d ≠ c → t.core d = s.core d)) ∧
  (∀ s, s.power.pfail = false → s.power.stage ≠ .off →
    (7 ≤ s.power.entry → exec .pfail s = .next (s.modPower fun p => { p with pfail := true })) ∧
    (3 ≤ s.power.entry → s.power.entry < 7 → ∃ t, exec .pfail s = .next t ∧ t.power.stage = .off ∧ t.power.holdRun = true ∧ t.tarn.running = false ∧
      ∀ n, (t.chan n).savedFwd = (t.chan n).fwd ∧ (t.chan n).savedRev = (t.chan n).rev) ∧
    (s.power.entry < 3 → ∃ t, exec .pfail s = .next t ∧ t.power.pfail = true ∧ t.power.pfailLine = true ∧ NvlaSt.Logged { s.nvla with grace := true, refuseOpen := true } t.nvla ∧
      t.tarn = { s.tarn with signing := false, retry := false } ∧ t.cores = s.cores)) ∧
  (∀ s, s.power.pfail = true →
    (s.nvla.grace = true → ∃ t, exec .groupGraceEnd s = .next t ∧ t.power.stage = .off ∧ t.power.holdRun = true ∧ t.tarn.running = false ∧
      t.nvla.durable = [] ∧ ((∀ c : Core, (s.core c).buf = []) → t.nvla.closing = []) ∧ (∀ c, (t.core c).buf = []) ∧
      (s.tarn.running = true → ∀ n, (t.chan n).savedFwd = (t.chan n).fwd ∧ (t.chan n).savedRev = (t.chan n).rev)) ∧
    (s.power.stage ≠ .off → s.power.entry < 7 → ∃ t torn, exec .holdRundown s = .next t ∧ t.power.stage = .off ∧ t.power.holdRun = false ∧
      (∀ n, (t.chan n).fwd = (s.chan n).savedFwd ∧ (t.chan n).rev = (s.chan n).savedRev) ∧
      (torn = none → t.nvla.durable = s.nvla.durable) ∧
      ∀ w c rest, torn = some w → s.nvla.closing = c :: rest → t.nvla.durable = s.nvla.durable ++
        [{ core := c, words := s.nvla.groups[c].words, last := s.nvla.last[c] + 1, stamp := w }])) ∧
  (∀ s, s.power.stage = .off → exec .holdRundown s = .next (s.modPower fun p => { p with holdRun := false }))



/-! ### Side ports and pins (spec/20, spec/21) -/

/-- The side ports (R32, R689 to R694, R696 to R700, R704 to R706, R711, R712, R753, Tables 20.3 and 20.4): UART bytes and DE, IIC transfers and their
ends, flash operations in the order of R705's checks, and the general-purpose pins.
It rests also on the model's own choices of log 22. -/
def Obligations.SidePorts : Prop :=
  (∀ s u b, s.bankDrives 1 = false → exec (.uartRxByte u b) s = .next s) ∧
  (∀ s u b, let x := s.side.uarts[u]; s.bankDrives 1 = true → bit (s.conCfg u) 26 = true → (u = 1 → x.de = true → bit (s.conCfg u) 28 = true) →
    ∃ t, exec (.uartRxByte u b) s = .next t ∧ let y := t.side.uarts[u];
      match s.autobaud u b with
      | some r => y = { x with evt := x.evt ||| 0x40 } ∧ field (t.conCfg u) 0 20 = r % 2 ^ 20 ∧ field (t.conCfg u) 20 12 = field (s.conCfg u) 20 12
      | none => y.tx = x.tx ∧ if x.rx.length < 64 then y.rx = x.rx ++ [{ b := b.b, fe := b.fe, pe := b.pe, brk := b.brk }] ∧ y.rxOvf = x.rxOvf
          else y.rx = x.rx ∧ y.evt &&& 0x10 = 0x10 ∧ y.rxOvf = x.rxOvf + 1) ∧
  (∀ s u e rest, (s.side.uarts[u]).rx = e :: rest →
    (s.answers .wellhead (Reg.conRxd u.val) = true → exec (.uartRxdRead .wellhead u) s = .next (s.lineEvent fun s =>
      let r := s.modUart u fun x => { x with rx := rest }
      if u = 0 then r.nargaByte e.b (e.fe || e.pe || e.brk) else r).takeEnded) ∧
    (∀ c k sup, s.answers (.lc c k sup) (Reg.conRxd u.val) = true →
      ∃ t : State, exec (.uartRxdRead (.lc c k sup) u) s = .next t.takeEnded ∧ (t.side.uarts[u]).rx = if u = 0 then e :: rest else rest)) ∧
  (∀ s m u v, s.takes m (Reg.conTxd u.val) v → (u = 0 → m = .wellhead) → ∃ t : State, exec (.uartTxdWrite m u v) s = .next t.unkept ∧
    let x := s.side.uarts[u]; let y := t.side.uarts[u]; let b : Byte := v.setWidth 8
    (64 ≤ x.tx.length → y = { x with evt := x.evt ||| 0x20, txOvf := x.txOvf + 1 }) ∧
    (x.tx.length < 64 → x.sending.isSome = true → y = { x with tx := x.tx ++ [b] }) ∧
    (x.tx = [] → x.sending = none → x.lead = false → bit (s.conCfg u) 26 = true →
      y = if u = 1 ∧ x.de = false then { x with tx := [b], de := true, lead := true, tail := false } else { x with sending := some b, tail := false })) ∧
  (∀ s u, let x := s.side.uarts[u]; x.sending.isSome = true → ∃ t, exec (.uartTxDone u) s = .next t ∧ let y := t.side.uarts[u];
    (x.tx = [] → y = { x with sending := none, evt := x.evt ||| 4, tail := decide (u = 1) && x.de }) ∧
    (∀ b rest, x.tx = b :: rest → x.lead = false → bit (s.conCfg u) 26 = true → (u = 1 → x.de = true) →
      y = { x with sending := some b, tx := rest, tail := false })) ∧
  (∀ s, let x := s.side.uarts[(1 : Uart)];
    (∀ b rest, x.lead = true → x.de = true → x.sending = none → x.tx = b :: rest → bit (s.conCfg 1) 26 = true →
      ∃ t, exec .deLeadEnd s = .next t ∧ t.side.uarts[(1 : Uart)] = { x with lead := false, sending := some b, tx := rest, tail := false }) ∧
    (x.tail = true → exec .deTailEnd s = .next (s.modUart 1 fun x => { x with tail := false, de := false }))) ∧
  (∀ s m i v, s.takes m (Reg.iicXfer i.val) v → let x := s.side.iics[i]; let r := fun s : State => s.setReg (Reg.iicXfer i.val) (v &&& 0x007FFFFF);
    (x.busy = true ∨ x.clearing = true → exec (.iicXfer m i v) s = .next (s.lineEvent fun s => s.setBits (Reg.iicEvt i.val) 8)) ∧
    (x.busy = false → x.clearing = false → bit (s.iicCfg i) 3 = true →
      (x.stuck = true → exec (.iicXfer m i v) s = .next (s.lineEvent fun s => (r s).iicEnd i 5 0)) ∧
      (x.stuck = false → 32 < field v 11 6 ∨ 32 < field v 17 6 ∨ x.wfifo.length < field v 11 6 ∨ (bit v 10 = false ∧ 0x7F < field v 0 10) →
        exec (.iicXfer m i v) s = .next (s.lineEvent fun s => (r s).iicEnd i 7 0)) ∧
      (x.stuck = false → field v 11 6 ≤ 32 → field v 17 6 ≤ 32 → field v 11 6 ≤ x.wfifo.length → (bit v 10 = false → field v 0 10 ≤ 0x7F) →
        exec (.iicXfer m i v) s = .next (s.lineEvent fun s => (r s).modIic i fun x => { x with busy := true, done := false, code := 0, nack := 0 })))) ∧
  (∀ s i r, let x := s.side.iics[i]; let v := s.reg (Reg.iicXfer i.val); x.busy = true → ∃ t, exec (.iicXferDone i r) s = .next t ∧
    bit (t.reg (Reg.iicEvt i.val)) 0 = true ∧ let e := { x with busy := false, done := true };
    t.side.iics[i] = match r with
      | .ok data => { e with code := 0, nack := 0, wfifo := x.wfifo.drop (field v 11 6), rfifo := (x.rfifo ++ data.take (field v 17 6)).take 32 }
      | .nackAddr => { e with code := 1, nack := 0 }
      | .nackData k => { e with code := 2, nack := k, wfifo := x.wfifo.drop (k.toNat + 1) }
      | .lost => { e with code := 4, nack := 0 }) ∧
  (∀ s m i, let x := s.side.iics[i];
    (s.takes m (Reg.iicCmd i.val) 1 → ∃ t : State, exec (.iicAbort m i) s = .next t.unkept ∧ t.side.iics[i] =
      if x.busy = true then { x with busy := false, done := true, code := 6, nack := 0, wfifo := [], rfifo := [], clearing := false }
      else { x with wfifo := [], rfifo := [], clearing := false }) ∧
    (s.takes m (Reg.iicCmd i.val) 2 → bit (s.iicCfg i) 3 = true → x.busy = false →
      exec (.iicClear m i) s = .next (s.lineEvent fun s => s.modIic i fun x => { x with clearing := true }))) ∧
  (∀ s m i v, s.takes m (Reg.iicCfg i.val) v → field v 0 2 ≠ 3 → let x := s.side.iics[i]; let r := fun s : State => s.setReg (Reg.iicCfg i.val) (v &&& 0xF);
    (bit v 3 = true → bit (s.iicCfg i) 3 = false → x.busy = false → exec (.iicEnable m i v) s =
      .next (s.lineEvent fun s => (r s).modIic i fun x => { x with clearing := true })) ∧
    (bit v 3 = true → bit (s.iicCfg i) 3 = true → exec (.iicEnable m i v) s = .next (s.lineEvent r)) ∧
    (bit v 3 = false → bit (s.iicCfg i) 3 = true → x.busy = false →
      exec (.iicDisable m i v) s = .next (s.lineEvent fun s => (r s).modIic i fun x => { x with wfifo := [], rfifo := [], clearing := false })) ∧
    (bit v 3 = false → bit (s.iicCfg i) 3 = true → x.busy = true → ∃ t : State, exec (.iicDisable m i v) s = .next t.unkept ∧
      t.side.iics[i] = { x with busy := false, done := true, code := 6, nack := 0, wfifo := [], rfifo := [], clearing := false })) ∧
  (∀ s i, let x := s.side.iics[i];
    (∀ low pulses ends, x.clearing = true → ∃ t, exec (.iicBusClearDone i low pulses ends) s = .next t ∧
      t.side.iics[i] = { x with clearing := false, stuck := !ends } ∧ bit (t.reg (Reg.iicEvt i.val)) (if ends = true then 2 else 1) = true) ∧
    (x.busy = true → bit (s.iicCfg i) 2 = true → ∃ t, exec (.smbusTimeout i) s = .next t ∧
      t.side.iics[i] = { x with busy := false, done := true, code := 3, nack := 0 } ∧ bit (t.reg (Reg.iicEvt i.val)) 0 = true) ∧
    (∀ m v, s.takes m (Reg.iicWdata i.val) v → x.wfifo.length < 32 →
      exec (.iicWdataWrite m i v) s = .next (s.lineEvent fun s => s.modIic i fun x => { x with wfifo := x.wfifo ++ [v.setWidth 8] })) ∧
    (s.answers .wellhead (Reg.iicRdata i.val) = true →
      exec (.iicRdataRead .wellhead i) s = .next (s.modIic i fun x => { x with rfifo := x.rfifo.drop 1 })) ∧
    (∀ c k sup, s.answers (.lc c k sup) (Reg.iicRdata i.val) = true → ∃ t, exec (.iicRdataRead (.lc c k sup) i) s = .next t ∧ t.side.iics[i] = { x with rfifo := x.rfifo.drop 1 })) ∧
  (∀ s m v, s.takes m Reg.qspiOp v → s.power.boot.toNat < 2 →
    let code := field v 0 4; let len := field v 16 9; let addr := (s.reg Reg.qspiAddr).toNat; let started := some (code, addr, len);
    let acts (i : Instr) (k : Nat) (write : State → State) := code = k →
      (s.side.qspi.op.isSome = true → exec i s = .next (s.lineEvent fun s => s.setBits Reg.qspiEvt 4)) ∧
      (s.side.qspi.op = none → s.qspiBadRequest code addr len = true → exec i s = .next (s.lineEvent fun s => s.qspiEnd 4)) ∧
      (s.side.qspi.op = none → s.qspiBadRequest code addr len = false → s.qspiIsProtected m code addr len = true → ∃ t : State, exec i s = .next t.unkept ∧
        t.side.qspi = { s.side.qspi with res := 1 } ∧ t.reg Reg.qspiEvt = s.reg Reg.qspiEvt ||| 3) ∧
      (s.side.qspi.op = none → s.qspiBadRequest code addr len = false → s.qspiIsProtected m code addr len = false →
        exec i s = .next (s.lineEvent fun s => (write s).modQspi fun q => { q with op := started }))
    acts (.qspiProgram m v) 1 (fun s => s.setBytes (0x05000000 + addr) (s.qspiBufBytes len)) ∧
    acts (.qspiErase4k m v) 2 (fun s => s.setBytes (0x05000000 + addr / 4096 * 4096) (List.replicate 4096 0xFF)) ∧
    acts (.qspiErase64k m v) 3 (fun s => s.setBytes (0x05000000 + addr / 65536 * 65536) (List.replicate 65536 0xFF)) ∧
    acts (.qspiReadstat m v) 4 (fun s => s)) ∧
  (∀ s code addr len, s.side.qspi.op = some (code, addr, len) →
    (∀ b, code = 4 → exec (.qspiOpDone b true) s = .next ((s.modQspi fun q => { q with op := none, res := 0, statusByte := b }).setBits Reg.qspiEvt 1)) ∧
    (∀ b, code ≠ 4 → exec (.qspiOpDone b true) s = .next ((s.modQspi fun q => { q with op := none, res := 0 }).setBits Reg.qspiEvt 1)) ∧
    (∀ b, code = 1 → ∃ t, exec (.qspiOpDone b false) s = .next t ∧ t.side.qspi = { s.side.qspi with op := none, res := 3 }) ∧
    ∃ t, exec .qspiTimeout s = .next t ∧ t.side.qspi = { s.side.qspi with op := none, res := 2 } ∧ bit (t.reg Reg.qspiEvt) 0 = true) ∧
  (∀ s m v, (s.takes m Reg.gpSet v → exec (.gpSet m v) s = .next (s.lineEvent fun s => s.setReg Reg.gpOut (s.reg Reg.gpOut ||| (v &&& 0xFFFF)))) ∧
    (s.takes m Reg.gpClr v → exec (.gpClr m v) s = .next (s.lineEvent fun s => s.setReg Reg.gpOut (s.reg Reg.gpOut &&& ~~~ (v &&& 0xFFFF))))) ∧
  (∀ s i rising, let mode := field (s.reg (Reg.gpCfg i.val)) 0 3; ∃ t, exec (.gpEdge i rising) s = .next t ∧
    (∀ j : Fin 16, t.side.gpIn.getLsbD j.val = if j = i then rising else s.side.gpIn.getLsbD j.val) ∧
    t.reg Reg.gpEvt = (if mode = 3 ∨ (mode = 1 ∧ rising = true) ∨ (mode = 2 ∧ rising = false) then s.reg Reg.gpEvt ||| BitVec.ofNat 32 (2 ^ i.val)
      else s.reg Reg.gpEvt) ∧
    (s.power.entry = 0 → t.power = s.power))


/-! ### Test access, timers and bank supplies (spec/20, spec/21, spec/22) -/

/-- Test access (R714 to R719), the DEN overcurrent release (R754), the bank supplies (R733) and the timers (R761, R762): TAP instructions, what
boundary scan does to sessions, DBGACC and its statuses, the end of debug. -/
def Obligations.TestAccessAndTimers : Prop :=
  (∀ s, let set := fun op : Byte => s.modSide fun x => { x with tap := op };
    exec .tapReset s = .next (set 2) ∧ exec .tapIdcode s = .next (set 2) ∧ exec .tapSamplePreload s = .next (set 1) ∧
    (∀ op : Byte, op ∉ [(0 : Byte), 1, 2, 3, 4, 0x80, 0x81] → exec (.tapBypass op) s = .next (set op))) ∧
  (∀ s, let scans := fun (i : Instr) (op : Byte) => ∃ t, exec i s = .next t ∧ t.side = { s.side with tap := op, scanLogged := true } ∧
      ∀ n, (t.chan n).legal = (s.chan n).legal ∧ (t.chan n).fwd = (s.chan n).fwd ∧ (t.chan n).rev = (s.chan n).rev ∧
        (t.chan n).sess = if (s.chan n).sess.counts = true then .signing else (s.chan n).sess
    scans .tapExtest 0 ∧ scans .tapHighz 3 ∧ scans .tapClamp 4) ∧
  (∀ s, (s.debugOn = true → exec .dbgaccPoll s = .next s ∧ exec .dbgaccReserved s = .next (s.dbgEnd 3 0) ∧
      (∀ a h low, low ≠ 0 → exec (.dbgaccRead a h low) s = .next (s.dbgEnd 3 0)) ∧
      (∀ a d h low, low ≠ 0 → exec (.dbgaccWrite a d h low) s = .next (s.dbgEnd 3 0)) ∧
      (∀ c, (s.core c).core = .run → ∃ t, exec (.dbghalt c true) s = .next t ∧ (t.core c).core = .halted ∧ (t.core c).hcause = 1) ∧
      (∀ c, exec (.dbghalt c false) s = .next s)) ∧
    (s.debugOn = false → exec .dbgaccPoll s = .next s.debugRefused ∧ exec .dbgaccReserved s = .next s.debugRefused ∧
      (∀ a h low, exec (.dbgaccRead a h low) s = .next s.debugRefused) ∧ (∀ a d h low, exec (.dbgaccWrite a d h low) s = .next s.debugRefused) ∧
      (∀ c h, exec (.dbghalt c h) s = .next s.debugRefused) ∧ (∀ a w, exec (.snapshotRead .test a w) s = .next s.debugRefused) ∧
      ∀ a w v, exec (.stagedWrite .test a w v) s = .next s.debugRefused ∧ exec (.commit .test a w v) s = .next s.debugRefused)) ∧
  (∀ s (a : Word) d, s.debugOn = true →
    (a.toNat < 0x200000 → exec (.dbgaccRead a false 0) s = .next (s.dbgEnd 0 (half (physByte s .test a.toNat) 0)) ∧
      exec (.dbgaccWrite a d false 0) s = .next ((s.setBytes a.toNat [lowByte d]).dbgEnd 0 0)) ∧
    (a.toNat + 1 < 0x200000 → exec (.dbgaccRead a true 0) s = .next (s.dbgEnd 0 (half (physByte s .test a.toNat) (physByte s .test (a.toNat + 1)))) ∧
      exec (.dbgaccWrite a d true 0) s = .next ((s.setBytes a.toNat [lowByte d, highByte d]).dbgEnd 0 0)) ∧
    (∀ h k, s.readError .test a.toNat (dbgWidth h) = some k →
      exec (.dbgaccRead a h 0) s = .next ((s.busError .test a.toNat false (dbgWidth h) k false).dbgEnd 2 0)) ∧
    (∀ h k, s.writeError .test a.toNat (dbgWidth h) = some k →
      exec (.dbgaccWrite a d h 0) s = .next ((s.busError .test a.toNat true (dbgWidth h) k false).dbgEnd 2 0))) ∧
  (∀ s, s.tarn.debugLeft ≠ 0 → ∃ t, exec .debugExpiry s = .next t ∧ t.tarn.debugLeft = 0 ∧ t.debugOn = false) ∧
  (∀ s n, (s.den n = true → ∃ t, exec (.denOvercurrent n) s = .next t ∧ t.den n = false ∧ t.tarn = { s.tarn with denTrip := s.tarn.denTrip.set n true }) ∧
    exec (.denRetry n) s = .next (s.modTarn fun t => { t with denTrip := t.denTrip.set n false })) ∧
  (∀ s b mv, exec (.vioBankChange b mv) s = .next (s.lineEvent fun s => s.modPower fun p => { p with vioMilli := p.vioMilli.set b mv })) ∧
  (∀ s m t v, s.takes m (Reg.tmrCfg t.val) v → exec (.tmrEnable m t v) s = .next (s.lineEvent fun s => let r := s.setReg (Reg.tmrCfg t.val) (v &&& 3)
      if bit (s.reg (Reg.tmrCfg t.val)) 0 = false ∧ bit v 0 = true then r.setReg (Reg.tmrCount t.val) (s.tmrPeriod t) else r)) ∧
  (∀ s (n : Fin 2), s.timersRun = true → let cfg := s.reg (Reg.tmrCfg n.val); bit cfg 0 = true → ∃ t, exec (.tmrExpiry n) s = .next t ∧
    t.reg Reg.tmrEvt = s.reg Reg.tmrEvt ||| BitVec.ofNat 32 (2 ^ n.val) ∧
    (bit cfg 1 = true → t.reg (Reg.tmrCount n.val) = s.tmrPeriod n ∧ t.reg (Reg.tmrCfg n.val) = cfg) ∧
    (bit cfg 1 = false → t.reg (Reg.tmrCount n.val) = 0 ∧ bit (t.reg (Reg.tmrCfg n.val)) 0 = false)) ∧
  (∀ s, bit (s.reg Reg.rtcActl) 0 = true → ∃ t, exec .rtcAlarm s = .next t ∧ bit (t.reg Reg.tmrEvt) 2 = true ∧ bit (t.reg Reg.rtcActl) 0 = false ∧
    (t.rtc >>> 16).setWidth 32 = s.reg Reg.rtcAlarm)


/-! ### Register access (spec/02) -/

/-- Reads and writes of device registers (R32 to R37, R42, R44): the snapshot, the staging holder and its commit, what a commit leaves in each bit, the
bus error captured first, and the clearing of SYS_STAT. -/
def Obligations.RegisterAccess : Prop :=
  (∀ s c k sup a w, let m := Master.lc c k sup; let b := a / 4 * 4; let r := s.keyCheck b; region a = .dev → r.answers m b = true → widthOk m a w = true →
    (a % 4 = 0 → a ≠ Reg.conRxd 0 → ∃ t, exec (.snapshotRead m a w) s = .next t ∧
      (∀ i : Fin 65, t.holders[i] = if i = holderOf m then { s.holders[i] with snapAddr := some a, snap := r.liveWord m a } else s.holders[i]) ∧
      (∀ i, regInfo a = some i → i.rc = true → a ∉ [Reg.rtcSec, Reg.conRxd 1, Reg.iicRdata 0, Reg.iicRdata 1] → t.reg a = 0) ∧ ∀ b, b ≠ a → t.reg b = r.reg b) ∧
    (a % 4 ≠ 0 → exec (.snapshotRead m a w) s = .next (if (s.holders[holderOf m]).snapAddr = some b then s else r))) ∧
  (∀ s m a w k, s.testShut m = false → s.readError m a w = some k → exec (.snapshotRead m a w) s = .next (s.busError m a false w k false)) ∧
  (∀ s c k sup a w v, let m := Master.lc c k sup; let b := a / 4 * 4; let i := holderOf m; let h : Holder := s.holders[i]; let d : Half := v.setWidth 16;
    s.writeError m a w = none → region a = .dev →
    (a % 4 + widthBytes w < 4 → ∃ t, exec (.stagedWrite m a w v) s = .next t ∧
      (∀ j : Fin 65, j ≠ i → t.holders[j] = s.holders[j]) ∧ (t.holders[i]).stageAddr = some b ∧
      (h.stageAddr = some b → (t.holders[i]).stage = setPiece h.stage (a % 4) w d) ∧
      (h.stageAddr = none → (t.holders[i]).stage = setPiece (s.captureValue m b) (a % 4) w d) ∧
      (∀ x, x ≠ Reg.sysStat → t.reg x = s.reg x) ∧
      t.reg Reg.sysStat = if h.stageAddr ≠ none ∧ h.stageAddr ≠ some b then s.reg Reg.sysStat ||| BitVec.ofNat 32 (2 ^ c.val) else s.reg Reg.sysStat) ∧
    (a % 4 + widthBytes w = 4 → h.stageAddr = some b → exec (.commit m a w v) s =
      .next ((s.modHolder i fun h => { h with stageAddr := none, stage := 0, mask := 0 }).commitWord false m b (setPiece h.stage (a % 4) w d))) ∧
    (a % 4 + widthBytes w = 4 → h.stageAddr = none → exec (.commit m a w v) s =
      .next ((s.modHolder i fun h => { h with stageAddr := none, stage := 0, mask := 0 }).commitWord false m b (setPiece (s.captureValue m b) (a % 4) w d)))) ∧
  (∀ s m a v, s.takes m a v → a / 0x10000 = 0x0400 → a ≠ Reg.sysStat → (m = .wellhead ∨ m = .tarn) → a % 4 = 0 → ∃ t, exec (.commit m a .word v) s = .next t ∧
    (∀ i, regInfo a = some i → ∀ j, j < 32 →
      bit (t.reg a) j = if bit i.rw j = true then bit v j else bit (s.reg a) j && !(bit i.w1c j && bit v j)) ∧
    ∀ b, b ≠ a → t.reg b = s.reg b) ∧
  (∀ s m v, s.takes m Reg.sysStat v → ∃ t, exec (.sysStatClear m v) s = .next t ∧ (t.berrCnt = if bit v 8 = true then 0 else s.berrCnt) ∧
    (∀ b, b ≠ Reg.sysStat → t.reg b = s.reg b) ∧ ∀ j ∈ [0, 1, 2, 3, 4, 8], bit (t.reg Reg.sysStat) j = (bit (s.reg Reg.sysStat) j && !bit v j)) ∧
  (∀ s m a w v k, s.testShut m = false → s.writeError m a w = some k → k ≠ 1 → m ≠ .wellhead → ∃ t, exec (.stagedWrite m a w v) s = .next t ∧ exec (.commit m a w v) s = .next t ∧
    (bit (s.reg Reg.sysStat) 8 = false → t.berrCnt = s.berrCnt ∧ t.reg Reg.berrAddr = BitVec.ofNat 32 a ∧
      t.reg Reg.berrInfo = berrInfo m true w k false ∧ bit (t.reg Reg.sysStat) 8 = true) ∧
    (bit (s.reg Reg.sysStat) 8 = true → t = { s with berrCnt := if s.berrCnt = 0xFF then 0xFF else s.berrCnt + 1 }))


/-! ### The machine as a whole -/

/-- A step runs the command at the front of the queue: exec on the state whose queue holds the rest. On an empty queue a microsecond passes
(DESIGN CHOICE, log 6). -/
def Obligations.StepRunsFront : Prop :=
  (∀ i rest s, s.pending = i :: rest → step s = exec i { s with pending := rest }) ∧ (∀ s, s.pending = [] → step s = .next s.idle)

/-- At reset memory and the register file stand in their canonical form, every register shows its reset value, the store buffers are empty, no command
waits, no channel has a session, and no DEN sinks. -/
def Obligations.ResetCanonical : Prop :=
  State.reset.Canonical ∧ (∀ a, State.reset.reg a = Reg.resetVal a) ∧ (∀ c, (State.reset.core c).buf = []) ∧ State.reset.pending = [] ∧
    ∀ n, State.reset.inSession n = false ∧ State.reset.den n = false

/-- Every step keeps memory and the register file in their canonical form: addresses rising, nothing listed that equals what an unlisted address
reads as. -/
def Obligations.StepKeepsCanonical : Prop := ∀ s t, s.Canonical → step s = .next t → t.Canonical

/-- Every command completes from every state: no command of the table stops the Basbel. -/
def Obligations.EveryCommandCompletes : Prop := ∀ i s, ∃ t, exec i s = .next t

/-- Totalizers (R58): whichever master commits whatever value at whichever address, in whichever width, the commit completes, and no FWD and no REV
changes while no engine's increment queue holds an increment. -/
def Obligations.CommitsLeaveTotalizers : Prop :=
  ∀ s m a w v, (∀ n, (s.eng n).incs = []) → ∃ t, exec (.commit m a w v) s = .next t ∧ ∀ n, (t.chan n).fwd = (s.chan n).fwd ∧ (t.chan n).rev = (s.chan n).rev
end

