-- ==== Sys2Proof/Laws/Sparse.lean ====
section
/-! SUPPORT. The laws of sparse tables: a key reads as it was last written, every other key stands, and the canonical form is kept. -/

namespace Sys2Proof.Machine

variable {α : Type} (dflt : Nat → α)

theorem Sparse.get_erase_same (l : List (Nat × α)) (a : Nat) : Sparse.get dflt (Sparse.erase l a) a = dflt a := by
  induction l with
  | nil => rfl
  | cons p t ih =>
    rcases eq_or_ne p.1 a with h | h <;> simp [Sparse.erase, Sparse.get, h, ih]

theorem Sparse.get_erase_ne (l : List (Nat × α)) {a b : Nat} (h : b ≠ a) :
    Sparse.get dflt (Sparse.erase l a) b = Sparse.get dflt l b := by
  induction l with
  | nil => rfl
  | cons p t ih =>
    rcases eq_or_ne p.1 a with h' | h'
    · simp [Sparse.erase, Sparse.get, h', ih, h.symm]
    · simp [Sparse.erase, Sparse.get, h', ih]

theorem Sparse.get_insert_same (l : List (Nat × α)) (a : Nat) (v : α) : Sparse.get dflt (Sparse.insert l a v) a = v := by
  induction l with
  | nil => simp [Sparse.insert, Sparse.get]
  | cons p t ih =>
    simp only [Sparse.insert]
    split_ifs with h₁ h₂
    · simp [Sparse.get]
    · simp [Sparse.get]
    · simp [Sparse.get, ih, Ne.symm h₂]

theorem Sparse.get_insert_ne (l : List (Nat × α)) {a b : Nat} (v : α) (h : b ≠ a) :
    Sparse.get dflt (Sparse.insert l a v) b = Sparse.get dflt l b := by
  induction l with
  | nil => simp [Sparse.insert, Sparse.get, h.symm]
  | cons p t ih =>
    simp only [Sparse.insert]
    split_ifs with h₁ h₂
    · simp [Sparse.get, h.symm]
    · subst h₂; simp [Sparse.get, h.symm]
    · simp [Sparse.get, ih]

theorem Sparse.erase_sublist (l : List (Nat × α)) (a : Nat) : (Sparse.erase l a).Sublist l := by
  induction l with
  | nil => exact .slnil
  | cons p t ih =>
    obtain ⟨k, v⟩ := p
    simp only [Sparse.erase]
    split_ifs
    · exact ih.cons _
    · exact ih.cons_cons _

theorem Sparse.mem_insert {l : List (Nat × α)} {a : Nat} {v : α} {p : Nat × α} (h : p ∈ Sparse.insert l a v) :
    p = (a, v) ∨ p ∈ l := by
  induction l with
  | nil => simpa [Sparse.insert] using h
  | cons q t ih =>
    simp only [Sparse.insert] at h
    split_ifs at h
    · simpa using h
    · rcases List.mem_cons.mp h with h | h
      · exact .inl h
      · exact .inr (List.mem_cons_of_mem _ h)
    · rcases List.mem_cons.mp h with h | h
      · exact .inr (h ▸ List.mem_cons_self ..)
      · rcases ih h with h | h
        · exact .inl h
        · exact .inr (List.mem_cons_of_mem _ h)

variable [DecidableEq α]

/-- A key reads as it was last written. -/
@[simp] theorem Sparse.get_set_same (l : List (Nat × α)) (a : Nat) (v : α) : Sparse.get dflt (Sparse.set dflt l a v) a = v := by
  unfold Sparse.set
  split_ifs with h
  · rw [Sparse.get_erase_same, h]
  · rw [Sparse.get_insert_same]

/-- Writing a key leaves every other. -/
theorem Sparse.get_set_ne (l : List (Nat × α)) {a b : Nat} (v : α) (h : b ≠ a) :
    Sparse.get dflt (Sparse.set dflt l a v) b = Sparse.get dflt l b := by
  unfold Sparse.set
  split_ifs
  · exact Sparse.get_erase_ne dflt l h
  · exact Sparse.get_insert_ne dflt l v h

/-- The canonical form as a chain: every entry differs from its default, and the keys rise strictly. -/
theorem Sparse.wf_iff (l : List (Nat × α)) :
    Sparse.wf dflt l = true ↔ l.Pairwise (fun p q => p.1 < q.1) ∧ ∀ p ∈ l, p.2 ≠ dflt p.1 := by
  induction l with
  | nil => simp [Sparse.wf]
  | cons p t ih =>
    obtain ⟨k, v⟩ := p
    match t, ih with
    | [], _ => simp [Sparse.wf]
    | (k', v') :: t, ih =>
      simp only [Sparse.wf, Bool.and_eq_true, decide_eq_true_eq, ih, List.pairwise_cons, List.mem_cons, forall_eq_or_imp]
      constructor
      · rintro ⟨⟨h₁, h₂⟩, ⟨h₃, h₄⟩, h₅, h₆⟩
        exact ⟨⟨⟨h₁, fun q hq => Nat.lt_trans h₁ (h₃ q hq)⟩, h₃, h₄⟩, h₂, h₅, h₆⟩
      · rintro ⟨⟨⟨h₁, _⟩, h₃, h₄⟩, h₂, h₅, h₆⟩
        exact ⟨⟨h₁, h₂⟩, ⟨h₃, h₄⟩, h₅, h₆⟩

/-- Any part of a canonical table is canonical. -/
theorem Sparse.wf_sublist {l l' : List (Nat × α)} (h : l'.Sublist l) (hw : Sparse.wf dflt l = true) : Sparse.wf dflt l' = true := by
  rw [Sparse.wf_iff] at *
  exact ⟨hw.1.sublist h, fun p hp => hw.2 p (h.subset hp)⟩

theorem Sparse.wf_filter {l : List (Nat × α)} (f : Nat × α → Bool) (h : Sparse.wf dflt l = true) :
    Sparse.wf dflt (l.filter f) = true :=
  Sparse.wf_sublist dflt List.filter_sublist h

/-- Writing keeps the canonical form. -/
theorem Sparse.wf_set {l : List (Nat × α)} (a : Nat) (v : α) (h : Sparse.wf dflt l = true) :
    Sparse.wf dflt (Sparse.set dflt l a v) = true := by
  unfold Sparse.set
  split_ifs with hv
  · exact Sparse.wf_sublist dflt (Sparse.erase_sublist l a) h
  · rw [Sparse.wf_iff] at *
    obtain ⟨h₁, h₂⟩ := h
    refine ⟨?_, ?_⟩
    · clear h₂
      induction l with
      | nil => simp [Sparse.insert]
      | cons p t ih =>
        obtain ⟨k, w⟩ := p
        rw [List.pairwise_cons] at h₁
        simp only [Sparse.insert]
        split_ifs with h₃ h₄
        · rw [List.pairwise_cons, List.pairwise_cons]
          refine ⟨?_, h₁⟩
          rintro q hq
          rcases List.mem_cons.mp hq with rfl | hq
          · exact h₃
          · exact Nat.lt_trans h₃ (h₁.1 q hq)
        · rw [List.pairwise_cons]
          exact ⟨fun q hq => h₄ ▸ h₁.1 q hq, h₁.2⟩
        · rw [List.pairwise_cons]
          refine ⟨?_, ih h₁.2⟩
          intro q hq
          rcases Sparse.mem_insert hq with rfl | hq
          · simp only; omega
          · exact h₁.1 q hq
    · intro p hp
      rcases Sparse.mem_insert hp with rfl | hp
      · exact hv
      · exact h₂ p hp

end Sys2Proof.Machine
end

