-- ==== Sys2Proof/Laws/State.lean ====
section
/-! SUPPORT. What each update of one part leaves of every field of the state, and what it makes of its own: one lemma a field. -/

namespace Sys2Proof.Machine

variable (s : State)

/-! ### setReg -/

@[simp] theorem State.setReg_regs (a : Nat) (v : Word) : (s.setReg a v).regs = Sparse.set Reg.resetVal s.regs a v := rfl
@[simp] theorem State.setReg_mem (a : Nat) (v : Word) : (s.setReg a v).mem = s.mem := rfl
@[simp] theorem State.setReg_holders (a : Nat) (v : Word) : (s.setReg a v).holders = s.holders := rfl
@[simp] theorem State.setReg_berrCnt (a : Nat) (v : Word) : (s.setReg a v).berrCnt = s.berrCnt := rfl
@[simp] theorem State.setReg_cores (a : Nat) (v : Word) : (s.setReg a v).cores = s.cores := rfl
@[simp] theorem State.setReg_nvla (a : Nat) (v : Word) : (s.setReg a v).nvla = s.nvla := rfl
@[simp] theorem State.setReg_sramHard (a : Nat) (v : Word) : (s.setReg a v).sramHard = s.sramHard := rfl
@[simp] theorem State.setReg_sramLost (a : Nat) (v : Word) : (s.setReg a v).sramLost = s.sramLost := rfl
@[simp] theorem State.setReg_keyBad (a : Nat) (v : Word) : (s.setReg a v).keyBad = s.keyBad := rfl
@[simp] theorem State.setReg_tarn (a : Nat) (v : Word) : (s.setReg a v).tarn = s.tarn := rfl
@[simp] theorem State.setReg_engines (a : Nat) (v : Word) : (s.setReg a v).engines = s.engines := rfl
@[simp] theorem State.setReg_cnvs (a : Nat) (v : Word) : (s.setReg a v).cnvs = s.cnvs := rfl
@[simp] theorem State.setReg_ports (a : Nat) (v : Word) : (s.setReg a v).ports = s.ports := rfl
@[simp] theorem State.setReg_mesh (a : Nat) (v : Word) : (s.setReg a v).mesh = s.mesh := rfl
@[simp] theorem State.setReg_well (a : Nat) (v : Word) : (s.setReg a v).well = s.well := rfl
@[simp] theorem State.setReg_narga (a : Nat) (v : Word) : (s.setReg a v).narga = s.narga := rfl
@[simp] theorem State.setReg_power (a : Nat) (v : Word) : (s.setReg a v).power = s.power := rfl
@[simp] theorem State.setReg_side (a : Nat) (v : Word) : (s.setReg a v).side = s.side := rfl
@[simp] theorem State.setReg_rtc (a : Nat) (v : Word) : (s.setReg a v).rtc = s.rtc := rfl
@[simp] theorem State.setReg_us (a : Nat) (v : Word) : (s.setReg a v).us = s.us := rfl
@[simp] theorem State.setReg_free (a : Nat) (v : Word) : (s.setReg a v).free = s.free := rfl
@[simp] theorem State.setReg_pending (a : Nat) (v : Word) : (s.setReg a v).pending = s.pending := rfl

/-! ### setBits -/

@[simp] theorem State.setBits_regs (a : Nat) (v : Word) : (s.setBits a v).regs = Sparse.set Reg.resetVal s.regs a (s.reg a ||| v) := rfl
@[simp] theorem State.setBits_mem (a : Nat) (v : Word) : (s.setBits a v).mem = s.mem := rfl
@[simp] theorem State.setBits_holders (a : Nat) (v : Word) : (s.setBits a v).holders = s.holders := rfl
@[simp] theorem State.setBits_berrCnt (a : Nat) (v : Word) : (s.setBits a v).berrCnt = s.berrCnt := rfl
@[simp] theorem State.setBits_cores (a : Nat) (v : Word) : (s.setBits a v).cores = s.cores := rfl
@[simp] theorem State.setBits_nvla (a : Nat) (v : Word) : (s.setBits a v).nvla = s.nvla := rfl
@[simp] theorem State.setBits_sramHard (a : Nat) (v : Word) : (s.setBits a v).sramHard = s.sramHard := rfl
@[simp] theorem State.setBits_sramLost (a : Nat) (v : Word) : (s.setBits a v).sramLost = s.sramLost := rfl
@[simp] theorem State.setBits_keyBad (a : Nat) (v : Word) : (s.setBits a v).keyBad = s.keyBad := rfl
@[simp] theorem State.setBits_tarn (a : Nat) (v : Word) : (s.setBits a v).tarn = s.tarn := rfl
@[simp] theorem State.setBits_engines (a : Nat) (v : Word) : (s.setBits a v).engines = s.engines := rfl
@[simp] theorem State.setBits_cnvs (a : Nat) (v : Word) : (s.setBits a v).cnvs = s.cnvs := rfl
@[simp] theorem State.setBits_ports (a : Nat) (v : Word) : (s.setBits a v).ports = s.ports := rfl
@[simp] theorem State.setBits_mesh (a : Nat) (v : Word) : (s.setBits a v).mesh = s.mesh := rfl
@[simp] theorem State.setBits_well (a : Nat) (v : Word) : (s.setBits a v).well = s.well := rfl
@[simp] theorem State.setBits_narga (a : Nat) (v : Word) : (s.setBits a v).narga = s.narga := rfl
@[simp] theorem State.setBits_power (a : Nat) (v : Word) : (s.setBits a v).power = s.power := rfl
@[simp] theorem State.setBits_side (a : Nat) (v : Word) : (s.setBits a v).side = s.side := rfl
@[simp] theorem State.setBits_rtc (a : Nat) (v : Word) : (s.setBits a v).rtc = s.rtc := rfl
@[simp] theorem State.setBits_us (a : Nat) (v : Word) : (s.setBits a v).us = s.us := rfl
@[simp] theorem State.setBits_free (a : Nat) (v : Word) : (s.setBits a v).free = s.free := rfl
@[simp] theorem State.setBits_pending (a : Nat) (v : Word) : (s.setBits a v).pending = s.pending := rfl

/-! ### clearBits -/

@[simp] theorem State.clearBits_regs (a : Nat) (v : Word) : (s.clearBits a v).regs = Sparse.set Reg.resetVal s.regs a (s.reg a &&& ~~~ v) := rfl
@[simp] theorem State.clearBits_mem (a : Nat) (v : Word) : (s.clearBits a v).mem = s.mem := rfl
@[simp] theorem State.clearBits_holders (a : Nat) (v : Word) : (s.clearBits a v).holders = s.holders := rfl
@[simp] theorem State.clearBits_berrCnt (a : Nat) (v : Word) : (s.clearBits a v).berrCnt = s.berrCnt := rfl
@[simp] theorem State.clearBits_cores (a : Nat) (v : Word) : (s.clearBits a v).cores = s.cores := rfl
@[simp] theorem State.clearBits_nvla (a : Nat) (v : Word) : (s.clearBits a v).nvla = s.nvla := rfl
@[simp] theorem State.clearBits_sramHard (a : Nat) (v : Word) : (s.clearBits a v).sramHard = s.sramHard := rfl
@[simp] theorem State.clearBits_sramLost (a : Nat) (v : Word) : (s.clearBits a v).sramLost = s.sramLost := rfl
@[simp] theorem State.clearBits_keyBad (a : Nat) (v : Word) : (s.clearBits a v).keyBad = s.keyBad := rfl
@[simp] theorem State.clearBits_tarn (a : Nat) (v : Word) : (s.clearBits a v).tarn = s.tarn := rfl
@[simp] theorem State.clearBits_engines (a : Nat) (v : Word) : (s.clearBits a v).engines = s.engines := rfl
@[simp] theorem State.clearBits_cnvs (a : Nat) (v : Word) : (s.clearBits a v).cnvs = s.cnvs := rfl
@[simp] theorem State.clearBits_ports (a : Nat) (v : Word) : (s.clearBits a v).ports = s.ports := rfl
@[simp] theorem State.clearBits_mesh (a : Nat) (v : Word) : (s.clearBits a v).mesh = s.mesh := rfl
@[simp] theorem State.clearBits_well (a : Nat) (v : Word) : (s.clearBits a v).well = s.well := rfl
@[simp] theorem State.clearBits_narga (a : Nat) (v : Word) : (s.clearBits a v).narga = s.narga := rfl
@[simp] theorem State.clearBits_power (a : Nat) (v : Word) : (s.clearBits a v).power = s.power := rfl
@[simp] theorem State.clearBits_side (a : Nat) (v : Word) : (s.clearBits a v).side = s.side := rfl
@[simp] theorem State.clearBits_rtc (a : Nat) (v : Word) : (s.clearBits a v).rtc = s.rtc := rfl
@[simp] theorem State.clearBits_us (a : Nat) (v : Word) : (s.clearBits a v).us = s.us := rfl
@[simp] theorem State.clearBits_free (a : Nat) (v : Word) : (s.clearBits a v).free = s.free := rfl
@[simp] theorem State.clearBits_pending (a : Nat) (v : Word) : (s.clearBits a v).pending = s.pending := rfl

/-! ### setByte -/

@[simp] theorem State.setByte_regs (a : Nat) (v : Byte) : (s.setByte a v).regs = s.regs := rfl
@[simp] theorem State.setByte_mem (a : Nat) (v : Byte) : (s.setByte a v).mem = Sparse.set defaultByte s.mem a (v ^^^ s.veil a) := rfl
@[simp] theorem State.setByte_holders (a : Nat) (v : Byte) : (s.setByte a v).holders = s.holders := rfl
@[simp] theorem State.setByte_berrCnt (a : Nat) (v : Byte) : (s.setByte a v).berrCnt = s.berrCnt := rfl
@[simp] theorem State.setByte_cores (a : Nat) (v : Byte) : (s.setByte a v).cores = s.cores := rfl
@[simp] theorem State.setByte_nvla (a : Nat) (v : Byte) : (s.setByte a v).nvla = s.nvla := rfl
@[simp] theorem State.setByte_sramHard (a : Nat) (v : Byte) : (s.setByte a v).sramHard = s.sramHard := rfl
@[simp] theorem State.setByte_sramLost (a : Nat) (v : Byte) : (s.setByte a v).sramLost = s.sramLost := rfl
@[simp] theorem State.setByte_keyBad (a : Nat) (v : Byte) : (s.setByte a v).keyBad = s.keyBad := rfl
@[simp] theorem State.setByte_tarn (a : Nat) (v : Byte) : (s.setByte a v).tarn = s.tarn := rfl
@[simp] theorem State.setByte_engines (a : Nat) (v : Byte) : (s.setByte a v).engines = s.engines := rfl
@[simp] theorem State.setByte_cnvs (a : Nat) (v : Byte) : (s.setByte a v).cnvs = s.cnvs := rfl
@[simp] theorem State.setByte_ports (a : Nat) (v : Byte) : (s.setByte a v).ports = s.ports := rfl
@[simp] theorem State.setByte_mesh (a : Nat) (v : Byte) : (s.setByte a v).mesh = s.mesh := rfl
@[simp] theorem State.setByte_well (a : Nat) (v : Byte) : (s.setByte a v).well = s.well := rfl
@[simp] theorem State.setByte_narga (a : Nat) (v : Byte) : (s.setByte a v).narga = s.narga := rfl
@[simp] theorem State.setByte_power (a : Nat) (v : Byte) : (s.setByte a v).power = s.power := rfl
@[simp] theorem State.setByte_side (a : Nat) (v : Byte) : (s.setByte a v).side = s.side := rfl
@[simp] theorem State.setByte_rtc (a : Nat) (v : Byte) : (s.setByte a v).rtc = s.rtc := rfl
@[simp] theorem State.setByte_us (a : Nat) (v : Byte) : (s.setByte a v).us = s.us := rfl
@[simp] theorem State.setByte_free (a : Nat) (v : Byte) : (s.setByte a v).free = s.free := rfl
@[simp] theorem State.setByte_pending (a : Nat) (v : Byte) : (s.setByte a v).pending = s.pending := rfl

/-! ### modCore -/

@[simp] theorem State.modCore_regs (c : Core) (f : CoreSt → CoreSt) : (s.modCore c f).regs = s.regs := rfl
@[simp] theorem State.modCore_mem (c : Core) (f : CoreSt → CoreSt) : (s.modCore c f).mem = s.mem := rfl
@[simp] theorem State.modCore_holders (c : Core) (f : CoreSt → CoreSt) : (s.modCore c f).holders = s.holders := rfl
@[simp] theorem State.modCore_berrCnt (c : Core) (f : CoreSt → CoreSt) : (s.modCore c f).berrCnt = s.berrCnt := rfl
@[simp] theorem State.modCore_cores (c : Core) (f : CoreSt → CoreSt) : (s.modCore c f).cores = s.cores.set c (f s.cores[c]) := rfl
@[simp] theorem State.modCore_nvla (c : Core) (f : CoreSt → CoreSt) : (s.modCore c f).nvla = s.nvla := rfl
@[simp] theorem State.modCore_sramHard (c : Core) (f : CoreSt → CoreSt) : (s.modCore c f).sramHard = s.sramHard := rfl
@[simp] theorem State.modCore_sramLost (c : Core) (f : CoreSt → CoreSt) : (s.modCore c f).sramLost = s.sramLost := rfl
@[simp] theorem State.modCore_keyBad (c : Core) (f : CoreSt → CoreSt) : (s.modCore c f).keyBad = s.keyBad := rfl
@[simp] theorem State.modCore_tarn (c : Core) (f : CoreSt → CoreSt) : (s.modCore c f).tarn = s.tarn := rfl
@[simp] theorem State.modCore_engines (c : Core) (f : CoreSt → CoreSt) : (s.modCore c f).engines = s.engines := rfl
@[simp] theorem State.modCore_cnvs (c : Core) (f : CoreSt → CoreSt) : (s.modCore c f).cnvs = s.cnvs := rfl
@[simp] theorem State.modCore_ports (c : Core) (f : CoreSt → CoreSt) : (s.modCore c f).ports = s.ports := rfl
@[simp] theorem State.modCore_mesh (c : Core) (f : CoreSt → CoreSt) : (s.modCore c f).mesh = s.mesh := rfl
@[simp] theorem State.modCore_well (c : Core) (f : CoreSt → CoreSt) : (s.modCore c f).well = s.well := rfl
@[simp] theorem State.modCore_narga (c : Core) (f : CoreSt → CoreSt) : (s.modCore c f).narga = s.narga := rfl
@[simp] theorem State.modCore_power (c : Core) (f : CoreSt → CoreSt) : (s.modCore c f).power = s.power := rfl
@[simp] theorem State.modCore_side (c : Core) (f : CoreSt → CoreSt) : (s.modCore c f).side = s.side := rfl
@[simp] theorem State.modCore_rtc (c : Core) (f : CoreSt → CoreSt) : (s.modCore c f).rtc = s.rtc := rfl
@[simp] theorem State.modCore_us (c : Core) (f : CoreSt → CoreSt) : (s.modCore c f).us = s.us := rfl
@[simp] theorem State.modCore_free (c : Core) (f : CoreSt → CoreSt) : (s.modCore c f).free = s.free := rfl
@[simp] theorem State.modCore_pending (c : Core) (f : CoreSt → CoreSt) : (s.modCore c f).pending = s.pending := rfl

/-! ### modCtx -/

@[simp] theorem State.modCtx_regs (c : Core) (k : Ctx) (f : CtxSt → CtxSt) : (s.modCtx c k f).regs = s.regs := rfl
@[simp] theorem State.modCtx_mem (c : Core) (k : Ctx) (f : CtxSt → CtxSt) : (s.modCtx c k f).mem = s.mem := rfl
@[simp] theorem State.modCtx_holders (c : Core) (k : Ctx) (f : CtxSt → CtxSt) : (s.modCtx c k f).holders = s.holders := rfl
@[simp] theorem State.modCtx_berrCnt (c : Core) (k : Ctx) (f : CtxSt → CtxSt) : (s.modCtx c k f).berrCnt = s.berrCnt := rfl
@[simp] theorem State.modCtx_nvla (c : Core) (k : Ctx) (f : CtxSt → CtxSt) : (s.modCtx c k f).nvla = s.nvla := rfl
@[simp] theorem State.modCtx_sramHard (c : Core) (k : Ctx) (f : CtxSt → CtxSt) : (s.modCtx c k f).sramHard = s.sramHard := rfl
@[simp] theorem State.modCtx_sramLost (c : Core) (k : Ctx) (f : CtxSt → CtxSt) : (s.modCtx c k f).sramLost = s.sramLost := rfl
@[simp] theorem State.modCtx_keyBad (c : Core) (k : Ctx) (f : CtxSt → CtxSt) : (s.modCtx c k f).keyBad = s.keyBad := rfl
@[simp] theorem State.modCtx_tarn (c : Core) (k : Ctx) (f : CtxSt → CtxSt) : (s.modCtx c k f).tarn = s.tarn := rfl
@[simp] theorem State.modCtx_engines (c : Core) (k : Ctx) (f : CtxSt → CtxSt) : (s.modCtx c k f).engines = s.engines := rfl
@[simp] theorem State.modCtx_cnvs (c : Core) (k : Ctx) (f : CtxSt → CtxSt) : (s.modCtx c k f).cnvs = s.cnvs := rfl
@[simp] theorem State.modCtx_ports (c : Core) (k : Ctx) (f : CtxSt → CtxSt) : (s.modCtx c k f).ports = s.ports := rfl
@[simp] theorem State.modCtx_mesh (c : Core) (k : Ctx) (f : CtxSt → CtxSt) : (s.modCtx c k f).mesh = s.mesh := rfl
@[simp] theorem State.modCtx_well (c : Core) (k : Ctx) (f : CtxSt → CtxSt) : (s.modCtx c k f).well = s.well := rfl
@[simp] theorem State.modCtx_narga (c : Core) (k : Ctx) (f : CtxSt → CtxSt) : (s.modCtx c k f).narga = s.narga := rfl
@[simp] theorem State.modCtx_power (c : Core) (k : Ctx) (f : CtxSt → CtxSt) : (s.modCtx c k f).power = s.power := rfl
@[simp] theorem State.modCtx_side (c : Core) (k : Ctx) (f : CtxSt → CtxSt) : (s.modCtx c k f).side = s.side := rfl
@[simp] theorem State.modCtx_rtc (c : Core) (k : Ctx) (f : CtxSt → CtxSt) : (s.modCtx c k f).rtc = s.rtc := rfl
@[simp] theorem State.modCtx_us (c : Core) (k : Ctx) (f : CtxSt → CtxSt) : (s.modCtx c k f).us = s.us := rfl
@[simp] theorem State.modCtx_free (c : Core) (k : Ctx) (f : CtxSt → CtxSt) : (s.modCtx c k f).free = s.free := rfl
@[simp] theorem State.modCtx_pending (c : Core) (k : Ctx) (f : CtxSt → CtxSt) : (s.modCtx c k f).pending = s.pending := rfl

/-! ### modNvla -/

@[simp] theorem State.modNvla_regs (f : NvlaSt → NvlaSt) : (s.modNvla f).regs = s.regs := rfl
@[simp] theorem State.modNvla_mem (f : NvlaSt → NvlaSt) : (s.modNvla f).mem = s.mem := rfl
@[simp] theorem State.modNvla_holders (f : NvlaSt → NvlaSt) : (s.modNvla f).holders = s.holders := rfl
@[simp] theorem State.modNvla_berrCnt (f : NvlaSt → NvlaSt) : (s.modNvla f).berrCnt = s.berrCnt := rfl
@[simp] theorem State.modNvla_cores (f : NvlaSt → NvlaSt) : (s.modNvla f).cores = s.cores := rfl
@[simp] theorem State.modNvla_nvla (f : NvlaSt → NvlaSt) : (s.modNvla f).nvla = f s.nvla := rfl
@[simp] theorem State.modNvla_sramHard (f : NvlaSt → NvlaSt) : (s.modNvla f).sramHard = s.sramHard := rfl
@[simp] theorem State.modNvla_sramLost (f : NvlaSt → NvlaSt) : (s.modNvla f).sramLost = s.sramLost := rfl
@[simp] theorem State.modNvla_keyBad (f : NvlaSt → NvlaSt) : (s.modNvla f).keyBad = s.keyBad := rfl
@[simp] theorem State.modNvla_tarn (f : NvlaSt → NvlaSt) : (s.modNvla f).tarn = s.tarn := rfl
@[simp] theorem State.modNvla_engines (f : NvlaSt → NvlaSt) : (s.modNvla f).engines = s.engines := rfl
@[simp] theorem State.modNvla_cnvs (f : NvlaSt → NvlaSt) : (s.modNvla f).cnvs = s.cnvs := rfl
@[simp] theorem State.modNvla_ports (f : NvlaSt → NvlaSt) : (s.modNvla f).ports = s.ports := rfl
@[simp] theorem State.modNvla_mesh (f : NvlaSt → NvlaSt) : (s.modNvla f).mesh = s.mesh := rfl
@[simp] theorem State.modNvla_well (f : NvlaSt → NvlaSt) : (s.modNvla f).well = s.well := rfl
@[simp] theorem State.modNvla_narga (f : NvlaSt → NvlaSt) : (s.modNvla f).narga = s.narga := rfl
@[simp] theorem State.modNvla_power (f : NvlaSt → NvlaSt) : (s.modNvla f).power = s.power := rfl
@[simp] theorem State.modNvla_side (f : NvlaSt → NvlaSt) : (s.modNvla f).side = s.side := rfl
@[simp] theorem State.modNvla_rtc (f : NvlaSt → NvlaSt) : (s.modNvla f).rtc = s.rtc := rfl
@[simp] theorem State.modNvla_us (f : NvlaSt → NvlaSt) : (s.modNvla f).us = s.us := rfl
@[simp] theorem State.modNvla_free (f : NvlaSt → NvlaSt) : (s.modNvla f).free = s.free := rfl
@[simp] theorem State.modNvla_pending (f : NvlaSt → NvlaSt) : (s.modNvla f).pending = s.pending := rfl

/-! ### modTarn -/

@[simp] theorem State.modTarn_regs (f : TarnSt → TarnSt) : (s.modTarn f).regs = s.regs := rfl
@[simp] theorem State.modTarn_mem (f : TarnSt → TarnSt) : (s.modTarn f).mem = s.mem := rfl
@[simp] theorem State.modTarn_holders (f : TarnSt → TarnSt) : (s.modTarn f).holders = s.holders := rfl
@[simp] theorem State.modTarn_berrCnt (f : TarnSt → TarnSt) : (s.modTarn f).berrCnt = s.berrCnt := rfl
@[simp] theorem State.modTarn_cores (f : TarnSt → TarnSt) : (s.modTarn f).cores = s.cores := rfl
@[simp] theorem State.modTarn_nvla (f : TarnSt → TarnSt) : (s.modTarn f).nvla = s.nvla := rfl
@[simp] theorem State.modTarn_sramHard (f : TarnSt → TarnSt) : (s.modTarn f).sramHard = s.sramHard := rfl
@[simp] theorem State.modTarn_sramLost (f : TarnSt → TarnSt) : (s.modTarn f).sramLost = s.sramLost := rfl
@[simp] theorem State.modTarn_keyBad (f : TarnSt → TarnSt) : (s.modTarn f).keyBad = s.keyBad := rfl
@[simp] theorem State.modTarn_tarn (f : TarnSt → TarnSt) : (s.modTarn f).tarn = f s.tarn := rfl
@[simp] theorem State.modTarn_engines (f : TarnSt → TarnSt) : (s.modTarn f).engines = s.engines := rfl
@[simp] theorem State.modTarn_cnvs (f : TarnSt → TarnSt) : (s.modTarn f).cnvs = s.cnvs := rfl
@[simp] theorem State.modTarn_ports (f : TarnSt → TarnSt) : (s.modTarn f).ports = s.ports := rfl
@[simp] theorem State.modTarn_mesh (f : TarnSt → TarnSt) : (s.modTarn f).mesh = s.mesh := rfl
@[simp] theorem State.modTarn_well (f : TarnSt → TarnSt) : (s.modTarn f).well = s.well := rfl
@[simp] theorem State.modTarn_narga (f : TarnSt → TarnSt) : (s.modTarn f).narga = s.narga := rfl
@[simp] theorem State.modTarn_power (f : TarnSt → TarnSt) : (s.modTarn f).power = s.power := rfl
@[simp] theorem State.modTarn_side (f : TarnSt → TarnSt) : (s.modTarn f).side = s.side := rfl
@[simp] theorem State.modTarn_rtc (f : TarnSt → TarnSt) : (s.modTarn f).rtc = s.rtc := rfl
@[simp] theorem State.modTarn_us (f : TarnSt → TarnSt) : (s.modTarn f).us = s.us := rfl
@[simp] theorem State.modTarn_free (f : TarnSt → TarnSt) : (s.modTarn f).free = s.free := rfl
@[simp] theorem State.modTarn_pending (f : TarnSt → TarnSt) : (s.modTarn f).pending = s.pending := rfl

/-! ### modChan -/

@[simp] theorem State.modChan_regs (n : Chan) (f : TarnChan → TarnChan) : (s.modChan n f).regs = s.regs := rfl
@[simp] theorem State.modChan_mem (n : Chan) (f : TarnChan → TarnChan) : (s.modChan n f).mem = s.mem := rfl
@[simp] theorem State.modChan_holders (n : Chan) (f : TarnChan → TarnChan) : (s.modChan n f).holders = s.holders := rfl
@[simp] theorem State.modChan_berrCnt (n : Chan) (f : TarnChan → TarnChan) : (s.modChan n f).berrCnt = s.berrCnt := rfl
@[simp] theorem State.modChan_cores (n : Chan) (f : TarnChan → TarnChan) : (s.modChan n f).cores = s.cores := rfl
@[simp] theorem State.modChan_nvla (n : Chan) (f : TarnChan → TarnChan) : (s.modChan n f).nvla = s.nvla := rfl
@[simp] theorem State.modChan_sramHard (n : Chan) (f : TarnChan → TarnChan) : (s.modChan n f).sramHard = s.sramHard := rfl
@[simp] theorem State.modChan_sramLost (n : Chan) (f : TarnChan → TarnChan) : (s.modChan n f).sramLost = s.sramLost := rfl
@[simp] theorem State.modChan_keyBad (n : Chan) (f : TarnChan → TarnChan) : (s.modChan n f).keyBad = s.keyBad := rfl
@[simp] theorem State.modChan_engines (n : Chan) (f : TarnChan → TarnChan) : (s.modChan n f).engines = s.engines := rfl
@[simp] theorem State.modChan_cnvs (n : Chan) (f : TarnChan → TarnChan) : (s.modChan n f).cnvs = s.cnvs := rfl
@[simp] theorem State.modChan_ports (n : Chan) (f : TarnChan → TarnChan) : (s.modChan n f).ports = s.ports := rfl
@[simp] theorem State.modChan_mesh (n : Chan) (f : TarnChan → TarnChan) : (s.modChan n f).mesh = s.mesh := rfl
@[simp] theorem State.modChan_well (n : Chan) (f : TarnChan → TarnChan) : (s.modChan n f).well = s.well := rfl
@[simp] theorem State.modChan_narga (n : Chan) (f : TarnChan → TarnChan) : (s.modChan n f).narga = s.narga := rfl
@[simp] theorem State.modChan_power (n : Chan) (f : TarnChan → TarnChan) : (s.modChan n f).power = s.power := rfl
@[simp] theorem State.modChan_side (n : Chan) (f : TarnChan → TarnChan) : (s.modChan n f).side = s.side := rfl
@[simp] theorem State.modChan_rtc (n : Chan) (f : TarnChan → TarnChan) : (s.modChan n f).rtc = s.rtc := rfl
@[simp] theorem State.modChan_us (n : Chan) (f : TarnChan → TarnChan) : (s.modChan n f).us = s.us := rfl
@[simp] theorem State.modChan_free (n : Chan) (f : TarnChan → TarnChan) : (s.modChan n f).free = s.free := rfl
@[simp] theorem State.modChan_pending (n : Chan) (f : TarnChan → TarnChan) : (s.modChan n f).pending = s.pending := rfl

/-! ### modArea -/

@[simp] theorem State.modArea_regs (f : TarnSt → TarnSt) : (s.modArea f).regs = s.regs := rfl
@[simp] theorem State.modArea_mem (f : TarnSt → TarnSt) : (s.modArea f).mem = s.mem := rfl
@[simp] theorem State.modArea_holders (f : TarnSt → TarnSt) : (s.modArea f).holders = s.holders := rfl
@[simp] theorem State.modArea_berrCnt (f : TarnSt → TarnSt) : (s.modArea f).berrCnt = s.berrCnt := rfl
@[simp] theorem State.modArea_cores (f : TarnSt → TarnSt) : (s.modArea f).cores = s.cores := rfl
@[simp] theorem State.modArea_nvla (f : TarnSt → TarnSt) : (s.modArea f).nvla = s.nvla := rfl
@[simp] theorem State.modArea_sramHard (f : TarnSt → TarnSt) : (s.modArea f).sramHard = s.sramHard := rfl
@[simp] theorem State.modArea_sramLost (f : TarnSt → TarnSt) : (s.modArea f).sramLost = s.sramLost := rfl
@[simp] theorem State.modArea_keyBad (f : TarnSt → TarnSt) : (s.modArea f).keyBad = s.keyBad := rfl
@[simp] theorem State.modArea_engines (f : TarnSt → TarnSt) : (s.modArea f).engines = s.engines := rfl
@[simp] theorem State.modArea_cnvs (f : TarnSt → TarnSt) : (s.modArea f).cnvs = s.cnvs := rfl
@[simp] theorem State.modArea_ports (f : TarnSt → TarnSt) : (s.modArea f).ports = s.ports := rfl
@[simp] theorem State.modArea_mesh (f : TarnSt → TarnSt) : (s.modArea f).mesh = s.mesh := rfl
@[simp] theorem State.modArea_well (f : TarnSt → TarnSt) : (s.modArea f).well = s.well := rfl
@[simp] theorem State.modArea_narga (f : TarnSt → TarnSt) : (s.modArea f).narga = s.narga := rfl
@[simp] theorem State.modArea_power (f : TarnSt → TarnSt) : (s.modArea f).power = s.power := rfl
@[simp] theorem State.modArea_side (f : TarnSt → TarnSt) : (s.modArea f).side = s.side := rfl
@[simp] theorem State.modArea_rtc (f : TarnSt → TarnSt) : (s.modArea f).rtc = s.rtc := rfl
@[simp] theorem State.modArea_us (f : TarnSt → TarnSt) : (s.modArea f).us = s.us := rfl
@[simp] theorem State.modArea_free (f : TarnSt → TarnSt) : (s.modArea f).free = s.free := rfl
@[simp] theorem State.modArea_pending (f : TarnSt → TarnSt) : (s.modArea f).pending = s.pending := rfl

/-! ### modEng -/

@[simp] theorem State.modEng_regs (n : Chan) (f : EngineSt → EngineSt) : (s.modEng n f).regs = s.regs := rfl
@[simp] theorem State.modEng_mem (n : Chan) (f : EngineSt → EngineSt) : (s.modEng n f).mem = s.mem := rfl
@[simp] theorem State.modEng_holders (n : Chan) (f : EngineSt → EngineSt) : (s.modEng n f).holders = s.holders := rfl
@[simp] theorem State.modEng_berrCnt (n : Chan) (f : EngineSt → EngineSt) : (s.modEng n f).berrCnt = s.berrCnt := rfl
@[simp] theorem State.modEng_cores (n : Chan) (f : EngineSt → EngineSt) : (s.modEng n f).cores = s.cores := rfl
@[simp] theorem State.modEng_nvla (n : Chan) (f : EngineSt → EngineSt) : (s.modEng n f).nvla = s.nvla := rfl
@[simp] theorem State.modEng_sramHard (n : Chan) (f : EngineSt → EngineSt) : (s.modEng n f).sramHard = s.sramHard := rfl
@[simp] theorem State.modEng_sramLost (n : Chan) (f : EngineSt → EngineSt) : (s.modEng n f).sramLost = s.sramLost := rfl
@[simp] theorem State.modEng_keyBad (n : Chan) (f : EngineSt → EngineSt) : (s.modEng n f).keyBad = s.keyBad := rfl
@[simp] theorem State.modEng_tarn (n : Chan) (f : EngineSt → EngineSt) : (s.modEng n f).tarn = s.tarn := rfl
@[simp] theorem State.modEng_engines (n : Chan) (f : EngineSt → EngineSt) : (s.modEng n f).engines = s.engines.set n (f s.engines[n]) := rfl
@[simp] theorem State.modEng_cnvs (n : Chan) (f : EngineSt → EngineSt) : (s.modEng n f).cnvs = s.cnvs := rfl
@[simp] theorem State.modEng_ports (n : Chan) (f : EngineSt → EngineSt) : (s.modEng n f).ports = s.ports := rfl
@[simp] theorem State.modEng_mesh (n : Chan) (f : EngineSt → EngineSt) : (s.modEng n f).mesh = s.mesh := rfl
@[simp] theorem State.modEng_well (n : Chan) (f : EngineSt → EngineSt) : (s.modEng n f).well = s.well := rfl
@[simp] theorem State.modEng_narga (n : Chan) (f : EngineSt → EngineSt) : (s.modEng n f).narga = s.narga := rfl
@[simp] theorem State.modEng_power (n : Chan) (f : EngineSt → EngineSt) : (s.modEng n f).power = s.power := rfl
@[simp] theorem State.modEng_side (n : Chan) (f : EngineSt → EngineSt) : (s.modEng n f).side = s.side := rfl
@[simp] theorem State.modEng_rtc (n : Chan) (f : EngineSt → EngineSt) : (s.modEng n f).rtc = s.rtc := rfl
@[simp] theorem State.modEng_us (n : Chan) (f : EngineSt → EngineSt) : (s.modEng n f).us = s.us := rfl
@[simp] theorem State.modEng_free (n : Chan) (f : EngineSt → EngineSt) : (s.modEng n f).free = s.free := rfl
@[simp] theorem State.modEng_pending (n : Chan) (f : EngineSt → EngineSt) : (s.modEng n f).pending = s.pending := rfl

/-! ### modCnv -/

@[simp] theorem State.modCnv_regs (u : Cnv) (f : CnvSt → CnvSt) : (s.modCnv u f).regs = s.regs := rfl
@[simp] theorem State.modCnv_mem (u : Cnv) (f : CnvSt → CnvSt) : (s.modCnv u f).mem = s.mem := rfl
@[simp] theorem State.modCnv_holders (u : Cnv) (f : CnvSt → CnvSt) : (s.modCnv u f).holders = s.holders := rfl
@[simp] theorem State.modCnv_berrCnt (u : Cnv) (f : CnvSt → CnvSt) : (s.modCnv u f).berrCnt = s.berrCnt := rfl
@[simp] theorem State.modCnv_cores (u : Cnv) (f : CnvSt → CnvSt) : (s.modCnv u f).cores = s.cores := rfl
@[simp] theorem State.modCnv_nvla (u : Cnv) (f : CnvSt → CnvSt) : (s.modCnv u f).nvla = s.nvla := rfl
@[simp] theorem State.modCnv_sramHard (u : Cnv) (f : CnvSt → CnvSt) : (s.modCnv u f).sramHard = s.sramHard := rfl
@[simp] theorem State.modCnv_sramLost (u : Cnv) (f : CnvSt → CnvSt) : (s.modCnv u f).sramLost = s.sramLost := rfl
@[simp] theorem State.modCnv_keyBad (u : Cnv) (f : CnvSt → CnvSt) : (s.modCnv u f).keyBad = s.keyBad := rfl
@[simp] theorem State.modCnv_tarn (u : Cnv) (f : CnvSt → CnvSt) : (s.modCnv u f).tarn = s.tarn := rfl
@[simp] theorem State.modCnv_engines (u : Cnv) (f : CnvSt → CnvSt) : (s.modCnv u f).engines = s.engines := rfl
@[simp] theorem State.modCnv_cnvs (u : Cnv) (f : CnvSt → CnvSt) : (s.modCnv u f).cnvs = s.cnvs.set u (f s.cnvs[u]) := rfl
@[simp] theorem State.modCnv_ports (u : Cnv) (f : CnvSt → CnvSt) : (s.modCnv u f).ports = s.ports := rfl
@[simp] theorem State.modCnv_mesh (u : Cnv) (f : CnvSt → CnvSt) : (s.modCnv u f).mesh = s.mesh := rfl
@[simp] theorem State.modCnv_well (u : Cnv) (f : CnvSt → CnvSt) : (s.modCnv u f).well = s.well := rfl
@[simp] theorem State.modCnv_narga (u : Cnv) (f : CnvSt → CnvSt) : (s.modCnv u f).narga = s.narga := rfl
@[simp] theorem State.modCnv_power (u : Cnv) (f : CnvSt → CnvSt) : (s.modCnv u f).power = s.power := rfl
@[simp] theorem State.modCnv_side (u : Cnv) (f : CnvSt → CnvSt) : (s.modCnv u f).side = s.side := rfl
@[simp] theorem State.modCnv_rtc (u : Cnv) (f : CnvSt → CnvSt) : (s.modCnv u f).rtc = s.rtc := rfl
@[simp] theorem State.modCnv_us (u : Cnv) (f : CnvSt → CnvSt) : (s.modCnv u f).us = s.us := rfl
@[simp] theorem State.modCnv_free (u : Cnv) (f : CnvSt → CnvSt) : (s.modCnv u f).free = s.free := rfl
@[simp] theorem State.modCnv_pending (u : Cnv) (f : CnvSt → CnvSt) : (s.modCnv u f).pending = s.pending := rfl

/-! ### modPort -/

@[simp] theorem State.modPort_regs (p : Port) (f : PortSt → PortSt) : (s.modPort p f).regs = s.regs := rfl
@[simp] theorem State.modPort_mem (p : Port) (f : PortSt → PortSt) : (s.modPort p f).mem = s.mem := rfl
@[simp] theorem State.modPort_holders (p : Port) (f : PortSt → PortSt) : (s.modPort p f).holders = s.holders := rfl
@[simp] theorem State.modPort_berrCnt (p : Port) (f : PortSt → PortSt) : (s.modPort p f).berrCnt = s.berrCnt := rfl
@[simp] theorem State.modPort_cores (p : Port) (f : PortSt → PortSt) : (s.modPort p f).cores = s.cores := rfl
@[simp] theorem State.modPort_nvla (p : Port) (f : PortSt → PortSt) : (s.modPort p f).nvla = s.nvla := rfl
@[simp] theorem State.modPort_sramHard (p : Port) (f : PortSt → PortSt) : (s.modPort p f).sramHard = s.sramHard := rfl
@[simp] theorem State.modPort_sramLost (p : Port) (f : PortSt → PortSt) : (s.modPort p f).sramLost = s.sramLost := rfl
@[simp] theorem State.modPort_keyBad (p : Port) (f : PortSt → PortSt) : (s.modPort p f).keyBad = s.keyBad := rfl
@[simp] theorem State.modPort_tarn (p : Port) (f : PortSt → PortSt) : (s.modPort p f).tarn = s.tarn := rfl
@[simp] theorem State.modPort_engines (p : Port) (f : PortSt → PortSt) : (s.modPort p f).engines = s.engines := rfl
@[simp] theorem State.modPort_cnvs (p : Port) (f : PortSt → PortSt) : (s.modPort p f).cnvs = s.cnvs := rfl
@[simp] theorem State.modPort_ports (p : Port) (f : PortSt → PortSt) : (s.modPort p f).ports = s.ports.set p (f s.ports[p]) := rfl
@[simp] theorem State.modPort_mesh (p : Port) (f : PortSt → PortSt) : (s.modPort p f).mesh = s.mesh := rfl
@[simp] theorem State.modPort_well (p : Port) (f : PortSt → PortSt) : (s.modPort p f).well = s.well := rfl
@[simp] theorem State.modPort_narga (p : Port) (f : PortSt → PortSt) : (s.modPort p f).narga = s.narga := rfl
@[simp] theorem State.modPort_power (p : Port) (f : PortSt → PortSt) : (s.modPort p f).power = s.power := rfl
@[simp] theorem State.modPort_side (p : Port) (f : PortSt → PortSt) : (s.modPort p f).side = s.side := rfl
@[simp] theorem State.modPort_rtc (p : Port) (f : PortSt → PortSt) : (s.modPort p f).rtc = s.rtc := rfl
@[simp] theorem State.modPort_us (p : Port) (f : PortSt → PortSt) : (s.modPort p f).us = s.us := rfl
@[simp] theorem State.modPort_free (p : Port) (f : PortSt → PortSt) : (s.modPort p f).free = s.free := rfl
@[simp] theorem State.modPort_pending (p : Port) (f : PortSt → PortSt) : (s.modPort p f).pending = s.pending := rfl

/-! ### modMesh -/

@[simp] theorem State.modMesh_regs (f : MeshSt → MeshSt) : (s.modMesh f).regs = s.regs := rfl
@[simp] theorem State.modMesh_mem (f : MeshSt → MeshSt) : (s.modMesh f).mem = s.mem := rfl
@[simp] theorem State.modMesh_holders (f : MeshSt → MeshSt) : (s.modMesh f).holders = s.holders := rfl
@[simp] theorem State.modMesh_berrCnt (f : MeshSt → MeshSt) : (s.modMesh f).berrCnt = s.berrCnt := rfl
@[simp] theorem State.modMesh_cores (f : MeshSt → MeshSt) : (s.modMesh f).cores = s.cores := rfl
@[simp] theorem State.modMesh_nvla (f : MeshSt → MeshSt) : (s.modMesh f).nvla = s.nvla := rfl
@[simp] theorem State.modMesh_sramHard (f : MeshSt → MeshSt) : (s.modMesh f).sramHard = s.sramHard := rfl
@[simp] theorem State.modMesh_sramLost (f : MeshSt → MeshSt) : (s.modMesh f).sramLost = s.sramLost := rfl
@[simp] theorem State.modMesh_keyBad (f : MeshSt → MeshSt) : (s.modMesh f).keyBad = s.keyBad := rfl
@[simp] theorem State.modMesh_tarn (f : MeshSt → MeshSt) : (s.modMesh f).tarn = s.tarn := rfl
@[simp] theorem State.modMesh_engines (f : MeshSt → MeshSt) : (s.modMesh f).engines = s.engines := rfl
@[simp] theorem State.modMesh_cnvs (f : MeshSt → MeshSt) : (s.modMesh f).cnvs = s.cnvs := rfl
@[simp] theorem State.modMesh_ports (f : MeshSt → MeshSt) : (s.modMesh f).ports = s.ports := rfl
@[simp] theorem State.modMesh_mesh (f : MeshSt → MeshSt) : (s.modMesh f).mesh = f s.mesh := rfl
@[simp] theorem State.modMesh_well (f : MeshSt → MeshSt) : (s.modMesh f).well = s.well := rfl
@[simp] theorem State.modMesh_narga (f : MeshSt → MeshSt) : (s.modMesh f).narga = s.narga := rfl
@[simp] theorem State.modMesh_power (f : MeshSt → MeshSt) : (s.modMesh f).power = s.power := rfl
@[simp] theorem State.modMesh_side (f : MeshSt → MeshSt) : (s.modMesh f).side = s.side := rfl
@[simp] theorem State.modMesh_rtc (f : MeshSt → MeshSt) : (s.modMesh f).rtc = s.rtc := rfl
@[simp] theorem State.modMesh_us (f : MeshSt → MeshSt) : (s.modMesh f).us = s.us := rfl
@[simp] theorem State.modMesh_free (f : MeshSt → MeshSt) : (s.modMesh f).free = s.free := rfl
@[simp] theorem State.modMesh_pending (f : MeshSt → MeshSt) : (s.modMesh f).pending = s.pending := rfl

/-! ### modTag -/

@[simp] theorem State.modTag_regs (t : Tag) (f : TagSt → TagSt) : (s.modTag t f).regs = s.regs := rfl
@[simp] theorem State.modTag_mem (t : Tag) (f : TagSt → TagSt) : (s.modTag t f).mem = s.mem := rfl
@[simp] theorem State.modTag_holders (t : Tag) (f : TagSt → TagSt) : (s.modTag t f).holders = s.holders := rfl
@[simp] theorem State.modTag_berrCnt (t : Tag) (f : TagSt → TagSt) : (s.modTag t f).berrCnt = s.berrCnt := rfl
@[simp] theorem State.modTag_cores (t : Tag) (f : TagSt → TagSt) : (s.modTag t f).cores = s.cores := rfl
@[simp] theorem State.modTag_nvla (t : Tag) (f : TagSt → TagSt) : (s.modTag t f).nvla = s.nvla := rfl
@[simp] theorem State.modTag_sramHard (t : Tag) (f : TagSt → TagSt) : (s.modTag t f).sramHard = s.sramHard := rfl
@[simp] theorem State.modTag_sramLost (t : Tag) (f : TagSt → TagSt) : (s.modTag t f).sramLost = s.sramLost := rfl
@[simp] theorem State.modTag_keyBad (t : Tag) (f : TagSt → TagSt) : (s.modTag t f).keyBad = s.keyBad := rfl
@[simp] theorem State.modTag_tarn (t : Tag) (f : TagSt → TagSt) : (s.modTag t f).tarn = s.tarn := rfl
@[simp] theorem State.modTag_engines (t : Tag) (f : TagSt → TagSt) : (s.modTag t f).engines = s.engines := rfl
@[simp] theorem State.modTag_cnvs (t : Tag) (f : TagSt → TagSt) : (s.modTag t f).cnvs = s.cnvs := rfl
@[simp] theorem State.modTag_ports (t : Tag) (f : TagSt → TagSt) : (s.modTag t f).ports = s.ports := rfl
@[simp] theorem State.modTag_well (t : Tag) (f : TagSt → TagSt) : (s.modTag t f).well = s.well := rfl
@[simp] theorem State.modTag_narga (t : Tag) (f : TagSt → TagSt) : (s.modTag t f).narga = s.narga := rfl
@[simp] theorem State.modTag_power (t : Tag) (f : TagSt → TagSt) : (s.modTag t f).power = s.power := rfl
@[simp] theorem State.modTag_side (t : Tag) (f : TagSt → TagSt) : (s.modTag t f).side = s.side := rfl
@[simp] theorem State.modTag_rtc (t : Tag) (f : TagSt → TagSt) : (s.modTag t f).rtc = s.rtc := rfl
@[simp] theorem State.modTag_us (t : Tag) (f : TagSt → TagSt) : (s.modTag t f).us = s.us := rfl
@[simp] theorem State.modTag_free (t : Tag) (f : TagSt → TagSt) : (s.modTag t f).free = s.free := rfl
@[simp] theorem State.modTag_pending (t : Tag) (f : TagSt → TagSt) : (s.modTag t f).pending = s.pending := rfl

/-! ### modEnt -/

@[simp] theorem State.modEnt_regs (e : Entry) (f : EntSt → EntSt) : (s.modEnt e f).regs = s.regs := rfl
@[simp] theorem State.modEnt_mem (e : Entry) (f : EntSt → EntSt) : (s.modEnt e f).mem = s.mem := rfl
@[simp] theorem State.modEnt_holders (e : Entry) (f : EntSt → EntSt) : (s.modEnt e f).holders = s.holders := rfl
@[simp] theorem State.modEnt_berrCnt (e : Entry) (f : EntSt → EntSt) : (s.modEnt e f).berrCnt = s.berrCnt := rfl
@[simp] theorem State.modEnt_cores (e : Entry) (f : EntSt → EntSt) : (s.modEnt e f).cores = s.cores := rfl
@[simp] theorem State.modEnt_nvla (e : Entry) (f : EntSt → EntSt) : (s.modEnt e f).nvla = s.nvla := rfl
@[simp] theorem State.modEnt_sramHard (e : Entry) (f : EntSt → EntSt) : (s.modEnt e f).sramHard = s.sramHard := rfl
@[simp] theorem State.modEnt_sramLost (e : Entry) (f : EntSt → EntSt) : (s.modEnt e f).sramLost = s.sramLost := rfl
@[simp] theorem State.modEnt_keyBad (e : Entry) (f : EntSt → EntSt) : (s.modEnt e f).keyBad = s.keyBad := rfl
@[simp] theorem State.modEnt_tarn (e : Entry) (f : EntSt → EntSt) : (s.modEnt e f).tarn = s.tarn := rfl
@[simp] theorem State.modEnt_engines (e : Entry) (f : EntSt → EntSt) : (s.modEnt e f).engines = s.engines := rfl
@[simp] theorem State.modEnt_cnvs (e : Entry) (f : EntSt → EntSt) : (s.modEnt e f).cnvs = s.cnvs := rfl
@[simp] theorem State.modEnt_ports (e : Entry) (f : EntSt → EntSt) : (s.modEnt e f).ports = s.ports := rfl
@[simp] theorem State.modEnt_well (e : Entry) (f : EntSt → EntSt) : (s.modEnt e f).well = s.well := rfl
@[simp] theorem State.modEnt_narga (e : Entry) (f : EntSt → EntSt) : (s.modEnt e f).narga = s.narga := rfl
@[simp] theorem State.modEnt_power (e : Entry) (f : EntSt → EntSt) : (s.modEnt e f).power = s.power := rfl
@[simp] theorem State.modEnt_side (e : Entry) (f : EntSt → EntSt) : (s.modEnt e f).side = s.side := rfl
@[simp] theorem State.modEnt_rtc (e : Entry) (f : EntSt → EntSt) : (s.modEnt e f).rtc = s.rtc := rfl
@[simp] theorem State.modEnt_us (e : Entry) (f : EntSt → EntSt) : (s.modEnt e f).us = s.us := rfl
@[simp] theorem State.modEnt_free (e : Entry) (f : EntSt → EntSt) : (s.modEnt e f).free = s.free := rfl
@[simp] theorem State.modEnt_pending (e : Entry) (f : EntSt → EntSt) : (s.modEnt e f).pending = s.pending := rfl

/-! ### modWell -/

@[simp] theorem State.modWell_regs (f : WellSt → WellSt) : (s.modWell f).regs = s.regs := rfl
@[simp] theorem State.modWell_mem (f : WellSt → WellSt) : (s.modWell f).mem = s.mem := rfl
@[simp] theorem State.modWell_holders (f : WellSt → WellSt) : (s.modWell f).holders = s.holders := rfl
@[simp] theorem State.modWell_berrCnt (f : WellSt → WellSt) : (s.modWell f).berrCnt = s.berrCnt := rfl
@[simp] theorem State.modWell_cores (f : WellSt → WellSt) : (s.modWell f).cores = s.cores := rfl
@[simp] theorem State.modWell_nvla (f : WellSt → WellSt) : (s.modWell f).nvla = s.nvla := rfl
@[simp] theorem State.modWell_sramHard (f : WellSt → WellSt) : (s.modWell f).sramHard = s.sramHard := rfl
@[simp] theorem State.modWell_sramLost (f : WellSt → WellSt) : (s.modWell f).sramLost = s.sramLost := rfl
@[simp] theorem State.modWell_keyBad (f : WellSt → WellSt) : (s.modWell f).keyBad = s.keyBad := rfl
@[simp] theorem State.modWell_tarn (f : WellSt → WellSt) : (s.modWell f).tarn = s.tarn := rfl
@[simp] theorem State.modWell_engines (f : WellSt → WellSt) : (s.modWell f).engines = s.engines := rfl
@[simp] theorem State.modWell_cnvs (f : WellSt → WellSt) : (s.modWell f).cnvs = s.cnvs := rfl
@[simp] theorem State.modWell_ports (f : WellSt → WellSt) : (s.modWell f).ports = s.ports := rfl
@[simp] theorem State.modWell_mesh (f : WellSt → WellSt) : (s.modWell f).mesh = s.mesh := rfl
@[simp] theorem State.modWell_well (f : WellSt → WellSt) : (s.modWell f).well = f s.well := rfl
@[simp] theorem State.modWell_narga (f : WellSt → WellSt) : (s.modWell f).narga = s.narga := rfl
@[simp] theorem State.modWell_power (f : WellSt → WellSt) : (s.modWell f).power = s.power := rfl
@[simp] theorem State.modWell_side (f : WellSt → WellSt) : (s.modWell f).side = s.side := rfl
@[simp] theorem State.modWell_rtc (f : WellSt → WellSt) : (s.modWell f).rtc = s.rtc := rfl
@[simp] theorem State.modWell_us (f : WellSt → WellSt) : (s.modWell f).us = s.us := rfl
@[simp] theorem State.modWell_free (f : WellSt → WellSt) : (s.modWell f).free = s.free := rfl
@[simp] theorem State.modWell_pending (f : WellSt → WellSt) : (s.modWell f).pending = s.pending := rfl

/-! ### modNarga -/

@[simp] theorem State.modNarga_regs (f : NargaSt → NargaSt) : (s.modNarga f).regs = s.regs := rfl
@[simp] theorem State.modNarga_mem (f : NargaSt → NargaSt) : (s.modNarga f).mem = s.mem := rfl
@[simp] theorem State.modNarga_holders (f : NargaSt → NargaSt) : (s.modNarga f).holders = s.holders := rfl
@[simp] theorem State.modNarga_berrCnt (f : NargaSt → NargaSt) : (s.modNarga f).berrCnt = s.berrCnt := rfl
@[simp] theorem State.modNarga_cores (f : NargaSt → NargaSt) : (s.modNarga f).cores = s.cores := rfl
@[simp] theorem State.modNarga_nvla (f : NargaSt → NargaSt) : (s.modNarga f).nvla = s.nvla := rfl
@[simp] theorem State.modNarga_sramHard (f : NargaSt → NargaSt) : (s.modNarga f).sramHard = s.sramHard := rfl
@[simp] theorem State.modNarga_sramLost (f : NargaSt → NargaSt) : (s.modNarga f).sramLost = s.sramLost := rfl
@[simp] theorem State.modNarga_keyBad (f : NargaSt → NargaSt) : (s.modNarga f).keyBad = s.keyBad := rfl
@[simp] theorem State.modNarga_tarn (f : NargaSt → NargaSt) : (s.modNarga f).tarn = s.tarn := rfl
@[simp] theorem State.modNarga_engines (f : NargaSt → NargaSt) : (s.modNarga f).engines = s.engines := rfl
@[simp] theorem State.modNarga_cnvs (f : NargaSt → NargaSt) : (s.modNarga f).cnvs = s.cnvs := rfl
@[simp] theorem State.modNarga_ports (f : NargaSt → NargaSt) : (s.modNarga f).ports = s.ports := rfl
@[simp] theorem State.modNarga_mesh (f : NargaSt → NargaSt) : (s.modNarga f).mesh = s.mesh := rfl
@[simp] theorem State.modNarga_well (f : NargaSt → NargaSt) : (s.modNarga f).well = s.well := rfl
@[simp] theorem State.modNarga_narga (f : NargaSt → NargaSt) : (s.modNarga f).narga = f s.narga := rfl
@[simp] theorem State.modNarga_power (f : NargaSt → NargaSt) : (s.modNarga f).power = s.power := rfl
@[simp] theorem State.modNarga_side (f : NargaSt → NargaSt) : (s.modNarga f).side = s.side := rfl
@[simp] theorem State.modNarga_rtc (f : NargaSt → NargaSt) : (s.modNarga f).rtc = s.rtc := rfl
@[simp] theorem State.modNarga_us (f : NargaSt → NargaSt) : (s.modNarga f).us = s.us := rfl
@[simp] theorem State.modNarga_free (f : NargaSt → NargaSt) : (s.modNarga f).free = s.free := rfl
@[simp] theorem State.modNarga_pending (f : NargaSt → NargaSt) : (s.modNarga f).pending = s.pending := rfl

/-! ### modPower -/

@[simp] theorem State.modPower_regs (f : PowerSt → PowerSt) : (s.modPower f).regs = s.regs := rfl
@[simp] theorem State.modPower_mem (f : PowerSt → PowerSt) : (s.modPower f).mem = s.mem := rfl
@[simp] theorem State.modPower_holders (f : PowerSt → PowerSt) : (s.modPower f).holders = s.holders := rfl
@[simp] theorem State.modPower_berrCnt (f : PowerSt → PowerSt) : (s.modPower f).berrCnt = s.berrCnt := rfl
@[simp] theorem State.modPower_cores (f : PowerSt → PowerSt) : (s.modPower f).cores = s.cores := rfl
@[simp] theorem State.modPower_nvla (f : PowerSt → PowerSt) : (s.modPower f).nvla = s.nvla := rfl
@[simp] theorem State.modPower_sramHard (f : PowerSt → PowerSt) : (s.modPower f).sramHard = s.sramHard := rfl
@[simp] theorem State.modPower_sramLost (f : PowerSt → PowerSt) : (s.modPower f).sramLost = s.sramLost := rfl
@[simp] theorem State.modPower_keyBad (f : PowerSt → PowerSt) : (s.modPower f).keyBad = s.keyBad := rfl
@[simp] theorem State.modPower_tarn (f : PowerSt → PowerSt) : (s.modPower f).tarn = s.tarn := rfl
@[simp] theorem State.modPower_engines (f : PowerSt → PowerSt) : (s.modPower f).engines = s.engines := rfl
@[simp] theorem State.modPower_cnvs (f : PowerSt → PowerSt) : (s.modPower f).cnvs = s.cnvs := rfl
@[simp] theorem State.modPower_ports (f : PowerSt → PowerSt) : (s.modPower f).ports = s.ports := rfl
@[simp] theorem State.modPower_mesh (f : PowerSt → PowerSt) : (s.modPower f).mesh = s.mesh := rfl
@[simp] theorem State.modPower_well (f : PowerSt → PowerSt) : (s.modPower f).well = s.well := rfl
@[simp] theorem State.modPower_narga (f : PowerSt → PowerSt) : (s.modPower f).narga = s.narga := rfl
@[simp] theorem State.modPower_power (f : PowerSt → PowerSt) : (s.modPower f).power = f s.power := rfl
@[simp] theorem State.modPower_side (f : PowerSt → PowerSt) : (s.modPower f).side = s.side := rfl
@[simp] theorem State.modPower_rtc (f : PowerSt → PowerSt) : (s.modPower f).rtc = s.rtc := rfl
@[simp] theorem State.modPower_us (f : PowerSt → PowerSt) : (s.modPower f).us = s.us := rfl
@[simp] theorem State.modPower_free (f : PowerSt → PowerSt) : (s.modPower f).free = s.free := rfl
@[simp] theorem State.modPower_pending (f : PowerSt → PowerSt) : (s.modPower f).pending = s.pending := rfl

/-! ### modSide -/

@[simp] theorem State.modSide_regs (f : SideSt → SideSt) : (s.modSide f).regs = s.regs := rfl
@[simp] theorem State.modSide_mem (f : SideSt → SideSt) : (s.modSide f).mem = s.mem := rfl
@[simp] theorem State.modSide_holders (f : SideSt → SideSt) : (s.modSide f).holders = s.holders := rfl
@[simp] theorem State.modSide_berrCnt (f : SideSt → SideSt) : (s.modSide f).berrCnt = s.berrCnt := rfl
@[simp] theorem State.modSide_cores (f : SideSt → SideSt) : (s.modSide f).cores = s.cores := rfl
@[simp] theorem State.modSide_nvla (f : SideSt → SideSt) : (s.modSide f).nvla = s.nvla := rfl
@[simp] theorem State.modSide_sramHard (f : SideSt → SideSt) : (s.modSide f).sramHard = s.sramHard := rfl
@[simp] theorem State.modSide_sramLost (f : SideSt → SideSt) : (s.modSide f).sramLost = s.sramLost := rfl
@[simp] theorem State.modSide_keyBad (f : SideSt → SideSt) : (s.modSide f).keyBad = s.keyBad := rfl
@[simp] theorem State.modSide_tarn (f : SideSt → SideSt) : (s.modSide f).tarn = s.tarn := rfl
@[simp] theorem State.modSide_engines (f : SideSt → SideSt) : (s.modSide f).engines = s.engines := rfl
@[simp] theorem State.modSide_cnvs (f : SideSt → SideSt) : (s.modSide f).cnvs = s.cnvs := rfl
@[simp] theorem State.modSide_ports (f : SideSt → SideSt) : (s.modSide f).ports = s.ports := rfl
@[simp] theorem State.modSide_mesh (f : SideSt → SideSt) : (s.modSide f).mesh = s.mesh := rfl
@[simp] theorem State.modSide_well (f : SideSt → SideSt) : (s.modSide f).well = s.well := rfl
@[simp] theorem State.modSide_narga (f : SideSt → SideSt) : (s.modSide f).narga = s.narga := rfl
@[simp] theorem State.modSide_power (f : SideSt → SideSt) : (s.modSide f).power = s.power := rfl
@[simp] theorem State.modSide_side (f : SideSt → SideSt) : (s.modSide f).side = f s.side := rfl
@[simp] theorem State.modSide_rtc (f : SideSt → SideSt) : (s.modSide f).rtc = s.rtc := rfl
@[simp] theorem State.modSide_us (f : SideSt → SideSt) : (s.modSide f).us = s.us := rfl
@[simp] theorem State.modSide_free (f : SideSt → SideSt) : (s.modSide f).free = s.free := rfl
@[simp] theorem State.modSide_pending (f : SideSt → SideSt) : (s.modSide f).pending = s.pending := rfl

/-! ### modUart -/

@[simp] theorem State.modUart_regs (u : Uart) (f : UartSt → UartSt) : (s.modUart u f).regs = s.regs := rfl
@[simp] theorem State.modUart_mem (u : Uart) (f : UartSt → UartSt) : (s.modUart u f).mem = s.mem := rfl
@[simp] theorem State.modUart_holders (u : Uart) (f : UartSt → UartSt) : (s.modUart u f).holders = s.holders := rfl
@[simp] theorem State.modUart_berrCnt (u : Uart) (f : UartSt → UartSt) : (s.modUart u f).berrCnt = s.berrCnt := rfl
@[simp] theorem State.modUart_cores (u : Uart) (f : UartSt → UartSt) : (s.modUart u f).cores = s.cores := rfl
@[simp] theorem State.modUart_nvla (u : Uart) (f : UartSt → UartSt) : (s.modUart u f).nvla = s.nvla := rfl
@[simp] theorem State.modUart_sramHard (u : Uart) (f : UartSt → UartSt) : (s.modUart u f).sramHard = s.sramHard := rfl
@[simp] theorem State.modUart_sramLost (u : Uart) (f : UartSt → UartSt) : (s.modUart u f).sramLost = s.sramLost := rfl
@[simp] theorem State.modUart_keyBad (u : Uart) (f : UartSt → UartSt) : (s.modUart u f).keyBad = s.keyBad := rfl
@[simp] theorem State.modUart_tarn (u : Uart) (f : UartSt → UartSt) : (s.modUart u f).tarn = s.tarn := rfl
@[simp] theorem State.modUart_engines (u : Uart) (f : UartSt → UartSt) : (s.modUart u f).engines = s.engines := rfl
@[simp] theorem State.modUart_cnvs (u : Uart) (f : UartSt → UartSt) : (s.modUart u f).cnvs = s.cnvs := rfl
@[simp] theorem State.modUart_ports (u : Uart) (f : UartSt → UartSt) : (s.modUart u f).ports = s.ports := rfl
@[simp] theorem State.modUart_mesh (u : Uart) (f : UartSt → UartSt) : (s.modUart u f).mesh = s.mesh := rfl
@[simp] theorem State.modUart_well (u : Uart) (f : UartSt → UartSt) : (s.modUart u f).well = s.well := rfl
@[simp] theorem State.modUart_narga (u : Uart) (f : UartSt → UartSt) : (s.modUart u f).narga = s.narga := rfl
@[simp] theorem State.modUart_power (u : Uart) (f : UartSt → UartSt) : (s.modUart u f).power = s.power := rfl
@[simp] theorem State.modUart_rtc (u : Uart) (f : UartSt → UartSt) : (s.modUart u f).rtc = s.rtc := rfl
@[simp] theorem State.modUart_us (u : Uart) (f : UartSt → UartSt) : (s.modUart u f).us = s.us := rfl
@[simp] theorem State.modUart_free (u : Uart) (f : UartSt → UartSt) : (s.modUart u f).free = s.free := rfl
@[simp] theorem State.modUart_pending (u : Uart) (f : UartSt → UartSt) : (s.modUart u f).pending = s.pending := rfl

/-! ### modIic -/

@[simp] theorem State.modIic_regs (i : Iic) (f : IicSt → IicSt) : (s.modIic i f).regs = s.regs := rfl
@[simp] theorem State.modIic_mem (i : Iic) (f : IicSt → IicSt) : (s.modIic i f).mem = s.mem := rfl
@[simp] theorem State.modIic_holders (i : Iic) (f : IicSt → IicSt) : (s.modIic i f).holders = s.holders := rfl
@[simp] theorem State.modIic_berrCnt (i : Iic) (f : IicSt → IicSt) : (s.modIic i f).berrCnt = s.berrCnt := rfl
@[simp] theorem State.modIic_cores (i : Iic) (f : IicSt → IicSt) : (s.modIic i f).cores = s.cores := rfl
@[simp] theorem State.modIic_nvla (i : Iic) (f : IicSt → IicSt) : (s.modIic i f).nvla = s.nvla := rfl
@[simp] theorem State.modIic_sramHard (i : Iic) (f : IicSt → IicSt) : (s.modIic i f).sramHard = s.sramHard := rfl
@[simp] theorem State.modIic_sramLost (i : Iic) (f : IicSt → IicSt) : (s.modIic i f).sramLost = s.sramLost := rfl
@[simp] theorem State.modIic_keyBad (i : Iic) (f : IicSt → IicSt) : (s.modIic i f).keyBad = s.keyBad := rfl
@[simp] theorem State.modIic_tarn (i : Iic) (f : IicSt → IicSt) : (s.modIic i f).tarn = s.tarn := rfl
@[simp] theorem State.modIic_engines (i : Iic) (f : IicSt → IicSt) : (s.modIic i f).engines = s.engines := rfl
@[simp] theorem State.modIic_cnvs (i : Iic) (f : IicSt → IicSt) : (s.modIic i f).cnvs = s.cnvs := rfl
@[simp] theorem State.modIic_ports (i : Iic) (f : IicSt → IicSt) : (s.modIic i f).ports = s.ports := rfl
@[simp] theorem State.modIic_mesh (i : Iic) (f : IicSt → IicSt) : (s.modIic i f).mesh = s.mesh := rfl
@[simp] theorem State.modIic_well (i : Iic) (f : IicSt → IicSt) : (s.modIic i f).well = s.well := rfl
@[simp] theorem State.modIic_narga (i : Iic) (f : IicSt → IicSt) : (s.modIic i f).narga = s.narga := rfl
@[simp] theorem State.modIic_power (i : Iic) (f : IicSt → IicSt) : (s.modIic i f).power = s.power := rfl
@[simp] theorem State.modIic_rtc (i : Iic) (f : IicSt → IicSt) : (s.modIic i f).rtc = s.rtc := rfl
@[simp] theorem State.modIic_us (i : Iic) (f : IicSt → IicSt) : (s.modIic i f).us = s.us := rfl
@[simp] theorem State.modIic_free (i : Iic) (f : IicSt → IicSt) : (s.modIic i f).free = s.free := rfl
@[simp] theorem State.modIic_pending (i : Iic) (f : IicSt → IicSt) : (s.modIic i f).pending = s.pending := rfl

/-! ### modQspi -/

@[simp] theorem State.modQspi_regs (f : QspiSt → QspiSt) : (s.modQspi f).regs = s.regs := rfl
@[simp] theorem State.modQspi_mem (f : QspiSt → QspiSt) : (s.modQspi f).mem = s.mem := rfl
@[simp] theorem State.modQspi_holders (f : QspiSt → QspiSt) : (s.modQspi f).holders = s.holders := rfl
@[simp] theorem State.modQspi_berrCnt (f : QspiSt → QspiSt) : (s.modQspi f).berrCnt = s.berrCnt := rfl
@[simp] theorem State.modQspi_cores (f : QspiSt → QspiSt) : (s.modQspi f).cores = s.cores := rfl
@[simp] theorem State.modQspi_nvla (f : QspiSt → QspiSt) : (s.modQspi f).nvla = s.nvla := rfl
@[simp] theorem State.modQspi_sramHard (f : QspiSt → QspiSt) : (s.modQspi f).sramHard = s.sramHard := rfl
@[simp] theorem State.modQspi_sramLost (f : QspiSt → QspiSt) : (s.modQspi f).sramLost = s.sramLost := rfl
@[simp] theorem State.modQspi_keyBad (f : QspiSt → QspiSt) : (s.modQspi f).keyBad = s.keyBad := rfl
@[simp] theorem State.modQspi_tarn (f : QspiSt → QspiSt) : (s.modQspi f).tarn = s.tarn := rfl
@[simp] theorem State.modQspi_engines (f : QspiSt → QspiSt) : (s.modQspi f).engines = s.engines := rfl
@[simp] theorem State.modQspi_cnvs (f : QspiSt → QspiSt) : (s.modQspi f).cnvs = s.cnvs := rfl
@[simp] theorem State.modQspi_ports (f : QspiSt → QspiSt) : (s.modQspi f).ports = s.ports := rfl
@[simp] theorem State.modQspi_mesh (f : QspiSt → QspiSt) : (s.modQspi f).mesh = s.mesh := rfl
@[simp] theorem State.modQspi_well (f : QspiSt → QspiSt) : (s.modQspi f).well = s.well := rfl
@[simp] theorem State.modQspi_narga (f : QspiSt → QspiSt) : (s.modQspi f).narga = s.narga := rfl
@[simp] theorem State.modQspi_power (f : QspiSt → QspiSt) : (s.modQspi f).power = s.power := rfl
@[simp] theorem State.modQspi_rtc (f : QspiSt → QspiSt) : (s.modQspi f).rtc = s.rtc := rfl
@[simp] theorem State.modQspi_us (f : QspiSt → QspiSt) : (s.modQspi f).us = s.us := rfl
@[simp] theorem State.modQspi_free (f : QspiSt → QspiSt) : (s.modQspi f).free = s.free := rfl
@[simp] theorem State.modQspi_pending (f : QspiSt → QspiSt) : (s.modQspi f).pending = s.pending := rfl

/-! ### modHolder -/

@[simp] theorem State.modHolder_regs (h : Fin 65) (f : Holder → Holder) : (s.modHolder h f).regs = s.regs := rfl
@[simp] theorem State.modHolder_mem (h : Fin 65) (f : Holder → Holder) : (s.modHolder h f).mem = s.mem := rfl
@[simp] theorem State.modHolder_holders (h : Fin 65) (f : Holder → Holder) : (s.modHolder h f).holders = s.holders.set h (f s.holders[h]) := rfl
@[simp] theorem State.modHolder_berrCnt (h : Fin 65) (f : Holder → Holder) : (s.modHolder h f).berrCnt = s.berrCnt := rfl
@[simp] theorem State.modHolder_cores (h : Fin 65) (f : Holder → Holder) : (s.modHolder h f).cores = s.cores := rfl
@[simp] theorem State.modHolder_nvla (h : Fin 65) (f : Holder → Holder) : (s.modHolder h f).nvla = s.nvla := rfl
@[simp] theorem State.modHolder_sramHard (h : Fin 65) (f : Holder → Holder) : (s.modHolder h f).sramHard = s.sramHard := rfl
@[simp] theorem State.modHolder_sramLost (h : Fin 65) (f : Holder → Holder) : (s.modHolder h f).sramLost = s.sramLost := rfl
@[simp] theorem State.modHolder_keyBad (h : Fin 65) (f : Holder → Holder) : (s.modHolder h f).keyBad = s.keyBad := rfl
@[simp] theorem State.modHolder_tarn (h : Fin 65) (f : Holder → Holder) : (s.modHolder h f).tarn = s.tarn := rfl
@[simp] theorem State.modHolder_engines (h : Fin 65) (f : Holder → Holder) : (s.modHolder h f).engines = s.engines := rfl
@[simp] theorem State.modHolder_cnvs (h : Fin 65) (f : Holder → Holder) : (s.modHolder h f).cnvs = s.cnvs := rfl
@[simp] theorem State.modHolder_ports (h : Fin 65) (f : Holder → Holder) : (s.modHolder h f).ports = s.ports := rfl
@[simp] theorem State.modHolder_mesh (h : Fin 65) (f : Holder → Holder) : (s.modHolder h f).mesh = s.mesh := rfl
@[simp] theorem State.modHolder_well (h : Fin 65) (f : Holder → Holder) : (s.modHolder h f).well = s.well := rfl
@[simp] theorem State.modHolder_narga (h : Fin 65) (f : Holder → Holder) : (s.modHolder h f).narga = s.narga := rfl
@[simp] theorem State.modHolder_power (h : Fin 65) (f : Holder → Holder) : (s.modHolder h f).power = s.power := rfl
@[simp] theorem State.modHolder_side (h : Fin 65) (f : Holder → Holder) : (s.modHolder h f).side = s.side := rfl
@[simp] theorem State.modHolder_rtc (h : Fin 65) (f : Holder → Holder) : (s.modHolder h f).rtc = s.rtc := rfl
@[simp] theorem State.modHolder_us (h : Fin 65) (f : Holder → Holder) : (s.modHolder h f).us = s.us := rfl
@[simp] theorem State.modHolder_free (h : Fin 65) (f : Holder → Holder) : (s.modHolder h f).free = s.free := rfl
@[simp] theorem State.modHolder_pending (h : Fin 65) (f : Holder → Holder) : (s.modHolder h f).pending = s.pending := rfl

/-! ### nextFree -/

@[simp] theorem State.nextFree_regs : (s.nextFree).regs = s.regs := rfl
@[simp] theorem State.nextFree_mem : (s.nextFree).mem = s.mem := rfl
@[simp] theorem State.nextFree_holders : (s.nextFree).holders = s.holders := rfl
@[simp] theorem State.nextFree_berrCnt : (s.nextFree).berrCnt = s.berrCnt := rfl
@[simp] theorem State.nextFree_cores : (s.nextFree).cores = s.cores := rfl
@[simp] theorem State.nextFree_nvla : (s.nextFree).nvla = s.nvla := rfl
@[simp] theorem State.nextFree_sramHard : (s.nextFree).sramHard = s.sramHard := rfl
@[simp] theorem State.nextFree_sramLost : (s.nextFree).sramLost = s.sramLost := rfl
@[simp] theorem State.nextFree_keyBad : (s.nextFree).keyBad = s.keyBad := rfl
@[simp] theorem State.nextFree_tarn : (s.nextFree).tarn = s.tarn := rfl
@[simp] theorem State.nextFree_engines : (s.nextFree).engines = s.engines := rfl
@[simp] theorem State.nextFree_cnvs : (s.nextFree).cnvs = s.cnvs := rfl
@[simp] theorem State.nextFree_ports : (s.nextFree).ports = s.ports := rfl
@[simp] theorem State.nextFree_mesh : (s.nextFree).mesh = s.mesh := rfl
@[simp] theorem State.nextFree_well : (s.nextFree).well = s.well := rfl
@[simp] theorem State.nextFree_narga : (s.nextFree).narga = s.narga := rfl
@[simp] theorem State.nextFree_power : (s.nextFree).power = s.power := rfl
@[simp] theorem State.nextFree_side : (s.nextFree).side = s.side := rfl
@[simp] theorem State.nextFree_rtc : (s.nextFree).rtc = s.rtc := rfl
@[simp] theorem State.nextFree_us : (s.nextFree).us = s.us := rfl
@[simp] theorem State.nextFree_free : (s.nextFree).free = s.free + 1 := rfl
@[simp] theorem State.nextFree_pending : (s.nextFree).pending = s.pending := rfl

end Sys2Proof.Machine
end

