-- ==== Sys2Proof/Laws/Ops.lean ====
section
/-! SUPPORT. The laws of the shared operations: what is read after a write of a register, a byte of memory or one part, and that
every one of them keeps the canonical form. -/

namespace Sys2Proof.Machine

variable (s : State)

/-! ### Registers and bytes -/

@[simp] theorem State.reg_setReg_same (a : Nat) (v : Word) : (s.setReg a v).reg a = v := Sparse.get_set_same ..
theorem State.reg_setReg_ne {a b : Nat} (v : Word) (h : b ≠ a) : (s.setReg a v).reg b = s.reg b := Sparse.get_set_ne _ _ _ h
theorem State.reg_setReg (a b : Nat) (v : Word) : (s.setReg a v).reg b = if b = a then v else s.reg b := by
  split_ifs with h
  · subst h; simp
  · exact s.reg_setReg_ne v h

@[simp] theorem State.reg_setBits_same (a : Nat) (v : Word) : (s.setBits a v).reg a = s.reg a ||| v := Sparse.get_set_same ..
theorem State.reg_setBits_ne {a b : Nat} (v : Word) (h : b ≠ a) : (s.setBits a v).reg b = s.reg b := s.reg_setReg_ne _ h
@[simp] theorem State.reg_clearBits_same (a : Nat) (v : Word) : (s.clearBits a v).reg a = s.reg a &&& ~~~ v := Sparse.get_set_same ..
theorem State.reg_clearBits_ne {a b : Nat} (v : Word) (h : b ≠ a) : (s.clearBits a v).reg b = s.reg b := s.reg_setReg_ne _ h

@[simp] theorem State.byte_setByte_same (a : Nat) (v : Byte) : (s.setByte a v).byte a = v := by
  have : Sparse.get defaultByte (s.setByte a v).mem a = v ^^^ s.veil a := Sparse.get_set_same ..
  show Sparse.get defaultByte (s.setByte a v).mem a ^^^ s.veil a = v
  rw [this, BitVec.xor_assoc, BitVec.xor_self, BitVec.xor_zero]
theorem State.byte_setByte_ne {a b : Nat} (v : Byte) (h : b ≠ a) : (s.setByte a v).byte b = s.byte b := by
  show Sparse.get defaultByte (s.setByte a v).mem b ^^^ s.veil b = _
  rw [show Sparse.get defaultByte (s.setByte a v).mem b = Sparse.get defaultByte s.mem b from Sparse.get_set_ne _ _ _ h]; rfl

/-- A run of bytes leaves every byte outside it. -/
theorem State.byte_setBytes_out (l : List Byte) (s : State) {a b : Nat} (h : b < a ∨ a + l.length ≤ b) :
    (s.setBytes a l).byte b = s.byte b := by
  induction l generalizing s a with
  | nil => rfl
  | cons v t ih =>
    simp only [List.length_cons] at h
    rw [State.setBytes, ih _ (by omega), s.byte_setByte_ne v (by omega)]

/-- A run of bytes changes nothing but memory. -/
theorem State.setBytes_rest (l : List Byte) (s : State) (a : Nat) : s.setBytes a l = { s with mem := (s.setBytes a l).mem } := by
  induction l generalizing s a with
  | nil => rfl
  | cons v t ih => rw [State.setBytes, ih]; rfl

/-! ### Parts -/

@[simp] theorem State.core_modCore_same (c : Core) (f : CoreSt → CoreSt) : (s.modCore c f).core c = f (s.core c) := by
  simp [State.core, State.modCore]
theorem State.core_modCore_ne {c d : Core} (f : CoreSt → CoreSt) (h : d ≠ c) : (s.modCore c f).core d = s.core d := by
  have : c.val ≠ d.val := fun e => h (Fin.ext e.symm)
  simp [State.core, State.modCore, this]
@[simp] theorem State.ctx_modCtx_same (c : Core) (k : Ctx) (f : CtxSt → CtxSt) : (s.modCtx c k f).ctx c k = f (s.ctx c k) := by
  simp [State.ctx, State.modCtx, CoreSt.ctx, CoreSt.modCtx]
theorem State.ctx_modCtx_ne (c : Core) {k j : Ctx} (f : CtxSt → CtxSt) (h : j ≠ k) : (s.modCtx c k f).ctx c j = s.ctx c j := by
  have : k.val ≠ j.val := fun e => h (Fin.ext e.symm)
  simp [State.ctx, State.modCtx, CoreSt.ctx, CoreSt.modCtx, this]
@[simp] theorem State.chan_modChan_same (n : Chan) (f : TarnChan → TarnChan) :
    (s.modChan n f).chan n = { f (s.chan n) with ucnt := (f (s.chan n)).ucnt + 2 } := by
  simp [State.chan, State.modChan]
theorem State.chan_modChan_ne {n m : Chan} (f : TarnChan → TarnChan) (h : m ≠ n) : (s.modChan n f).chan m = s.chan m := by
  have : n.val ≠ m.val := fun e => h (Fin.ext e.symm)
  simp [State.chan, State.modChan, this]
@[simp] theorem State.eng_modEng_same (n : Chan) (f : EngineSt → EngineSt) : (s.modEng n f).eng n = f (s.eng n) := by
  simp [State.eng, State.modEng]
theorem State.eng_modEng_ne {n m : Chan} (f : EngineSt → EngineSt) (h : m ≠ n) : (s.modEng n f).eng m = s.eng m := by
  have : n.val ≠ m.val := fun e => h (Fin.ext e.symm)
  simp [State.eng, State.modEng, this]
@[simp] theorem State.cnv_modCnv_same (u : Cnv) (f : CnvSt → CnvSt) : (s.modCnv u f).cnv u = f (s.cnv u) := by
  simp [State.cnv, State.modCnv]
theorem State.cnv_modCnv_ne {u v : Cnv} (f : CnvSt → CnvSt) (h : v ≠ u) : (s.modCnv u f).cnv v = s.cnv v := by
  have : u.val ≠ v.val := fun e => h (Fin.ext e.symm)
  simp [State.cnv, State.modCnv, this]
@[simp] theorem State.port_modPort_same (p : Port) (f : PortSt → PortSt) : (s.modPort p f).port p = f (s.port p) := by
  simp [State.port, State.modPort]
theorem State.port_modPort_ne {p q : Port} (f : PortSt → PortSt) (h : q ≠ p) : (s.modPort p f).port q = s.port q := by
  have : p.val ≠ q.val := fun e => h (Fin.ext e.symm)
  simp [State.port, State.modPort, this]

/-! ### The canonical form -/

variable {s}

theorem State.Canonical.of_eq {t : State} (h : s.Canonical) (hm : t.mem = s.mem) (hr : t.regs = s.regs) : t.Canonical := by
  unfold State.Canonical at *; rwa [hm, hr]
theorem State.Canonical.setReg (h : s.Canonical) (a : Nat) (v : Word) : (s.setReg a v).Canonical := ⟨h.1, Sparse.wf_set _ a v h.2⟩
theorem State.Canonical.setBits (h : s.Canonical) (a : Nat) (v : Word) : (s.setBits a v).Canonical := h.setReg ..
theorem State.Canonical.clearBits (h : s.Canonical) (a : Nat) (v : Word) : (s.clearBits a v).Canonical := h.setReg ..
theorem State.Canonical.setByte (h : s.Canonical) (a : Nat) (v : Byte) : (s.setByte a v).Canonical := ⟨Sparse.wf_set _ a _ h.1, h.2⟩
theorem State.Canonical.setBytes (l : List Byte) {s : State} (h : s.Canonical) (a : Nat) : (s.setBytes a l).Canonical := by
  induction l generalizing s a with
  | nil => exact h
  | cons v t ih => exact ih (h.setByte a v) (a + 1)
theorem State.Canonical.countReg (h : s.Canonical) (a : Nat) : (s.countReg a).Canonical := by
  unfold State.countReg; split_ifs
  · exact h
  · exact h.setReg ..
theorem State.Canonical.each {α : Type} (l : List α) {s : State} (h : s.Canonical) (f : State → α → State)
    (hf : ∀ x a, x.Canonical → (f x a).Canonical) : (s.each l f).Canonical := by
  induction l generalizing s with
  | nil => exact h
  | cons a t ih => exact ih (hf s a h)

/-- Right after reset both tables are empty. -/
theorem State.reset_tables : State.reset.mem = [] ∧ State.reset.regs = [] := ⟨rfl, rfl⟩

end Sys2Proof.Machine
end

