-- ==== Sys2Proof/Laws/Commit.lean ====
section
/-! SUPPORT. What a commit that a register takes does: its own effect, and the log entry of an expert register (R29, R37). -/

namespace Sys2Proof.Machine

/-- A value with no bit of a mask keeps its bits outside the mask. -/
theorem and_not_of_and_zero {v r : Word} (h : v &&& r = 0) : v &&& ~~~ r = v := by
  apply BitVec.eq_of_getLsbD_eq
  intro j hj
  have h' := congrArg (fun x : Word => x.getLsbD j) h
  simp only [BitVec.getLsbD_and, BitVec.getLsbD_not, hj, decide_true, Bool.true_and, BitVec.ofNat_eq_ofNat, BitVec.getLsbD_zero] at h' ⊢
  cases hv : v.getLsbD j <;> simp_all

/-- The contexts that become READY with a line change the ledger cores only. -/
theorem each_cores {α : Type} (l : List α) (s : State) (f : State → α → State) (h : ∀ s x, f s x = { s with cores := (f s x).cores }) :
    s.each l f = { s with cores := (s.each l f).cores } := by
  unfold State.each
  induction l generalizing s with
  | nil => rfl
  | cons x l ih => rw [List.foldl_cons, ih, h s x]

theorem latched_cores (s : State) : s.latched = { s with cores := s.latched.cores } := by
  refine each_cores _ _ _ fun s c => each_cores _ _ _ fun s k => ?_
  split <;> rfl

/-- A line that is gone changes the ledger cores only. -/
theorem unkept_cores (s : State) : s.unkept = { s with cores := s.unkept.cores } := by
  refine each_cores _ _ _ fun s c => ?_
  split <;> rfl

@[simp] theorem latched_reg (s : State) (a : Nat) : s.latched.reg a = s.reg a := by
  have h := congrArg State.regs (latched_cores s)
  dsimp only at h
  simp only [State.reg, h]

@[simp] theorem unkept_reg (s : State) (a : Nat) : s.unkept.reg a = s.reg a := by
  have h := congrArg State.regs (unkept_cores s)
  dsimp only at h
  simp only [State.reg, h]

@[simp] theorem latched_answers (s : State) (m : Master) (a : Nat) : s.latched.answers m a = s.answers m a := by
  have e : ∀ x, ({ s with cores := x } : State).answers m a = s.answers m a := fun _ => rfl
  rw [latched_cores s, e]

/-- A commit that register `a` takes has the effect that its own rule gives, with the lines that it may take away, and is logged when the
register is an expert one that accepts the value (R29, R37, R200, R418). -/
theorem busCommit_takes {s : State} {m : Master} {a : Nat} {v : Word} {i : RegInfo} (h : s.takes m a v) (hi : regInfo a = some i) :
    s.busCommit m a v = s.lineEvent fun s => if i.expert = true ∧ s.expertAccepts m a v = true then (s.commitEffect false m a v v i).expertLog a v
      else s.commitEffect false m a v v i := by
  obtain ⟨hw, ht, ha, j, hj, hv, hs, he⟩ := h
  rw [hi] at hj
  cases hj
  have hm := and_not_of_and_zero hv
  unfold State.busCommit
  rw [if_neg (by simp [ht]), if_pos hw]
  simp only [State.commitWord, State.lineEvent, State.commitReg, latched_answers, ha, latched_reg, hi, hv, hs, hm, ne_eq, not_true_eq_false,
    and_false, false_and, if_false]
  by_cases hx : i.expert = true
  · simp [hx, he hx]
  · simp [hx]

/-- The plain effect of a commit, named by its access codes. -/
theorem stored_eq {s : State} {a : Nat} {v : Word} {i : RegInfo} (hi : regInfo a = some i) : s.stored a v = s.storeReg a v i := by
  simp [State.stored, hi]

end Sys2Proof.Machine
end

