-- ==== Sys2Proof/Laws/Run.lean ====
section
/-! SUPPORT. How an instruction of a ledger core runs when its core is ready: its bytes are fetched, its operands read, its stores put,
and it completes with nothing changed but its context, its store buffer and the ACC and MOD bits of storage keys. -/

namespace Sys2Proof.Machine

/-! ### CTX with FS changed -/

theorem withFs_get (r : CtxRegs) (b : Bool) (i : Nat) (h : i ≠ 8) : (r.withFs b).ctx.getLsbD i = r.ctx.getLsbD i := by
  simp only [CtxRegs.withFs]
  have : (if b then (0x100 : BitVec 16) else 0).getLsbD i = false := by
    cases b <;> simp
    by_cases hi : i < 16
    · interval_cases i <;> simp_all
    · exact BitVec.getLsbD_of_ge _ _ (by omega)
  rw [BitVec.getLsbD_or, BitVec.getLsbD_and, this]
  by_cases hi : i < 16
  · interval_cases i <;> simp_all
  · simp [BitVec.getLsbD_of_ge _ _ (by omega : 16 ≤ i)]

theorem field_testBit {w : Nat} (v : BitVec w) (lo n i : Nat) : (field v lo n).testBit i = (decide (i < n) && v.getLsbD (lo + i)) := by
  simp [field, Nat.testBit_mod_two_pow, Nat.testBit_shiftRight, BitVec.getLsbD]

theorem field_withFs (r : CtxRegs) (b : Bool) (lo n : Nat) (h : ∀ i < n, lo + i ≠ 8) : field (r.withFs b).ctx lo n = field r.ctx lo n := by
  apply Nat.eq_of_testBit_eq
  intro i
  rw [field_testBit, field_testBit]
  by_cases hi : i < n
  · simp [hi, withFs_get _ _ _ (h i hi)]
  · simp [hi]

@[simp] theorem withFs_withFs (r : CtxRegs) (a b : Bool) : (r.withFs a).withFs b = r.withFs b := by
  have : (r.withFs a).withFs b = { r with ctx := ((r.withFs a).withFs b).ctx } := rfl
  rw [this]
  have e : ((r.withFs a).withFs b).ctx = (r.withFs b).ctx := by
    apply BitVec.eq_of_getLsbD_eq
    intro i hi
    by_cases h : i = 8
    · subst h; simp [CtxRegs.withFs]
    · rw [withFs_get _ _ _ h, withFs_get _ _ _ h, withFs_get _ _ _ h]
  rw [e]; rfl

theorem withFs_withCd (r : CtxRegs) (a : Bool) (d : Nat) : (r.withFs a).withCd d = (r.withCd d).withFs a := by
  have h : ∀ x y z : BitVec 16, z &&& 0xFFF0 = z → y &&& 0xFEFF = y →
      ((x &&& 0xFEFF ||| z) &&& 0xFFF0) ||| y = ((x &&& 0xFFF0 ||| y) &&& 0xFEFF) ||| z := by
    intro x y z hz hy
    apply BitVec.eq_of_getLsbD_eq
    intro i hi
    have hz' := congrArg (fun t => t.getLsbD i) hz
    have hy' := congrArg (fun t => t.getLsbD i) hy
    simp only [BitVec.getLsbD_and, BitVec.getLsbD_or] at *
    revert hz' hy'
    cases x.getLsbD i <;> cases y.getLsbD i <;> cases z.getLsbD i <;>
      interval_cases i <;> simp
  have hd : (BitVec.ofNat 16 (d % 16)) &&& 0xFEFF = BitVec.ofNat 16 (d % 16) := by
    have : d % 16 < 16 := Nat.mod_lt _ (by decide)
    generalize d % 16 = n at *
    interval_cases n <;> rfl
  have ha : (if a then (0x100 : BitVec 16) else 0) &&& 0xFFF0 = (if a then (0x100 : BitVec 16) else 0) := by cases a <;> rfl
  simp only [CtxRegs.withFs, CtxRegs.withCd]
  rw [h _ _ _ ha hd]

@[simp] theorem withFs_a (r : CtxRegs) (b : Bool) : (r.withFs b).a = r.a := rfl
@[simp] theorem withFs_x (r : CtxRegs) (b : Bool) : (r.withFs b).x = r.x := rfl
@[simp] theorem withFs_y (r : CtxRegs) (b : Bool) : (r.withFs b).y = r.y := rfl
@[simp] theorem withFs_l (r : CtxRegs) (b : Bool) : (r.withFs b).l = r.l := rfl
@[simp] theorem withFs_dp (r : CtxRegs) (b : Bool) : (r.withFs b).dp = r.dp := rfl
@[simp] theorem withFs_pc (r : CtxRegs) (b : Bool) : (r.withFs b).pc = r.pc := rfl
@[simp] theorem withFs_cd (r : CtxRegs) (b : Bool) : (r.withFs b).cd = r.cd := field_withFs _ _ _ _ (by omega)
@[simp] theorem withFs_ph (r : CtxRegs) (b : Bool) : (r.withFs b).ph = r.ph := field_withFs _ _ _ _ (by omega)

/-! ### An instruction under way -/

/-- The run `r` of an instruction of form `f` at core `c`, started in `s`, has fetched `i` of its bytes and done nothing that shows yet. -/
structure Under (s : State) (c : Core) (f : Form) (i : Nat) (r : Run) : Prop where
  st : r.st = s
  core : r.c = c
  ctx : r.k = (s.core c).cur
  form : r.form = f
  base : r.base = (s.regsOf c).withFs (decide (f = .S))
  seen : r.seen = seenRegs f { s.runs c with regs := (s.regsOf c).withFs (decide (f = .S)) }
  regs : r.r = { (s.regsOf c).withFs (decide (f = .S)) with pc := (s.regsOf c).pc + BitVec.ofNat 16 i }
  stack : r.stack = (s.runs c).stack
  len : r.bytes.length = i
  reads : r.reads = []
  puts : r.puts = []
  shadow : r.shadow = none
  frames : ∀ x ∈ r.touched, x.1 < 5120

theorem Under.start {s : State} {c : Core} {f : Form} {n : Nat} (h : Ready s c f n) (stop : Option Nat) :
    Under s c f 0 (startRun (s.applyModes c) c f stop) := by
  have e : s.applyModes c = s := by simp [State.applyModes, h.counts]
  rw [e]
  refine ⟨rfl, rfl, rfl, rfl, rfl, rfl, ?_, rfl, rfl, rfl, rfl, rfl, by simp [startRun]⟩
  simp [startRun, State.regsOf, State.runs]; rfl

theorem Under.access {s c f i r} (h : Under s c f i r) (k : Nat) : r.access k = s.accessOf c k := by
  simp only [Run.access, Run.user, State.accessOf, h.base]
  rw [withFs_get _ _ 15 (by decide), withFs_get _ _ 14 (by decide), field_withFs _ _ _ _ (by omega)]

theorem Under.master {s c f i r} (h : Under s c f i r) : r.master = .lc c (s.core c).cur ((s.regsOf c).ctx.getLsbD 15) := by
  simp only [Run.master, h.base, h.core, h.ctx, withFs_get _ _ 15 (by decide)]

theorem Under.phase {s c f i n r} (h : Under s c f i r) (hr : Ready s c f n) : r.base.ph = 0 := by
  rw [h.base, withFs_ph, hr.phase]

/-- A pinned block translates without a change. -/
theorem xlate_pinned {s : State} {c a acc b pa l} (h : s.pinned c a acc = some (b, pa)) :
    s.xlate c (s.core c).cur a acc l = (s, .ok (b, pa)) := by
  unfold State.pinned at h
  split at h
  · cases h
  · rename_i b' hb
    simp only [ite_eq_iff, reduceCtorEq, and_false, or_false, Option.some.injEq, Prod.mk.injEq] at h
    obtain ⟨⟨h1, h2, h3⟩, rfl, rfl⟩ := h
    rcases hf : frameOf (b'.phys a.toNat) with _ | f
    · rw [hf] at h3
      simp only [State.xlate, State.lookup, hb, h1, hf, h2]
    · rw [hf] at h3
      simp only [Bool.not_eq_true'] at h3
      simp only [State.xlate, State.lookup, hb, h1, hf, State.keyRepair, h3, Bool.false_eq_true, if_false, h2]

theorem frameOf_lt {pa f : Nat} (h : frameOf pa = some f) : f < 5120 := by
  unfold frameOf at h
  split_ifs at h <;> simp only [Option.some.injEq] at h <;> omega

theorem touch_eq (r : Run) (pa : Nat) (w : Bool) :
    r.touch pa w = { r with touched := (match frameOf pa with | some g => (g, w) :: r.touched | none => r.touched) } := by
  unfold Run.touch; cases frameOf pa <;> rfl

theorem touched_lt {l : List (Nat × Bool)} (pa : Nat) (w : Bool) (h : ∀ x ∈ l, x.1 < 5120) :
    ∀ x ∈ (match frameOf pa with | some g => (g, w) :: l | none => l), x.1 < 5120 := by
  intro x hx
  split at hx
  · rename_i g hg
    rcases List.mem_cons.mp hx with rfl | hx
    · exact frameOf_lt hg
    · exact h x hx
  · exact h x hx

/-- What an operation leads to: `op` runs from `r` to `r'` with the value `a`. -/
abbrev Runs {α : Type} (op : Op α) (r : Run) (a : α) (r' : Run) : Prop := op r = .ok a r'

theorem Runs.bind {α β : Type} {x : Op α} {g : α → Op β} {r r₁ r₂ : Run} {a : α} {b : β} (h : Runs x r a r₁)
    (h' : Runs (g a) r₁ b r₂) : Runs (x >>= g) r b r₂ := by
  show EStateM.bind x g r = _
  unfold EStateM.bind
  rw [show x r = _ from h]
  exact h'

theorem Runs.pure {α : Type} (a : α) (r : Run) : Runs (Pure.pure a : Op α) r a r := rfl
theorem Runs.get (r : Run) : Runs (MonadState.get : Op Run) r r r := rfl
theorem runs_modify (f : Run → Run) (r : Run) : Runs (modify f : Op Unit) r () (f r) := rfl
theorem Runs.setRegs (f : CtxRegs → CtxRegs → CtxRegs) (r : Run) : Runs (setRegs f) r () { r with r := f r.seen r.r } := rfl

/-- One more byte is fetched. -/
theorem fetchByte_under {s : State} {c f n i r} (h : Ready s c f n) (hr : Under s c f i r) (hi : i < n) (b : Byte) :
    ∃ r', Runs (fetchByte b none) r () r' ∧ Under s c f (i + 1) r' ∧ r'.stopAt = r.stopAt := by
  have hpc : r.base.pc = (s.regsOf c).pc := by rw [hr.base]; rfl
  have hlt : ¬ 65536 ≤ (s.regsOf c).pc.toNat + i := by have := h.space; omega
  have hcode := h.code i hi
  unfold State.codeOk at hcode
  split at hcode
  · cases hcode
  · rename_i blk pa hp
    have ha : (BitVec.ofNat 16 ((s.regsOf c).pc.toNat + i)) = (s.regsOf c).pc + BitVec.ofNat 16 i := by
      apply BitVec.eq_of_toNat_eq; simp
    simp only [Bool.and_eq_true, decide_eq_true_eq, Bool.not_eq_true', Option.isNone_iff_eq_none] at hcode
    have htr : translate ((s.regsOf c).pc + BitVec.ofNat 16 i) (r.access 0) r = .ok (blk, pa) { r with locked := blk.src :: r.locked } := by
      simp only [translate, hr.st, hr.core, hr.ctx, hr.access, xlate_pinned hp]
    have hfast : ∀ q v, s.fetchLine c blk pa q v = s := by
      intro q v; simp [State.fetchLine, State.fastOn, h.det]
    have hsoft : s.nvSoftRead pa = s := by simp [State.nvSoftRead, hcode.2]
    refine ⟨{ r with
        st := s, locked := blk.src :: r.locked
        touched := (match frameOf pa with | some g => (g, false) :: r.touched | none => r.touched)
        bytes := r.bytes ++ [b], r := { r.r with pc := (s.regsOf c).pc + BitVec.ofNat 16 (i + 1) } }, ?_, ?_, rfl⟩
    · obtain ⟨h1, h2, h3, h4, h5, h6, h7, h8, h9, h10⟩ := hr
      simp only [Runs, fetchByte, bind, EStateM.bind, MonadState.get, getThe, MonadStateOf.get, EStateM.get, h9, hpc, hlt, if_false, ha,
        translateFetch, htr, checkForm, h4, hcode.1.1.1, if_true, h1, hcode.1.1.2, hcode.1.2, hsoft, Pure.pure, EStateM.pure, modify, modifyGet,
        MonadStateOf.modifyGet, EStateM.modifyGet, Bool.false_eq_true, touch_eq, h2, hfast]
    · obtain ⟨h1, h2, h3, h4, h5, h6, h7, h8, h9, h10, h11, h12, h13⟩ := hr
      refine ⟨rfl, h2, h3, h4, h5, h6, ?_, h8, by simp [h9], h10, h11, h12, touched_lt pa false h13⟩
      simp only [h7]

/-- A run of bytes is fetched. -/
theorem fetchBytes_under {s : State} {c f n} (h : Ready s c f n) : ∀ (l : List Byte) {i : Nat} {r : Run}, Under s c f i r →
    i + l.length ≤ n → ∃ r', Runs (fetchBytes l) r () r' ∧ Under s c f (i + l.length) r' ∧ r'.stopAt = r.stopAt
  | [], _, r, hr, _ => ⟨r, rfl, hr, rfl⟩
  | b :: t, i, r, hr, hn => by
    simp only [List.length_cons] at hn
    obtain ⟨r₁, h₁, hr₁, e₁⟩ := fetchByte_under h hr (by omega) b
    obtain ⟨r₂, h₂, hr₂, e₂⟩ := fetchBytes_under h t hr₁ (by omega)
    exact ⟨r₂, h₁.bind h₂, by simpa [Nat.add_assoc, Nat.add_comm, Nat.add_left_comm] using hr₂, e₂.trans e₁⟩

/-- The byte that completes an opcode with nothing to reveal. -/
theorem fetchOpcode_under {s : State} {c f n i r} (h : Ready s c f n) (hr : Under s c f i r) (hi : i < n) (b : Byte) (priv bad : Bool)
    (phOk : Nat → Bool) (hp : (priv && !(s.regsOf c).ctx.getLsbD 15) = false) (hb : bad = false) (h0 : phOk 0 = true) :
    ∃ r', Runs (fetchOpcode b priv bad phOk) r () r' ∧ Under s c f (i + 1) r' ∧ r'.stopAt = r.stopAt := by
  have hu : r.user = !(s.regsOf c).ctx.getLsbD 15 := by
    simp only [Run.user, hr.base, withFs_get _ _ 15 (by decide)]
  have e : (if (priv && r.user) = true then some 3 else if (bad || !phOk r.base.ph) = true then some 2 else none) = (none : Option Nat) := by
    rw [hu, hp, hr.phase h, h0, hb]; rfl
  obtain ⟨r', h', hr'⟩ := fetchByte_under h hr hi b
  refine ⟨r', ?_, hr'⟩
  refine Runs.bind (Runs.get r) ?_
  rw [e]; exact h'

theorem opcode_under {s : State} {c f n i r} (h : Ready s c f n) (hr : Under s c f i r) (hi : i < n) (b : Byte) :
    ∃ r', Runs (opcode b) r () r' ∧ Under s c f (i + 1) r' ∧ r'.stopAt = r.stopAt :=
  fetchOpcode_under h hr hi b false false noPhase rfl rfl rfl

/-! ### Reads -/

theorem cacheable_det {s : State} {c : Core} (h : (s.core c).det = true) (b : Block) (pa : Nat) : s.cacheable c b pa = false := by
  simp [State.cacheable, State.fastOn, h]

/-- An address in a pinned block is translated. -/
theorem translate_under {s : State} {c f i r a b pa acc} (hr : Under s c f i r) (hp : s.pinned c a acc = some (b, pa)) :
    ∃ r', Runs (translate a acc) r (b, pa) r' ∧ Under s c f i r' ∧ r'.stopAt = r.stopAt := by
  refine ⟨{ r with locked := b.src :: r.locked }, ?_, ?_, rfl⟩
  · simp only [Runs, translate, hr.st, hr.core, hr.ctx, xlate_pinned hp]
  · exact ⟨hr.st, hr.core, hr.ctx, hr.form, hr.base, hr.seen, hr.regs, hr.stack, hr.len, hr.reads, hr.puts, hr.shadow, hr.frames⟩

/-- A load of one access is made, and nothing shows of it but ACC. -/
theorem readAt_under {s : State} {c f n i r m l pa} (h : Ready s c f n) (hr : Under s c f i r) (hv : s.readsAt c pa m l) (b : Block)
    (a : Half) (w : Width) :
    ∃ r', Runs (readAt b a pa m w) r l r' ∧ Under s c f i r' ∧ r'.stopAt = r.stopAt := by
  obtain ⟨hd, hc, hw, he, rfl⟩ := hv
  have hl : s.dcacheLook c b pa = s := by simp [State.dcacheLook, cacheable_det h.det]
  obtain ⟨h1, h2, h3, h4, h5, h6, h7, h8, h9, h10, h11, h12, h13⟩ := hr
  refine ⟨{ r with touched := (match frameOf pa with | some g => (g, false) :: r.touched | none => r.touched) }, ?_,
    ⟨h1, h2, h3, h4, h5, h6, h7, h8, h9, h10, h11, h12, touched_lt pa false h13⟩, rfl⟩
  have hbytes : (List.range m).map (fun i => r.loadByte b (pa + i)) = (List.range m).map fun i => (bufByte (s.core c).buf (pa + i)).getD
      ((stagedByte s c (s.core c).cur (pa + i)).getD (physByte s (s.masterOf c) (pa + i))) := by
    simp only [Run.loadByte, h1, h2, h3, h11, putByte, List.foldl_nil, Option.getD_none, cacheable_det h.det, Bool.false_eq_true, if_false,
      Run.master, State.masterOf, h5, withFs_get _ _ 15 (by decide : (15 : Nat) ≠ 8)]
  rcases hf : forward (s.core c).buf pa m with _ | _ | e
  · have hfind : (List.range m).find? (fun i => (stagedByte s c (s.core c).cur (pa + i)).isNone && s.eccBad (pa + i)) = none := by
      rw [List.find?_eq_none]
      intro x hx
      rcases hst : stagedByte s c (s.core c).cur (pa + x) with _ | v
      · simp [(he hf).2 x (List.mem_range.mp hx) hst]
      · simp
    have hsoft : s.nvSoftRead pa = s := by simp [State.nvSoftRead, (he hf).1]
    simp only [Runs, readAt, hd, if_false, readWord, bind, EStateM.bind, MonadState.get, getThe, MonadStateOf.get, EStateM.get, h1, h2, h3, hc,
      hf, hfind, Pure.pure, EStateM.pure, modify, modifyGet, MonadStateOf.modifyGet, EStateM.modifyGet, touch_eq, hsoft, hl, hbytes]
  · exact absurd hf hw
  · simp only [Runs, readAt, hd, if_false, readWord, bind, EStateM.bind, MonadState.get, getThe, MonadStateOf.get, EStateM.get, h1, h2, hc,
      hf, Pure.pure, EStateM.pure, modify, modifyGet, MonadStateOf.modifyGet, EStateM.modifyGet, touch_eq, hbytes]

/-- A pinned access passes its checks. -/
theorem checkAt_under {s : State} {c f i r a b pa acc} (hr : Under s c f i r) (hp : s.pinned c a acc = some (b, pa)) :
    ∃ r', Runs (checkAt a acc) r { la := a, b, pa } r' ∧ Under s c f i r' ∧ r'.stopAt = r.stopAt := by
  obtain ⟨r', h', hr', e'⟩ := translate_under hr hp
  exact ⟨r', Runs.bind h' (Runs.pure _ _), hr', e'⟩

/-- A load of one access at a logical address. -/
theorem loads_under {s : State} {c f n i r a m l acc} (h : Ready s c f n) (hr : Under s c f i r) (hv : s.loads c acc a m l) (w : Width) :
    ∃ loc r₁ r', Runs (checkAt a acc) r loc r₁ ∧ Runs (loadAt loc m w) r₁ l r' ∧ Under s c f i r' ∧ r'.stopAt = r.stopAt := by
  obtain ⟨b, pa, hp, hv⟩ := hv
  obtain ⟨r₁, h₁, hr₁, e₁⟩ := checkAt_under hr hp
  obtain ⟨r₂, h₂, hr₂, e₂⟩ := readAt_under h hr₁ hv b a w
  exact ⟨_, r₁, r₂, h₁, h₂, hr₂, e₂.trans e₁⟩

/-- A byte that can be loaded is read. -/
theorem read8_under {s : State} {c f n i r a v} (h : Ready s c f n) (hr : Under s c f i r) (hv : s.loads8 c a v) :
    ∃ r', Runs (read8 a) r v r' ∧ Under s c f i r' ∧ r'.stopAt = r.stopAt := by
  obtain ⟨loc, r₁, r', h₁, h₂, hr', e⟩ := loads_under h hr hv .byte
  rw [← hr.access 1] at h₁
  exact ⟨r', Runs.bind (Runs.get r) (Runs.bind h₁ (Runs.bind h₂ rfl)), hr', e⟩

/-- Likewise a 16-bit value. -/
theorem read16_under {s : State} {c f n i r a v} (h : Ready s c f n) (hr : Under s c f i r) (hv : s.loads16 c a v) :
    ∃ r', Runs (read16 a) r v r' ∧ Under s c f i r' ∧ r'.stopAt = r.stopAt := by
  obtain ⟨ho, hv⟩ := hv
  obtain ⟨loc, r₁, r', h₁, h₂, hr', e⟩ := loads_under h hr hv .half
  rw [← hr.access 1] at h₁
  refine ⟨r', Runs.bind (a := ()) (r₁ := r) (by simp only [Runs, checkEven, ho, Bool.false_eq_true, if_false]; rfl)
    (Runs.bind (Runs.get r) (Runs.bind h₁ (Runs.bind h₂ ?_))), hr', e⟩
  have : half (([lowByte v, highByte v] : List Byte).getD 0 0) (([lowByte v, highByte v] : List Byte).getD 1 0) = v := by
    simp only [half, lowByte, highByte, List.getD_cons_zero, List.getD_cons_succ]
    apply BitVec.eq_of_toNat_eq
    simp only [BitVec.toNat_ofNat, BitVec.toNat_setWidth, Nat.shiftRight_eq_div_pow]
    omega
  simp only [this]; rfl

/-! ### Stores -/

/-- The run `r` has the stores `ps` to make, and its registers, shadow and stack are `q`'s. -/
structure Wrote (s : State) (c : Core) (ps : List Put) (q r : Run) : Prop where
  st : r.st = s
  core : r.c = c
  ctx : r.k = (s.core c).cur
  base : r.base.ctx.getLsbD 15 = (s.regsOf c).ctx.getLsbD 15
  acc : ∀ k, r.access k = s.accessOf c k
  reads : r.reads = []
  puts : r.puts = ps
  frames : ∀ x ∈ r.touched, x.1 < 5120
  regs : r.r = q.r
  seen : r.seen = q.seen
  stack : r.stack = q.stack
  shadow : r.shadow = q.shadow

theorem Under.wrote {s c f i r} (h : Under s c f i r) : Wrote s c [] r r where
  st := h.st
  core := h.core
  ctx := h.ctx
  base := by rw [h.base, withFs_get _ _ 15 (by decide)]
  acc := h.access
  reads := h.reads
  puts := h.puts
  frames := h.frames
  regs := rfl
  seen := rfl
  stack := rfl
  shadow := rfl

/-- Registers, shadow and stack may be set at any time. -/
theorem Wrote.leave {s c ps q r} (h : Wrote s c ps q r) (x : CtxRegs) (sh : Option Shadow) (st : List RsEntry) :
    Wrote s c ps { q with r := x, shadow := sh, stack := st } { r with r := x, shadow := sh, stack := st } where
  st := h.st
  core := h.core
  ctx := h.ctx
  base := h.base
  acc := h.acc
  reads := h.reads
  puts := h.puts
  frames := h.frames
  regs := rfl
  seen := h.seen
  stack := rfl
  shadow := rfl

/-- Only the registers may be set. -/
theorem Wrote.setR {s c ps q r} (h : Wrote s c ps q r) (x : CtxRegs) : Wrote s c ps { q with r := x } { r with r := x } where
  st := h.st
  core := h.core
  ctx := h.ctx
  base := h.base
  acc := h.acc
  reads := h.reads
  puts := h.puts
  frames := h.frames
  regs := rfl
  seen := h.seen
  stack := h.stack
  shadow := h.shadow

/-- A pinned access passes its checks, with stores before it. -/
theorem checkAt_wrote {s c ps q r a b pa acc} (hr : Wrote s c ps q r) (hp : s.pinned c a acc = some (b, pa)) :
    ∃ r', Runs (checkAt a acc) r { la := a, b, pa } r' ∧ Wrote s c ps q r' := by
  have htr : Runs (translate a acc) r (b, pa) { r with locked := b.src :: r.locked } := by
    simp only [Runs, translate, hr.st, hr.core, hr.ctx, xlate_pinned hp]
  exact ⟨_, Runs.bind htr (Runs.pure _ _),
    ⟨hr.st, hr.core, hr.ctx, hr.base, hr.acc, hr.reads, hr.puts, hr.frames, hr.regs, hr.seen, hr.stack, hr.shadow⟩⟩

/-- A store to a checked place that the context may write joins the instruction's stores. -/
theorem storeAt_wrote {s c ps q r} {l : Loc} {w : Width} (d : List Byte) (hr : Wrote s c ps q r)
    (he : s.writeError (s.masterOf c) l.pa w = none) :
    ∃ r', Runs (storeAt l w d) r () r' ∧ Wrote s c (ps ++ [{ pa := l.pa, data := d, se := flagSE l.b.flags || seRegion l.pa }]) q r' := by
  refine ⟨{ r.touch l.pa true with puts := r.puts ++ [{ pa := l.pa, data := d, se := flagSE l.b.flags || seRegion l.pa }] }, ?_, ?_⟩
  · refine Runs.bind (a := ()) (r₁ := r) ?_ ?_
    · simp only [State.masterOf] at he
      simp only [Runs, storeOk, bind, EStateM.bind, MonadState.get, getThe, MonadStateOf.get, EStateM.get, hr.st, Run.master, hr.core, hr.ctx,
        hr.base, he, Pure.pure, EStateM.pure]
    · simp only [Runs, putAt, modify, modifyGet, MonadStateOf.modifyGet, EStateM.modifyGet, touch_eq]
  · rw [touch_eq]
    exact ⟨hr.st, hr.core, hr.ctx, hr.base, hr.acc, hr.reads, by rw [hr.puts], touched_lt l.pa true hr.frames, hr.regs, hr.seen,
      hr.stack, hr.shadow⟩

/-- A store without an exception. -/
theorem puts_wrote {s c ps q r a w d p acc} (hr : Wrote s c ps q r) (hp : s.puts c acc a w d p) :
    ∃ loc r₁ r', Runs (checkAt a acc) r loc r₁ ∧ Runs (storeAt loc w d) r₁ () r' ∧ Wrote s c (ps ++ [p]) q r' := by
  obtain ⟨b, pa, hpin, he, -, rfl⟩ := hp
  obtain ⟨r₁, h₁, hr₁⟩ := checkAt_wrote hr hpin
  obtain ⟨r₂, h₂, hr₂⟩ := storeAt_wrote (l := { la := a, b, pa }) d hr₁ he
  exact ⟨_, r₁, r₂, h₁, h₂, hr₂⟩

/-- A byte is stored. -/
theorem write8_wrote {s c ps q r a v p} (hr : Wrote s c ps q r) (hp : s.stores8 c a v p) :
    ∃ r', Runs (write8 a v) r () r' ∧ Wrote s c (ps ++ [p]) q r' := by
  obtain ⟨loc, r₁, r₂, h₁, h₂, hr₂⟩ := puts_wrote hr hp
  rw [← hr.acc 2] at h₁
  exact ⟨r₂, Runs.bind (Runs.get r) (Runs.bind h₁ h₂), hr₂⟩

/-- A 16-bit value is stored. -/
theorem write16_wrote {s c ps q r a v p} (hr : Wrote s c ps q r) (hp : s.stores16 c a v p) :
    ∃ r', Runs (write16 a v) r () r' ∧ Wrote s c (ps ++ [p]) q r' := by
  obtain ⟨ho, hp⟩ := hp
  obtain ⟨loc, r₁, r₂, h₁, h₂, hr₂⟩ := puts_wrote hr hp
  rw [← hr.acc 2] at h₁
  refine ⟨r₂, Runs.bind (a := ()) (r₁ := r) (by simp only [Runs, checkEven, ho, Bool.false_eq_true, if_false]; rfl) ?_, hr₂⟩
  exact Runs.bind (Runs.get r) (Runs.bind h₁ h₂)

/-- What a store of `puts` is, for the completion. -/
theorem puts_plain {s c acc a w d p} (h : State.puts s c acc a w d p) : p.key = none ∧ p.pa / 4 * 4 ≠ Reg.lccMode c.val := by
  obtain ⟨b, pa, -, -, hm, rfl⟩ := h; exact ⟨rfl, hm⟩

/-! ### Completion -/

/-- A register of the translation tables is not a storage key. -/
theorem not_key {a : Nat} (h : a < Reg.xltKey 0 ∨ Reg.xltKey 1280 ≤ a) : isKeyReg a = false := by
  simp only [isKeyReg, decide_eq_false_iff_not]; omega

/-- Frames that are touched change storage keys only. -/
theorem touches_rest (l : List (Nat × Bool)) (s : State) (h : ∀ x ∈ l, x.1 < 5120) :
    let t := l.foldl (fun s f => s.touchFrame f.1 f.2) s
    t = { s with regs := t.regs } ∧ ∀ a, isKeyReg a = false → t.reg a = s.reg a := by
  induction l generalizing s with
  | nil => exact ⟨rfl, fun _ _ => rfl⟩
  | cons x t ih =>
    have hx := h x (List.mem_cons_self ..)
    obtain ⟨h₁, h₂⟩ := ih (s.touchFrame x.1 x.2) fun y hy => h y (List.mem_cons_of_mem _ hy)
    refine ⟨?_, fun a ha => ?_⟩
    · simp only [List.foldl_cons] at h₁ ⊢
      rw [h₁]; rfl
    · simp only [List.foldl_cons] at h₂ ⊢
      rw [h₂ a ha]
      refine State.reg_setReg_ne _ _ ?_
      rintro rfl
      have : isKeyReg (Reg.xltKey (x.1 / 4)) = true := by
        refine decide_eq_true ⟨?_, ?_⟩ <;> simp only [Reg.xltKey] <;> omega
      rw [this] at ha; cases ha

/-- The block of an address depends on neither storage keys, store buffers nor contexts. -/
theorem sForm_congr {s t : State} (c : Core) (k : Ctx) (a : Half) (hrest : t = { s with cores := t.cores, regs := t.regs })
    (hregs : ∀ a, isKeyReg a = false → t.reg a = s.reg a) (hold : (t.core c).lateRegs ++ (t.core c).oldRegs = (s.core c).lateRegs ++ (s.core c).oldRegs)
    (hi : (t.core c).ilab = (s.core c).ilab) (h2 : (t.core c).l2 = (s.core c).l2) : t.sForm c k a = s.sForm c k a := by
  have hk : k.val < 8 := k.isLt
  have hc : c.val < 4 := c.isLt
  have heff : ∀ r, isKeyReg r = false → effReg t c r = effReg s c r := by
    intro r hr; simp only [effReg, hold, hregs r hr]
  have hpbr : ∀ n, findPbr t c k n = findPbr s c k n := by
    intro n
    simp only [findPbr]
    have e : ∀ l : List Nat, (∀ i ∈ l, i < 4) →
        l.findSome? (fun i => if (flagV (descBlock (effReg t c (Reg.pbrL c.val k.val i)) (effReg t c (Reg.pbrP c.val k.val i)) (0x80 + i)).flags &&
          (descBlock (effReg t c (Reg.pbrL c.val k.val i)) (effReg t c (Reg.pbrP c.val k.val i)) (0x80 + i)).contains n) = true
          then some (descBlock (effReg t c (Reg.pbrL c.val k.val i)) (effReg t c (Reg.pbrP c.val k.val i)) (0x80 + i)) else none) =
        l.findSome? (fun i => if (flagV (descBlock (effReg s c (Reg.pbrL c.val k.val i)) (effReg s c (Reg.pbrP c.val k.val i)) (0x80 + i)).flags &&
          (descBlock (effReg s c (Reg.pbrL c.val k.val i)) (effReg s c (Reg.pbrP c.val k.val i)) (0x80 + i)).contains n) = true
          then some (descBlock (effReg s c (Reg.pbrL c.val k.val i)) (effReg s c (Reg.pbrP c.val k.val i)) (0x80 + i)) else none) := by
      intro l hl
      induction l with
      | nil => rfl
      | cons i l ih =>
        have hi' := hl i (List.mem_cons_self ..)
        have e1 := heff (Reg.pbrL c.val k.val i) (not_key (.inl (by simp only [Reg.pbrL, Reg.xltWin, Reg.xltKey]; omega)))
        have e2 := heff (Reg.pbrP c.val k.val i) (not_key (.inl (by simp only [Reg.pbrP, Reg.xltWin, Reg.xltKey]; omega)))
        rw [List.findSome?_cons, List.findSome?_cons, e1, e2, ih fun j hj => hl j (List.mem_cons_of_mem _ hj)]
    exact e _ fun i hi' => List.mem_range.mp hi'
  have hx : effReg t c Reg.xltXdiag = effReg s c Reg.xltXdiag := heff _ (by decide)
  have hmem : ∀ n a, t.bytes a n = s.bytes a n := by
    intro n
    induction n with
    | zero => intro a; rfl
    | succ n ih =>
      intro a
      have : t.byte a = s.byte a := by rw [hrest]; rfl
      simp only [State.bytes, this, ih]
  have hhard : t.sramHard = s.sramHard := by rw [hrest]
  have hwalk : ∀ base a left i seen, walkFrom t k base a left i seen = walkFrom s k base a left i seen := by
    intro base a left
    induction left with
    | zero => intro i seen; rfl
    | succ n ih =>
      intro i seen
      simp only [walkFrom, memWord, hmem, hhard, ih]; rfl
  have hb : effReg t c (Reg.bdtb c.val k.val) = effReg s c (Reg.bdtb c.val k.val) :=
    heff _ (not_key (.inl (by simp only [Reg.bdtb, Reg.xltWin, Reg.xltKey]; omega)))
  have hn : effReg t c (Reg.bdtn c.val k.val) = effReg s c (Reg.bdtn c.val k.val) :=
    heff _ (not_key (.inl (by simp only [Reg.bdtn, Reg.xltWin, Reg.xltKey]; omega)))
  have hw : ∀ a, walk t c k a = walk s c k a := by intro a; simp only [walk, hb, hn, hwalk]
  simp only [State.sForm, State.peekBlock, State.peek, hpbr, State.noIDL, State.noL2, hx, hi, h2, hw, if_true]; rfl

/-- What is left to do when an instruction completes: its registers, shadow and stack stand and its stores enter the buffer. -/
theorem complete_wrote {s c ps q r} (hr : Wrote s c ps q r) (hcnt : (s.core c).modeCounts = [])
    (hps : ∀ p ∈ ps, p.key = none ∧ p.pa / 4 * 4 ≠ Reg.lccMode c.val) (hfit : (s.bufAfter c ps).length ≤ 4) :
    ∃ t, r.complete = some t ∧ (t.core c).det = (s.core c).det ∧ OnlyContext s (t.unpaired c) c (s.bufAfter c ps) ∧
      (t.unpaired c).runs c = { s.runs c with regs := q.r.withFs (s.sForm c (s.core c).cur q.r.pc), shadow := q.shadow, stack := q.stack } := by
  have huser : (!r.user) = (s.regsOf c).ctx.getLsbD 15 := by simp only [Run.user, hr.base, Bool.not_not]
  have hkeep : ∀ (l : List Put) (u : State), (∀ p ∈ l, p.key = none) → l.foldl (fun s p => s.keepKey c p) u = u := by
    intro l
    induction l with
    | nil => intro u _; rfl
    | cons p l ih =>
      intro u hl
      rw [List.foldl_cons, show u.keepKey c p = u by simp [State.keepKey, hl p (List.mem_cons_self ..)]]
      exact ih u fun x hx => hl x (List.mem_cons_of_mem _ hx)
  have hafter : r.afterReads = s := by simp [Run.afterReads, hr.reads, hr.st]
  have hbuf : (ps.flatMap fun p => p.entries r.k (!r.user)).foldl bufTake (s.core c).buf = s.bufAfter c ps := by
    rw [huser, hr.ctx]; rfl
  have hput : r.commitPuts = some (r.touched.foldl (fun s f => s.touchFrame f.1 f.2)
      (s.modCore c fun x => { x with buf := s.bufAfter c ps })) := by
    simp only [Run.commitPuts, hafter, hr.core, hr.puts, hbuf, hkeep ps _ (fun p hp => (hps p hp).1), hfit, if_true]
  have hmode : r.setsMode = false := by
    simp only [Run.setsMode, hr.puts, List.any_eq_false]
    intro p hp
    simp [(hps p hp).2, hr.core]
  obtain ⟨ht₁, ht₂⟩ := touches_rest r.touched (s.modCore c fun x => { x with buf := s.bufAfter c ps }) hr.frames
  generalize hu : r.touched.foldl (fun s f => s.touchFrame f.1 f.2) (s.modCore c fun x => { x with buf := s.bufAfter c ps }) = u at *
  have hcores : u.cores = (s.modCore c fun x => { x with buf := s.bufAfter c ps }).cores := by rw [ht₁]
  have hucore : ∀ d, u.core d = (s.modCore c fun x => { x with buf := s.bufAfter c ps }).core d := by
    intro d; simp only [State.core, hcores]
  have hform : u.sForm c (s.core c).cur q.r.pc = s.sForm c (s.core c).cur q.r.pc := by
    refine sForm_congr c _ _ (by rw [ht₁]; rfl) (fun a ha => by rw [ht₂ a ha]; rfl) ?_ ?_ ?_ <;>
      rw [hucore, State.core_modCore_same]
  have hcount : ∀ v : State, (v.core c).modeCounts = [] → v.countModes c false = v := by
    intro v hv; simp [State.countModes, hv]
  have hcore : ∀ f : CtxSt → CtxSt, ((u.modCtx c (s.core c).cur f).core c) =
      CoreSt.modCtx { s.core c with buf := s.bufAfter c ps } (s.core c).cur f := by
    intro f
    rw [State.modCtx, State.core_modCore_same, hucore, State.core_modCore_same]
  refine ⟨u.modCtx c (s.core c).cur fun x => { x with
    regs := q.r.withFs (s.sForm c (s.core c).cur q.r.pc), stack := q.stack, shadow := q.shadow }, ?_, ?_, ?_, ?_⟩
  · simp only [Run.complete, hput, hr.core, hr.ctx, hr.regs, hr.stack, hr.shadow, hform, hmode]
    rw [hcount _ (by rw [hcore]; exact hcnt)]
    simp
  · rw [hcore]; rfl
  · refine ⟨?_, ?_, ?_, ?_, ?_⟩
    · rw [State.unpaired, ht₁]; rfl
    · intro a ha
      exact (ht₂ a ha).trans rfl
    · intro d hd
      rw [State.unpaired, State.core_modCore_ne _ _ hd, State.modCtx, State.core_modCore_ne _ _ hd, hucore, State.core_modCore_ne _ _ hd]
    · rw [State.unpaired, State.core_modCore_same, hcore]; rfl
    · intro k hk
      rw [State.unpaired, State.ctx, State.core_modCore_same, hcore]
      have : (s.core c).cur.val ≠ k.val := fun e => hk (Fin.ext e.symm)
      simp [State.ctx, CoreSt.ctx, CoreSt.modCtx, this]
  · simp only [State.runs, State.unpaired, State.ctx, State.core_modCore_same, hcore, CoreSt.modCtx]
    simp [CoreSt.ctx]

/-- An instruction whose operation runs to its end completes. -/
theorem instr_wrote {s : State} {c : Core} {f : Form} {n : Nat} {op : Op Unit} {stop : Option Nat} {ps : List Put} {q r : Run}
    {i : Instr} (h : Ready s c f n) (hi : exec i s = instr c f op s stop)
    (hop : Runs op (startRun (s.applyModes c) c f stop) () r) (hr : Wrote s c ps q r)
    (hps : ∀ p ∈ ps, p.key = none ∧ p.pa / 4 * 4 ≠ Reg.lccMode c.val) (hfit : (s.bufAfter c ps).length ≤ 4) :
    Completes i s c q.r q.shadow q.stack (s.bufAfter c ps) := by
  obtain ⟨t, ht, hd, ho, hx⟩ := complete_wrote hr h.counts hps hfit
  refine ⟨t.unpaired c, ?_, ho, hx⟩
  rw [hi]
  have hf : (s.core c).held.isNone = true := by rw [h.free]; rfl
  simp only [instr, h.acts, hf, and_self, if_true, runOp]
  rw [show op (startRun (s.applyModes c) c f stop) = _ from hop]
  have hfast : t.fastOn c 3 = false := by simp [State.fastOn, hd, h.det]
  simp [ht, State.issued, hfast]

/-- One that stores nothing. -/
theorem instr_gives {s : State} {c : Core} {f : Form} {n : Nat} {op : Op Unit} {q r : Run} {i : Instr} (h : Ready s c f n)
    (hi : exec i s = instr c f op s) (hop : Runs op (startRun (s.applyModes c) c f none) () r) (hr : Wrote s c [] q r) :
    Completes i s c q.r q.shadow q.stack (s.core c).buf :=
  instr_wrote h hi hop hr (by simp) h.room

end Sys2Proof.Machine
end

