-- ==== Sys2Proof/Laws/Operands.lean ====
section
/-! SUPPORT. How the operands of an A-form instruction are fetched, read and written when its core is ready. -/

namespace Sys2Proof.Machine

/-- A primary instruction is fetched. -/
theorem fetchGroup_under {s : State} {c n r} {o : Opd} {w : Bool} (h : Ready s c .A n) (hr : Under s c .A 0 r)
    (hn : 1 + o.bytes.length ≤ n) (ho : o.bad w = false) (g : Nat) :
    ∃ r', Runs (fetchGroup g o w) r () r' ∧ Under s c .A (1 + o.bytes.length) r' ∧ r'.stopAt = r.stopAt := by
  obtain ⟨r₁, h₁, hr₁, e₁⟩ := fetchOpcode_under h hr (by omega) (BitVec.ofNat 8 (g * 8 + o.mode)) false (o.bad w) noPhase rfl ho rfl
  obtain ⟨r₂, h₂, hr₂, e₂⟩ := fetchBytes_under h o.bytes hr₁ (by omega)
  exact ⟨r₂, h₁.bind h₂, by simpa using hr₂, e₂.trans e₁⟩

/-- An instruction of a page is fetched. -/
theorem fetchPage_under {s : State} {c n r} {o : Opd} {w : Bool} (h : Ready s c .A n) (hr : Under s c .A 0 r)
    (hn : 2 + o.bytes.length ≤ n) (ho : o.bad w = false) (page : Byte) (op : Nat) :
    ∃ r', Runs (fetchPage page op o w) r () r' ∧ Under s c .A (2 + o.bytes.length) r' ∧ r'.stopAt = r.stopAt := by
  obtain ⟨r₀, h₀, hr₀, e₀⟩ := fetchByte_under h hr (by omega) page
  obtain ⟨r₁, h₁, hr₁, e₁⟩ := fetchOpcode_under h hr₀ (by omega) (BitVec.ofNat 8 (op * 8 + o.mode)) false (o.bad w) noPhase rfl ho rfl
  obtain ⟨r₂, h₂, hr₂, e₂⟩ := fetchBytes_under h o.bytes hr₁ (by omega)
  exact ⟨r₂, h₀.bind (h₁.bind h₂), by simpa using hr₂, e₂.trans (e₁.trans e₀)⟩

/-- A branch word whose condition is one of Table 7.2 is fetched. -/
theorem fetchBranch_under {s : State} {c f n i r} {ok : Nat → Bool} (h : Ready s c f n) (hr : Under s c f i r) (hn : i + 2 ≤ n) (bw : Half)
    (hb : ok (branchCond bw) = true) :
    ∃ r', Runs (fetchBranch bw ok) r () r' ∧ Under s c f (i + 2) r' ∧ r'.stopAt = r.stopAt := by
  obtain ⟨r₁, h₁, hr₁, e₁⟩ := fetchByte_under h hr (by omega) (lowByte bw)
  obtain ⟨r₂, h₂, hr₂, e₂⟩ := fetchByte_under h hr₁ (by omega) (highByte bw)
  exact ⟨r₂, Runs.bind h₁ (by rw [hb]; exact h₂), hr₂, e₂.trans e₁⟩

/-- The registers that an A-form instruction sees. -/
theorem Under.sees {s : State} {c i r} (h : Under s c .A i r) : r.seen = (s.seenA c).withFs false ∧
    ∀ o : Opd, o.ea r.seen = o.ea (s.seenA c) := by
  have e : r.seen = (s.seenA c).withFs false := by
    rw [h.seen]
    simp only [State.seenA, seenRegs]
    rcases (s.runs c).shadow with _ | (_ | _ | _) <;> rfl
  refine ⟨e, fun o => ?_⟩
  rw [e]
  unfold Opd.ea
  rcases o.index with _ | (_ | _ | _ | _) <;> rfl

/-- The 8-bit value of an operand is read. -/
theorem load8_under {s : State} {c n i r v} {o : Opd} (h : Ready s c .A n) (hr : Under s c .A i r) (hv : s.value8 c o v) :
    ∃ r', Runs (load8 o) r v r' ∧ Under s c .A i r' ∧ r'.stopAt = r.stopAt := by
  have he : Runs (eaOf o) r (o.ea (s.seenA c)) r := by rw [← hr.sees.2 o]; rfl
  unfold State.value8 at hv
  split at hv
  · rename_i a ha
    obtain ⟨r', h', hr'⟩ := read8_under h hr hv
    exact ⟨r', he.bind (by rw [ha]; exact h'), hr'⟩
  · rename_i ha
    subst hv
    exact ⟨r, he.bind (by rw [ha]; rfl), hr, rfl⟩

/-- The 16-bit value of an operand is read. -/
theorem load16_under {s : State} {c n i r v} {o : Opd} (h : Ready s c .A n) (hr : Under s c .A i r) (hv : s.value16 c o v) :
    ∃ r', Runs (load16 o) r v r' ∧ Under s c .A i r' ∧ r'.stopAt = r.stopAt := by
  have he : Runs (eaOf o) r (o.ea (s.seenA c)) r := by rw [← hr.sees.2 o]; rfl
  unfold State.value16 at hv
  split at hv
  · rename_i a ha
    obtain ⟨r', h', hr'⟩ := read16_under h hr hv
    exact ⟨r', he.bind (by rw [ha]; exact h'), hr'⟩
  · rename_i ha
    subst hv
    exact ⟨r, he.bind (by rw [ha]; rfl), hr, rfl⟩

/-- A byte is stored to an operand in memory. -/
theorem store8_wrote {s : State} {c i r v p a} {o : Opd} (hr : Under s c .A i r) (ha : o.ea (s.seenA c) = some a)
    (hp : s.stores8 c a v p) : ∃ r', Runs (store8 o v) r () r' ∧ Wrote s c [p] r r' := by
  have he : Runs (eaOf o) r (some a) r := by rw [← ha, ← hr.sees.2 o]; rfl
  obtain ⟨r', h', hr'⟩ := write8_wrote hr.wrote hp
  exact ⟨r', he.bind h', hr'⟩

/-- A 16-bit value is stored to an operand in memory. -/
theorem store16_wrote {s : State} {c i r v p a} {o : Opd} (hr : Under s c .A i r) (ha : o.ea (s.seenA c) = some a)
    (hp : s.stores16 c a v p) : ∃ r', Runs (store16 o v) r () r' ∧ Wrote s c [p] r r' := by
  have he : Runs (eaOf o) r (some a) r := by rw [← ha, ← hr.sees.2 o]; rfl
  obtain ⟨r', h', hr'⟩ := write16_wrote hr.wrote hp
  exact ⟨r', he.bind h', hr'⟩

/-- A conditional branch changes PC only (the predictor is at rest in deterministic mode). -/
theorem predicted_wrote {s : State} {c ps q r} (hr : Wrote s c ps q r) (hd : (s.core c).det = true) (taken : Bool) (disp : Half) :
    ∃ r', Runs (predicted taken disp) r () r' ∧
      Wrote s c ps { q with r := if taken then { q.r with pc := q.r.pc + disp } else q.r } r' := by
  have hl : ∀ k pc t, s.followBranch c k pc t taken = s := by
    intro k pc t; simp [State.followBranch, State.predictsTaken, State.learn, State.fastOn, hd]
  obtain ⟨h1, h2, h3, h4, h5, h6, h7, h8, h9, h10, h11, h12⟩ := hr
  cases taken
  · refine ⟨{ r with st := s }, ?_, ⟨rfl, h2, h3, h4, h5, h6, h7, h8, h9, h10, h11, h12⟩⟩
    simp only [Runs, predicted, branchIf, bind, EStateM.bind, modify, modifyGet, MonadStateOf.modifyGet, EStateM.modifyGet, Pure.pure,
      EStateM.pure, h1, h2, hl, Bool.false_eq_true, if_false]
  · refine ⟨{ r with st := s, r := { r.r with pc := r.r.pc + disp } }, ?_, ⟨rfl, h2, h3, h4, h5, h6, h7, h8, by rw [h9]; rfl, h10, h11, h12⟩⟩
    simp only [Runs, predicted, branchIf, setRegs, bind, EStateM.bind, modify, modifyGet, MonadStateOf.modifyGet, EStateM.modifyGet, Pure.pure,
      h1, h2, hl, if_true]

end Sys2Proof.Machine
end

