-- ==== Sys2Proof/Laws/Instr.lean ====
section
/-! SUPPORT. What each shape of A-form instruction leaves when its core is ready, said once for the instructions of that shape. -/

namespace Sys2Proof.Machine

/-- The registers past an instruction, as its run holds them. -/
theorem Under.after {s : State} {c i r} (h : Under s c .A i r) : r.r = (s.after c i).withFs false := h.regs

/-- The last step of an instruction that changes registers. -/
theorem setRegs_run {f : CtxRegs → CtxRegs → CtxRegs} {r : Run} {x : CtxRegs} (h : f r.seen r.r = x) :
    Runs (setRegs f) r () { r with r := x } := by subst h; rfl

/-- The end of an instruction that changes registers only. -/
theorem gives_regs {s : State} {n k : Nat} {core : Core} {op : Op Unit} {r : Run} {i : Instr} {x : CtxRegs} {b : Bool} {f : Form}
    (h : Ready s core f n) (hi : exec i s = instr core f op s) (hu : Under s core f k r)
    (hop : Runs op (startRun (s.applyModes core) core f none) () { r with r := x.withFs b }) : Gives i s core x := by
  have hw := hu.wrote.leave (x.withFs b) none (s.runs core).stack
  have e : ({ r with r := x.withFs b, shadow := none, stack := (s.runs core).stack } : Run) = { r with r := x.withFs b } := by
    rw [← hu.shadow, ← hu.stack]
  rw [e] at hw
  have := instr_gives h hi hop hw
  obtain ⟨t, h₁, h₂, h₃⟩ := this
  rw [hu.shadow, hu.stack, withFs_withFs] at h₃
  exact ⟨t, h₁, h₂, h₃⟩

/-- A register instruction. -/
theorem regOp_gives {s : State} {c : Core} {b : Byte} {f : CtxRegs → CtxRegs → CtxRegs} {i : Instr} (h : Ready s c .A 1)
    (hi : exec i s = instr c .A (regOp b f) s)
    (hf : ∀ v r, f (v.withFs false) (r.withFs false) = (f v r).withFs false) : Gives i s c (f (s.seenA c) (s.after c 1)) := by
  obtain ⟨r, h₁, hr, -⟩ := opcode_under h (Under.start h none) (by decide) b
  refine gives_regs h hi hr (b := false) (Runs.bind h₁ ?_)
  exact setRegs_run (by rw [hr.sees.1, hr.after]; first | rfl | (rw [hf]))

/-- A shift or rotate of A. -/
theorem shiftOp_gives {s : State} {c : Core} {b : Byte} {f : Byte → Nat → Byte × Nat} {i : Instr} (h : Ready s c .A 1)
    (hi : exec i s = instr c .A (shiftOp b f) s) :
    Gives i s c ({ s.after c 1 with a := (f (s.seenA c).a (s.seenA c).cd).1 }.withCd (f (s.seenA c).a (s.seenA c).cd).2) :=
  regOp_gives (f := fun v r => { r with a := (f v.a v.cd).1 }.withCd (f v.a v.cd).2) h hi fun v r => by
    simp only [withFs_cd, withFs_a, ← withFs_withCd]; rfl

/-- A new A of A and the operand. -/
theorem accOp_gives {s : State} {c : Core} {g : Nat} {o : Operand8} {f : Byte → Byte → Byte} {m : Byte} {i : Instr}
    (h : Ready s c .A (1 + o.opd.bytes.length)) (hi : exec i s = instr c .A (accOp g o f) s) (ho : o.opd.bad false = false)
    (hm : s.value8 c o.opd m) : Gives i s c { s.after c (1 + o.opd.bytes.length) with a := f (s.seenA c).a m } := by
  obtain ⟨r₁, h₁, hr₁, -⟩ := fetchGroup_under h (Under.start h none) (by omega) ho g
  obtain ⟨r₂, h₂, hr₂, -⟩ := load8_under h hr₁ hm
  refine gives_regs h hi hr₂ (b := false) (Runs.bind h₁ (Runs.bind h₂ ?_))
  exact setRegs_run (by rw [hr₂.sees.1, hr₂.after]; rfl)

/-- A new A and CD of A, the operand and CD. -/
theorem carryOp_gives {s : State} {c : Core} {g : Nat} {o : Operand8} {f : Byte → Byte → Nat → Byte × Nat} {m : Byte} {i : Instr}
    (h : Ready s c .A (1 + o.opd.bytes.length)) (hi : exec i s = instr c .A (carryOp g o f) s) (ho : o.opd.bad false = false)
    (hm : s.value8 c o.opd m) :
    Gives i s c ({ s.after c (1 + o.opd.bytes.length) with a := (f (s.seenA c).a m (s.seenA c).cd).1 }.withCd
      (f (s.seenA c).a m (s.seenA c).cd).2) := by
  obtain ⟨r₁, h₁, hr₁, -⟩ := fetchGroup_under h (Under.start h none) (by omega) ho g
  obtain ⟨r₂, h₂, hr₂, -⟩ := load8_under h hr₁ hm
  refine gives_regs h hi hr₂ (b := false) (Runs.bind h₁ (Runs.bind h₂ ?_))
  exact setRegs_run (by rw [hr₂.sees.1, hr₂.after]; simp only [withFs_cd, withFs_a, ← withFs_withCd]; rfl)

/-- MINU and MAXU. -/
theorem pageAccOp_gives {s : State} {c : Core} {op : Nat} {o : Operand8} {f : Byte → Byte → Byte} {m : Byte} {i : Instr}
    (h : Ready s c .A (2 + o.opd.bytes.length)) (hi : exec i s = instr c .A (pageAccOp op o f) s) (ho : o.opd.bad false = false)
    (hm : s.value8 c o.opd m) : Gives i s c { s.after c (2 + o.opd.bytes.length) with a := f (s.seenA c).a m } := by
  obtain ⟨r₁, h₁, hr₁, -⟩ := fetchPage_under h (Under.start h none) (by omega) ho 0xF0 op
  obtain ⟨r₂, h₂, hr₂, -⟩ := load8_under h hr₁ hm
  refine gives_regs h hi hr₂ (b := false) (Runs.bind h₁ (Runs.bind h₂ ?_))
  exact setRegs_run (by rw [hr₂.sees.1, hr₂.after]; rfl)

/-- Registers from a 16-bit operand of page F1h. -/
theorem pageLoadOp_gives {s : State} {c : Core} {op : Nat} {o : Operand16} {f : CtxRegs → CtxRegs → Half → CtxRegs} {m : Half} {i : Instr}
    (h : Ready s c .A (2 + o.opd.bytes.length)) (hi : exec i s = instr c .A (pageLoadOp op o f) s) (ho : o.opd.bad false = false)
    (hm : s.value16 c o.opd m) (hf : ∀ v r, f (v.withFs false) (r.withFs false) m = (f v r m).withFs false) :
    Gives i s c (f (s.seenA c) (s.after c (2 + o.opd.bytes.length)) m) := by
  obtain ⟨r₁, h₁, hr₁, -⟩ := fetchPage_under h (Under.start h none) (by omega) ho 0xF1 op
  obtain ⟨r₂, h₂, hr₂, -⟩ := load16_under h hr₁ hm
  refine gives_regs h hi hr₂ (b := false) (Runs.bind h₁ (Runs.bind h₂ ?_))
  exact setRegs_run (by rw [hr₂.sees.1, hr₂.after]; first | rfl | (rw [hf]))

/-- The end of an instruction that loads a register and leaves a load shadow. -/
theorem loads_shadow {s : State} {c : Core} {n k : Nat} {op : Op Unit} {r : Run} {i : Instr} {x : CtxRegs} {f : CtxRegs → Shadow}
    (h : Ready s c .A n) (hi : exec i s = instr c .A op s) (hu : Under s c .A k r)
    (hop : Runs op (startRun (s.applyModes c) c .A none) () { r with r := x.withFs false, shadow := some (f r.base) })
    (hf : f r.base = f (s.regsOf c)) : Completes i s c x (some (f (s.regsOf c))) (s.runs c).stack (s.core c).buf := by
  have hw := hu.wrote.leave (x.withFs false) (some (f r.base)) (s.runs c).stack
  have e : ({ r with r := x.withFs false, shadow := some (f r.base), stack := (s.runs c).stack } : Run) =
      { r with r := x.withFs false, shadow := some (f r.base) } := by rw [← hu.stack]
  rw [e] at hw
  obtain ⟨t, h₁, h₂, h₃⟩ := instr_gives h hi hop hw
  rw [hu.stack, withFs_withFs, hf] at h₃
  exact ⟨t, h₁, h₂, h₃⟩

/-- The end of an instruction that stores and changes registers. -/
theorem stores_regs {s : State} {c : Core} {f : Form} {n : Nat} {op : Op Unit} {q r : Run} {i : Instr} {x : CtxRegs} {b : Bool} {k : Nat}
    {ps : List Put} (h : Ready s c f n) (hi : exec i s = instr c f op s) (hu : Under s c f k q)
    (hop : Runs op (startRun (s.applyModes c) c f none) () r) (hw : Wrote s c ps { q with r := x.withFs b } r)
    (hps : ∀ p ∈ ps, p.key = none ∧ p.pa / 4 * 4 ≠ Reg.lccMode c.val) (hfit : (s.bufAfter c ps).length ≤ 4) :
    Completes i s c x none (s.runs c).stack (s.bufAfter c ps) := by
  obtain ⟨t, h₁, h₂, h₃⟩ := instr_wrote (stop := none) h hi hop hw hps hfit
  simp only [hu.shadow, hu.stack, withFs_withFs] at h₃
  exact ⟨t, h₁, h₂, h₃⟩

/-- One that leaves the registers past it. -/
theorem stores_after {s : State} {c : Core} {n k : Nat} {op : Op Unit} {q r : Run} {i : Instr} {ps : List Put} (h : Ready s c .A n)
    (hi : exec i s = instr c .A op s) (hu : Under s c .A k q) (hop : Runs op (startRun (s.applyModes c) c .A none) () r)
    (hw : Wrote s c ps q r) (hps : ∀ p ∈ ps, p.key = none ∧ p.pa / 4 * 4 ≠ Reg.lccMode c.val) (hfit : (s.bufAfter c ps).length ≤ 4) :
    Completes i s c (s.after c k) none (s.runs c).stack (s.bufAfter c ps) :=
  stores_regs (q := q) (b := false) h hi hu hop (by rw [← hu.after]; exact hw) hps hfit

theorem one_plain {s : State} {c acc a w d p} (h : State.puts s c acc a w d p) :
    ∀ x ∈ [p], x.key = none ∧ x.pa / 4 * 4 ≠ Reg.lccMode c.val := by
  intro x hx; rw [List.mem_singleton.mp hx]; exact puts_plain h

/-- A register is stored. -/
theorem storeOp_completes {s : State} {c : Core} {g : Nat} {o : Operand8} {f : CtxRegs → Half} {a : Half} {p : Put} {i : Instr}
    (h : Ready s c .A (1 + o.opd.bytes.length)) (hi : exec i s = instr c .A (storeOp g o f) s) (ho : o.opd.bad true = false)
    (ha : o.opd.ea (s.seenA c) = some a) (hf : ∀ v, f (v.withFs false) = f v) (hp : s.stores16 c a (f (s.seenA c)) p)
    (hfit : (s.bufAfter c [p]).length ≤ 4) :
    Completes i s c (s.after c (1 + o.opd.bytes.length)) none (s.runs c).stack (s.bufAfter c [p]) := by
  obtain ⟨r₁, h₁, hr₁, -⟩ := fetchGroup_under h (Under.start h none) (by omega) ho g
  obtain ⟨r₂, h₂, hr₂⟩ := store16_wrote hr₁ ha hp
  refine stores_after h hi hr₁ (Runs.bind h₁ (Runs.bind (Runs.get r₁) ?_)) hr₂ (one_plain hp.2) hfit
  rw [hr₁.sees.1, hf]; exact h₂

theorem pageStoreOp_completes {s : State} {c : Core} {op : Nat} {o : Operand16} {f : CtxRegs → Half} {a : Half} {p : Put} {i : Instr}
    (h : Ready s c .A (2 + o.opd.bytes.length)) (hi : exec i s = instr c .A (pageStoreOp op o f) s) (ho : o.opd.bad true = false)
    (ha : o.opd.ea (s.seenA c) = some a) (hf : ∀ v, f (v.withFs false) = f v) (hp : s.stores16 c a (f (s.seenA c)) p)
    (hfit : (s.bufAfter c [p]).length ≤ 4) :
    Completes i s c (s.after c (2 + o.opd.bytes.length)) none (s.runs c).stack (s.bufAfter c [p]) := by
  obtain ⟨r₁, h₁, hr₁, -⟩ := fetchPage_under h (Under.start h none) (by omega) ho 0xF1 op
  obtain ⟨r₂, h₂, hr₂⟩ := store16_wrote hr₁ ha hp
  refine stores_after h hi hr₁ (Runs.bind h₁ (Runs.bind (Runs.get r₁) ?_)) hr₂ (one_plain hp.2) hfit
  rw [hr₁.sees.1, hf]; exact h₂

/-- Registers with the CD that a computation names, if it names one. -/
def cdOf (r : CtxRegs) : Option Nat → CtxRegs
  | some d => r.withCd d
  | none => r

/-- A byte of memory is changed in place. -/
theorem modify8_wrote {s : State} {c n i r a m p v cd} {f : Byte → Byte × Option Nat} (h : Ready s c .A n) (hr : Under s c .A i r)
    (hm : s.loads8 c a m) (hf : f m = (v, cd)) (hp : s.stores8 c a v p) :
    ∃ r', Runs (modify8 a f) r () r' ∧ Wrote s c [p] { r with r := cdOf r.r cd } r' := by
  obtain ⟨b, pa, hpin, hread⟩ := hm
  obtain ⟨b', pa', hpin', he, -, rfl⟩ := hp
  obtain ⟨r₁, h₁, hr₁, -⟩ := checkAt_under hr hpin
  obtain ⟨r₂, h₂, hr₂, -⟩ := checkAt_under hr₁ hpin'
  obtain ⟨r₃, h₃, hr₃, -⟩ := readAt_under h hr₂ hread b a .byte
  obtain ⟨r₄, h₄, hr₄⟩ := storeAt_wrote (l := { la := a, b := b', pa := pa' }) (w := .byte) [v] hr₃.wrote he
  rw [← hr.access 1] at h₁
  rw [← hr₁.access 2] at h₂
  refine ⟨{ r₄ with r := cdOf r₄.r cd }, Runs.bind (Runs.get r) (Runs.bind h₁ (Runs.bind (Runs.get r₁) (Runs.bind h₂ (Runs.bind h₃ ?_)))), ?_⟩
  · simp only [List.getD_cons_zero, hf]
    refine Runs.bind h₄ ?_
    cases cd <;> rfl
  · have e : r₃.r = r.r := by rw [hr₃.regs, hr.regs]
    have hreg : r₄.r = r.r := hr₄.regs.trans e
    exact ⟨hr₄.st, hr₄.core, hr₄.ctx, hr₄.base, hr₄.acc, hr₄.reads, hr₄.puts, hr₄.frames, by rw [hreg],
      by rw [hr₄.seen, hr₃.seen, hr.seen], by rw [hr₄.stack, hr₃.stack, hr.stack], by rw [hr₄.shadow, hr₃.shadow, hr.shadow]⟩

/-- INCM and DECM. -/
theorem memOp_completes {s : State} {c : Core} {b : Nat} {o : OperandAD} {f : Byte → Byte} {a : Half} {m : Byte} {p : Put} {i : Instr}
    (h : Ready s c .A (1 + o.opd.bytes.length)) (hi : exec i s = instr c .A (memOp b o f) s) (ha : o.opd.ea (s.seenA c) = some a)
    (hm : s.loads8 c a m) (hp : s.stores8 c a (f m) p) (hfit : (s.bufAfter c [p]).length ≤ 4) :
    Completes i s c (s.after c (1 + o.opd.bytes.length)) none (s.runs c).stack (s.bufAfter c [p]) := by
  obtain ⟨r₁, h₁, hr₁, -⟩ := opcode_under h (Under.start h none) (by omega) (BitVec.ofNat 8 (b + o.opd.mode))
  obtain ⟨r₂, h₂, hr₂, -⟩ := fetchBytes_under h o.opd.bytes hr₁ (by omega)
  obtain ⟨r₃, h₃, hr₃⟩ := modify8_wrote (f := fun m => (f m, none)) h hr₂ hm rfl hp
  have he : Runs (eaOf o.opd) r₂ (some a) r₂ := by rw [← ha, ← hr₂.sees.2 o.opd]; rfl
  refine stores_after (k := 1 + o.opd.bytes.length) (q := r₂) h hi (by simpa using hr₂)
    (Runs.bind h₁ (Runs.bind h₂ (Runs.bind he h₃))) hr₃ (one_plain hp) hfit

/-- Page F0h ops 0 to 6. -/
theorem pageMemOp_completes {s : State} {c : Core} {op : Nat} {o : Operand8} {f : Byte → Byte → Nat → Byte × Option Nat} {a : Half}
    {m v : Byte} {cd : Option Nat} {p : Put} {i : Instr} (h : Ready s c .A (2 + o.opd.bytes.length))
    (hi : exec i s = instr c .A (pageMemOp op o f) s) (ho : o.opd.bad true = false) (ha : o.opd.ea (s.seenA c) = some a)
    (hm : s.loads8 c a m) (hf : f m (s.seenA c).a (s.seenA c).cd = (v, cd)) (hp : s.stores8 c a v p) (hfit : (s.bufAfter c [p]).length ≤ 4) :
    Completes i s c (cdOf (s.after c (2 + o.opd.bytes.length)) cd) none (s.runs c).stack (s.bufAfter c [p]) := by
  obtain ⟨r₁, h₁, hr₁, -⟩ := fetchPage_under h (Under.start h none) (by omega) ho 0xF0 op
  have ea : r₁.seen.a = (s.seenA c).a := by rw [hr₁.sees.1]; rfl
  have ecd : r₁.seen.cd = (s.seenA c).cd := by rw [hr₁.sees.1, withFs_cd]
  obtain ⟨r₂, h₂, hr₂⟩ := modify8_wrote (f := fun m => f m r₁.seen.a r₁.seen.cd) h hr₁ hm (by rw [ea, ecd]; exact hf) hp
  have he : Runs (eaOf o.opd) r₁ (some a) r₁ := by rw [← ha, ← hr₁.sees.2 o.opd]; rfl
  refine stores_regs (q := r₁) (b := false) h hi hr₁ (Runs.bind h₁ (Runs.bind (Runs.get r₁) (Runs.bind he h₂))) ?_ (one_plain hp) hfit
  rw [hr₁.after] at hr₂
  have e : cdOf ((s.after c (2 + o.opd.bytes.length)).withFs false) cd = (cdOf (s.after c (2 + o.opd.bytes.length)) cd).withFs false := by
    cases cd
    · rfl
    · exact withFs_withCd _ _ _
  rw [e] at hr₂
  exact hr₂

end Sys2Proof.Machine
end

