-- ==== Sys2Proof/Laws/Stack.lean ====
section
/-! SUPPORT. Branches, and the items that pushes, pops and stack instructions read and write when their core is ready. -/

namespace Sys2Proof.Machine

/-- A branch is taken or not. -/
theorem predicted_run {s : State} {c f n i r} (h : Ready s c f n) (hr : Under s c f i r) (taken : Bool) (disp : Half) :
    Runs (predicted taken disp) r () { r with r := if taken then { r.r with pc := r.r.pc + disp } else r.r } := by
  have hl : ∀ t, r.st.followBranch r.c r.k r.base.pc t taken = r.st := by
    intro t; simp [hr.st, hr.core, State.followBranch, State.predictsTaken, State.learn, State.fastOn, h.det]
  cases taken <;>
    simp only [Runs, predicted, branchIf, setRegs, bind, EStateM.bind, modify, modifyGet, MonadStateOf.modifyGet, EStateM.modifyGet,
      Pure.pure, EStateM.pure, hl, if_true, if_false, Bool.false_eq_true]

theorem dslo_under {s : State} {c f i r} (hr : Under s c f i r) : r.dslo = s.dslo c ∧ r.dshi = s.dshi c := by
  simp only [Run.dslo, Run.dshi, State.dslo, State.dshi, hr.st, hr.core, hr.ctx, and_self]

/-- The checks of R207 pass within the limits. -/
theorem popTo_run {s : State} {c f i r dp n} (hr : Under s c f i r) (h : dp + n ≤ s.dshi c) : Runs (popTo dp n) r (dp + n) r := by
  refine Runs.bind (Runs.get r) ?_
  rw [(dslo_under hr).2, if_neg (by omega)]; rfl
theorem pushTo_run {s : State} {c f i r dp n} (hr : Under s c f i r) (h : s.dslo c + n ≤ dp) : Runs (pushTo dp n) r (dp - n) r := by
  refine Runs.bind (Runs.get r) ?_
  rw [(dslo_under hr).1, if_neg (by omega)]; rfl

/-- Checked places that are read without an exception, byte by byte, with their values. -/
def ReadsLocs (s : State) (c : Core) : List Loc → List Byte → Prop
  | [], [] => True
  | l :: t, b :: u => s.readsAt c l.pa 1 [b] ∧ ReadsLocs s c t u
  | _, _ => False

/-- Checked places that take bytes without an exception, and the stores that those are. -/
def PutsLocs (s : State) (c : Core) : List Loc → List Byte → List Put → Prop
  | [], [], [] => True
  | l :: t, b :: u, p :: ps => s.writeError (s.masterOf c) l.pa .byte = none ∧ p = { pa := l.pa, data := [b], se := flagSE l.b.flags || seRegion l.pa } ∧
      PutsLocs s c t u ps
  | _, _, _ => False

/-- The bytes of an item that is read pass their checks. -/
theorem checkItem_reads {s : State} {c f} : ∀ (l : List Byte) {i r a}, Under s c f i r → s.loadsEach c a l →
    ∃ locs r', Runs (checkItem 1 a l.length) r locs r' ∧ Under s c f i r' ∧ ReadsLocs s c locs l
  | [], _, r, _, hr, _ => ⟨[], r, rfl, hr, trivial⟩
  | b :: t, i, r, a, hr, hl => by
    obtain ⟨⟨blk, pa, hp, hv⟩, ht⟩ := hl
    obtain ⟨r₁, h₁, hr₁, -⟩ := checkAt_under hr hp
    obtain ⟨locs, r₂, h₂, hr₂, hl₂⟩ := checkItem_reads t hr₁ ht
    rw [← hr.access 1] at h₁
    exact ⟨_ :: locs, r₂, Runs.bind (Runs.get r) (Runs.bind h₁ (Runs.bind h₂ rfl)), hr₂, hv, hl₂⟩

/-- The bytes of an item that is stored pass their checks. -/
theorem checkItem_puts {s : State} {c f} : ∀ (l : List Byte) {i r a ps}, Under s c f i r → s.storesEach c a l ps →
    ∃ locs r', Runs (checkItem 2 a l.length) r locs r' ∧ Under s c f i r' ∧ PutsLocs s c locs l ps
  | [], _, r, _, [], hr, _ => ⟨[], r, rfl, hr, trivial⟩
  | [], _, _, _, _ :: _, _, hs => hs.elim
  | _ :: _, _, _, _, [], _, hs => hs.elim
  | b :: t, i, r, a, p :: ps, hr, hs => by
    obtain ⟨⟨blk, pa, hp, he, -, rfl⟩, ht⟩ := hs
    obtain ⟨r₁, h₁, hr₁, -⟩ := checkAt_under hr hp
    obtain ⟨locs, r₂, h₂, hr₂, hl₂⟩ := checkItem_puts t hr₁ ht
    rw [← hr.access 2] at h₁
    exact ⟨_ :: locs, r₂, Runs.bind (Runs.get r) (Runs.bind h₁ (Runs.bind h₂ rfl)), hr₂, he, rfl, hl₂⟩

/-- A checked item is read byte by byte. -/
theorem readItem_under {s : State} {c f n} (h : Ready s c f n) : ∀ (locs : List Loc) {l : List Byte} {i r}, Under s c f i r →
    ReadsLocs s c locs l → ∃ r', Runs (readItem locs) r (leNat l) r' ∧ Under s c f i r'
  | [], [], _, r, hr, _ => ⟨r, rfl, hr⟩
  | [], _ :: _, _, _, _, hl => hl.elim
  | _ :: _, [], _, _, _, hl => hl.elim
  | x :: t, b :: u, i, r, hr, hl => by
    obtain ⟨r₁, h₁, hr₁, -⟩ := readAt_under h hr hl.1 x.b x.la .byte
    obtain ⟨r₂, h₂, hr₂⟩ := readItem_under h t hr₁ hl.2
    exact ⟨r₂, Runs.bind h₁ (Runs.bind h₂ rfl), hr₂⟩

theorem leBytes_length (n v : Nat) : (leBytes n v).length = n := by
  induction n generalizing v with
  | zero => rfl
  | succ n ih => simp [leBytes, ih]

theorem leNat_leBytes (n v : Nat) : leNat (leBytes n v) = v % 256 ^ n := by
  induction n generalizing v with
  | zero => simp [leBytes, leNat, Nat.mod_one]
  | succ n ih =>
    simp only [leBytes, leNat, ih, BitVec.toNat_ofNat]
    rw [show 256 ^ (n + 1) = 256 * 256 ^ n from Nat.pow_succ', Nat.mod_mul]

/-- The same for an item with a value. -/
theorem checkItem_value {s : State} {c f i r a k v} (hr : Under s c f i r) (hl : s.loadsEach c a (leBytes k v)) :
    ∃ locs r', Runs (checkItem 1 a k) r locs r' ∧ Under s c f i r' ∧ ReadsLocs s c locs (leBytes k v) := by
  have h := checkItem_reads (leBytes k v) hr hl
  rwa [leBytes_length] at h
theorem checkItem_stores {s : State} {c f i r a k v ps} (hr : Under s c f i r) (hs : s.storesEach c a (leBytes k v) ps) :
    ∃ locs r', Runs (checkItem 2 a k) r locs r' ∧ Under s c f i r' ∧ PutsLocs s c locs (leBytes k v) ps := by
  have h := checkItem_puts (leBytes k v) hr hs
  rwa [leBytes_length] at h

/-- An item with a value is read. -/
theorem readItem_value {s : State} {c f n i r k v locs} (h : Ready s c f n) (hr : Under s c f i r) (hl : ReadsLocs s c locs (leBytes k v))
    (hv : v < 256 ^ k) : ∃ r', Runs (readItem locs) r v r' ∧ Under s c f i r' := by
  obtain ⟨r', h', hr'⟩ := readItem_under h _ hr hl
  rw [leNat_leBytes, Nat.mod_eq_of_lt hv] at h'
  exact ⟨r', h', hr'⟩

/-- A checked item is stored byte by byte. -/
theorem writeItem_wrote {s : State} {c} : ∀ (k : Nat) {ps q r v qs locs}, Wrote s c ps q r → PutsLocs s c locs (leBytes k v) qs →
    ∃ r', Runs (writeItem v locs) r () r' ∧ Wrote s c (ps ++ qs) q r'
  | 0, ps, q, r, v, qs, locs, hr, hs => by
    rcases locs with _ | ⟨x, t⟩ <;> rcases qs with _ | ⟨p, u⟩
    · exact ⟨r, rfl, by simpa using hr⟩
    all_goals exact hs.elim
  | k + 1, ps, q, r, v, qs, locs, hr, hs => by
    rcases locs with _ | ⟨x, t⟩ <;> rcases qs with _ | ⟨p, u⟩
    · exact hs.elim
    · exact hs.elim
    · exact hs.elim
    · obtain ⟨he, rfl, hs⟩ := hs
      obtain ⟨r₁, e₁, hr₁⟩ := storeAt_wrote (w := .byte) [BitVec.ofNat 8 v] hr he
      obtain ⟨r₂, e₂, hr₂⟩ := writeItem_wrote k hr₁ hs
      exact ⟨r₂, Runs.bind e₁ e₂, by simpa using hr₂⟩

/-- Every store of an item is a plain one. -/
theorem storesEach_plain {s : State} {c} : ∀ (l : List Byte) {a ps}, s.storesEach c a l ps →
    ∀ p ∈ ps, p.key = none ∧ p.pa / 4 * 4 ≠ Reg.lccMode c.val
  | [], _, [], _ => by simp
  | [], _, _ :: _, h => h.elim
  | _ :: _, _, [], h => h.elim
  | _ :: t, _, p :: ps, h => by
    intro x hx
    rcases List.mem_cons.mp hx with rfl | hx
    · exact puts_plain h.1
    · exact storesEach_plain t h.2 x hx

/-- A push of a register. -/
theorem pushOp_completes {s : State} {c : Core} {b : Byte} {n : Nat} {f : CtxRegs → Nat} {ps : List Put} {i : Instr} (h : Ready s c .A 1)
    (hi : exec i s = instr c .A (pushOp b n f) s) (hf : ∀ v, f (v.withFs false) = f v) (hd : s.dslo c + n ≤ (s.seenA c).dp.toNat)
    (hp : s.storesEach c ((s.seenA c).dp.toNat - n) (leBytes n (f (s.seenA c))) ps) (hfit : (s.bufAfter c ps).length ≤ 4) :
    Completes i s c { s.after c 1 with dp := (s.seenA c).dp - BitVec.ofNat 16 n } none (s.runs c).stack (s.bufAfter c ps) := by
  obtain ⟨r₁, h₁, hr₁, -⟩ := opcode_under h (Under.start h none) (by decide) b
  have hdp : r₁.seen.dp = (s.seenA c).dp := by rw [hr₁.sees.1]; rfl
  have h₂ := pushTo_run (n := n) hr₁ hd
  obtain ⟨locs, r₂, e₂, hr₂, hl⟩ := checkItem_stores hr₁ hp
  obtain ⟨r₃, h₃, hr₃⟩ := writeItem_wrote n hr₂.wrote hl
  have e : BitVec.ofNat 16 ((s.seenA c).dp.toNat - n) = (s.seenA c).dp - BitVec.ofNat 16 n := by
    have := (s.seenA c).dp.isLt
    apply BitVec.eq_of_toNat_eq
    simp only [BitVec.toNat_ofNat, BitVec.toNat_sub]
    omega
  have hw := hr₃.setR (({ s.after c 1 with dp := (s.seenA c).dp - BitVec.ofNat 16 n } : CtxRegs).withFs false)
  rw [List.nil_append] at hw
  exact stores_regs (q := r₂) (b := false) (op := pushOp b n f) h hi hr₂
    (Runs.bind h₁ (Runs.bind (Runs.get r₁) (Runs.bind (by rw [hdp]; exact h₂) (Runs.bind e₂
      (Runs.bind (by rw [hr₁.sees.1, hf]; exact h₃) (setRegs_run (by rw [hr₃.regs, hr₂.after, e]; rfl))))))) hw (storesEach_plain _ hp) hfit

/-- The run of a pop: its item is read and DP moves. -/
theorem popOp_run {s : State} {c : Core} {b : Byte} {n v : Nat} {f : CtxRegs → Nat → CtxRegs} (h : Ready s c .A 1)
    (hf : ∀ r, f (r.withFs false) v = (f r v).withFs false) (hd : (s.seenA c).dp.toNat + n ≤ s.dshi c)
    (hl : s.loadsEach c (s.seenA c).dp.toNat (leBytes n v)) (hv : v < 256 ^ n) :
    ∃ r, Under s c .A 1 r ∧ Runs (popOp b n f) (startRun (s.applyModes c) c .A none) ()
      { r with r := (f { s.after c 1 with dp := (s.seenA c).dp + BitVec.ofNat 16 n } v).withFs false } := by
  obtain ⟨r₁, h₁, hr₁, -⟩ := opcode_under h (Under.start h none) (by decide) b
  have hdp : r₁.seen.dp = (s.seenA c).dp := by rw [hr₁.sees.1]; rfl
  have h₂ := popTo_run (n := n) hr₁ hd
  obtain ⟨locs, r₂, e₂, hr₂, hl⟩ := checkItem_value hr₁ hl
  obtain ⟨r₃, h₃, hr₃⟩ := readItem_value h hr₂ hl hv
  refine ⟨r₃, hr₃, Runs.bind h₁ (Runs.bind (Runs.get r₁) (Runs.bind (a := (s.seenA c).dp.toNat + n) (by rw [hdp]; exact h₂)
    (Runs.bind (by rw [hdp]; exact e₂) (Runs.bind h₃ (setRegs_run ?_)))))⟩
  have e : BitVec.ofNat 16 ((s.seenA c).dp.toNat + n) = (s.seenA c).dp + BitVec.ofNat 16 n := by
    apply BitVec.eq_of_toNat_eq; simp
  have h₁' : 0 + 1 = 1 := rfl
  rw [hr₃.after, e, ← hf]
  rfl

/-! ### S-form -/

/-- Checked items that are read, with their sizes and values. -/
def ReadsItems (s : State) (c : Core) : List (List Loc) → List Nat → List Nat → Prop
  | [], [], [] => True
  | x :: t, n :: u, v :: w => v < 256 ^ n ∧ ReadsLocs s c x (leBytes n v) ∧ ReadsItems s c t u w
  | _, _, _ => False

/-- Checked items that are stored, with their sizes and values, and their stores. -/
def PutsItems (s : State) (c : Core) : List (List Loc) → List (Nat × Nat) → List Put → Prop
  | [], [], ps => ps = []
  | x :: t, (n, v) :: u, ps => ∃ q rest, ps = q ++ rest ∧ PutsLocs s c x (leBytes n v) q ∧ PutsItems s c t u rest
  | _, _, _ => False

/-- The items at DP pass their checks, top first. -/
theorem checkPops_under {s : State} {c f} : ∀ (ns : List Nat) {ls : List Nat} {i r dp}, Under s c f i r → s.loadsItems c dp ns ls →
    ∃ xs r', Runs (checkPops dp ns) r xs r' ∧ Under s c f i r' ∧ ReadsItems s c xs ns ls
  | [], ls, _, r, _, hr, hl => ⟨[], r, rfl, hr, by rw [show ls = [] from hl]; trivial⟩
  | k :: t, ls, i, r, dp, hr, hl => by
    obtain ⟨v, rest, rfl, hv, h₁, h₂⟩ := hl
    obtain ⟨x, r₁, e₁, hr₁, hx⟩ := checkItem_value hr h₁
    obtain ⟨xs, r₂, e₂, hr₂, hxs⟩ := checkPops_under t hr₁ h₂
    exact ⟨x :: xs, r₂, Runs.bind e₁ (Runs.bind e₂ rfl), hr₂, hv, hx, hxs⟩

/-- The items pushed in order pass their checks; with fewer values than sizes the rest must be empty. -/
theorem checkPushes_under {s : State} {c f} : ∀ (l : List (Nat × Nat)) {i r dp qs}, Under s c f i r → s.storesItems c dp l qs →
    ∃ xs r', Runs (checkPushes dp (l.map fun p => p.1)) r xs r' ∧ Under s c f i r' ∧ PutsItems s c xs l qs
  | [], i, r, dp, qs, hr, hs => ⟨[], r, rfl, hr, hs⟩
  | (k, v) :: t, i, r, dp, qs, hr, hs => by
    obtain ⟨q₁, q₂, rfl, h₁, h₂⟩ := hs
    obtain ⟨x, r₁, e₁, hr₁, hx⟩ := checkItem_stores hr h₁
    obtain ⟨xs, r₂, e₂, hr₂, hxs⟩ := checkPushes_under t hr₁ h₂
    exact ⟨x :: xs, r₂, Runs.bind e₁ (Runs.bind e₂ rfl), hr₂, q₁, q₂, rfl, hx, hxs⟩

/-- Checked items are read. -/
theorem readItems_under {s : State} {c f n} (h : Ready s c f n) : ∀ (xs : List (List Loc)) {ns ls : List Nat} {i r}, Under s c f i r →
    ReadsItems s c xs ns ls → ∃ r', Runs (readItems xs) r ls r' ∧ Under s c f i r'
  | [], [], [], _, r, hr, _ => ⟨r, rfl, hr⟩
  | x :: t, k :: u, v :: w, i, r, hr, hl => by
    obtain ⟨hv, h₁, h₂⟩ := hl
    obtain ⟨r₁, e₁, hr₁⟩ := readItem_value h hr h₁ hv
    obtain ⟨r₂, e₂, hr₂⟩ := readItems_under h t hr₁ h₂
    exact ⟨r₂, Runs.bind e₁ (Runs.bind e₂ rfl), hr₂⟩
  | [], _ :: _, _, _, _, _, hl => hl.elim
  | [], [], _ :: _, _, _, _, hl => hl.elim
  | _ :: _, [], _, _, _, _, hl => hl.elim
  | _ :: _, _ :: _, [], _, _, _, hl => hl.elim

/-- Checked items are stored in order. -/
theorem writeItems_wrote {s : State} {c} : ∀ (xs : List (List Loc)) {l : List (Nat × Nat)} {ps q r qs}, Wrote s c ps q r →
    PutsItems s c xs l qs → ∃ r', Runs (writeItems (xs.zip (l.map fun p => p.2))) r () r' ∧ Wrote s c (ps ++ qs) q r'
  | [], [], ps, q, r, qs, hr, hs => ⟨r, rfl, by rw [show qs = [] from hs]; simpa using hr⟩
  | x :: t, (k, v) :: u, ps, q, r, qs, hr, hs => by
    obtain ⟨q₁, q₂, rfl, h₁, h₂⟩ := hs
    obtain ⟨r₁, e₁, hr₁⟩ := writeItem_wrote k hr h₁
    obtain ⟨r₂, e₂, hr₂⟩ := writeItems_wrote t hr₁ h₂
    exact ⟨r₂, Runs.bind e₁ e₂, by simpa using hr₂⟩
  | [], _ :: _, _, _, _, _, _, hs => hs.elim
  | _ :: _, [], _, _, _, _, _, hs => hs.elim

theorem storesItems_plain {s : State} {c} : ∀ (l : List (Nat × Nat)) {dp ps}, s.storesItems c dp l ps →
    ∀ p ∈ ps, p.key = none ∧ p.pa / 4 * 4 ≠ Reg.lccMode c.val
  | [], _, ps, h => by rw [show ps = [] from h]; simp
  | (k, v) :: t, dp, ps, h => by
    obtain ⟨q₁, q₂, rfl, h₁, h₂⟩ := h
    intro p hp
    rcases List.mem_append.mp hp with hp | hp
    · exact storesEach_plain _ h₁ p hp
    · exact storesItems_plain t h₂ p hp

/-- The checks of R207 for pops and pushes pass within the limits. -/
theorem popsTo_run {s : State} {c f i r} (hr : Under s c f i r) : ∀ (ns : List Nat) {dp}, dp + ns.sum ≤ s.dshi c →
    Runs (popsTo dp ns) r (dp + ns.sum) r
  | [], dp, _ => rfl
  | k :: t, dp, h => by
    rw [List.sum_cons] at h ⊢
    refine Runs.bind (popTo_run hr (by omega)) ?_
    rw [show dp + (k + t.sum) = dp + k + t.sum by omega]
    exact popsTo_run hr t (by omega)
theorem pushesTo_run {s : State} {c f i r} (hr : Under s c f i r) : ∀ (ns : List Nat) {dp}, s.dslo c + ns.sum ≤ dp →
    Runs (pushesTo dp ns) r (dp - ns.sum) r
  | [], dp, _ => rfl
  | k :: t, dp, h => by
    rw [List.sum_cons] at h ⊢
    refine Runs.bind (pushTo_run hr (by omega)) ?_
    rw [show dp - (k + t.sum) = dp - k - t.sum by omega]
    exact pushesTo_run hr t (by omega)

/-- An S-form instruction sees its registers as they stand (R206). -/
theorem Under.seesS {s : State} {c i r} (h : Under s c .S i r) : r.seen = (s.regsOf c).withFs true := by
  rw [h.seen]; rfl

/-- What a stack instruction does after its fetch. -/
theorem stackWork_run {s : State} {c n i r} {ins outs l : List Nat} {f : CtxRegs → List Nat → List Nat} {g : List Nat → CtxRegs → CtxRegs}
    {ps : List Put} (h : Ready s c .S n) (hr : Under s c .S i r)
    (hlen : (f ((s.regsOf c).withFs true) l).length = outs.length) (hpop : (s.regsOf c).dp.toNat + ins.sum ≤ s.dshi c)
    (hpush : s.dslo c + outs.sum ≤ (s.regsOf c).dp.toNat + ins.sum) (hl : s.loadsItems c (s.regsOf c).dp.toNat ins l)
    (hs : s.storesItems c ((s.regsOf c).dp.toNat + ins.sum) (outs.zip (f ((s.regsOf c).withFs true) l)) ps) :
    ∃ r', Runs (stackWork ins outs f g) r () r' ∧
      Wrote s c ps { r with r := g l { r.r with dp := BitVec.ofNat 16 ((s.regsOf c).dp.toNat + ins.sum - outs.sum) } } r' := by
  have hdp : r.seen.dp = (s.regsOf c).dp := by rw [hr.seesS]; rfl
  have e₁' : (outs.zip (f ((s.regsOf c).withFs true) l)).map (fun p => p.1) = outs := List.map_fst_zip (by omega)
  have e₂' : (outs.zip (f ((s.regsOf c).withFs true) l)).map (fun p => p.2) = f ((s.regsOf c).withFs true) l := List.map_snd_zip (by omega)
  obtain ⟨rd, ra, ha, hra, hrd⟩ := checkPops_under ins hr hl
  obtain ⟨wr, rb, hb, hrb, hwr⟩ := checkPushes_under _ hra hs
  obtain ⟨r₁, h₁, hr₁⟩ := readItems_under h rd hrb hrd
  obtain ⟨r₂, h₂, hr₂⟩ := writeItems_wrote wr hr₁.wrote hwr
  rw [e₁'] at hb
  rw [e₂'] at h₂
  have e₁ : r₁.r = r.r := hr₁.regs.trans hr.regs.symm
  have hw := hr₂.setR (g l { r.r with dp := BitVec.ofNat 16 ((s.regsOf c).dp.toNat + ins.sum - outs.sum) })
  refine ⟨_, Runs.bind (Runs.get r) (Runs.bind (a := (s.regsOf c).dp.toNat + ins.sum) (by rw [hdp]; exact popsTo_run hr ins hpop)
    (Runs.bind (pushesTo_run hr outs hpush) (Runs.bind (by rw [hdp]; exact ha) (Runs.bind hb (Runs.bind h₁
      (Runs.bind (by rw [hr.seesS]; exact h₂)
        (setRegs_run (x := g l { r.r with dp := BitVec.ofNat 16 ((s.regsOf c).dp.toNat + ins.sum - outs.sum) })
          (by rw [hr₂.regs, e₁])))))))), ?_⟩
  exact ⟨hw.st, hw.core, hw.ctx, hw.base, hw.acc, hw.reads, hw.puts, hw.frames, rfl, by rw [hw.seen]; exact hr₁.seen.trans hr.seen.symm,
    by rw [hw.stack]; exact hr₁.stack.trans hr.stack.symm, by rw [hw.shadow]; exact hr₁.shadow.trans hr.shadow.symm⟩

/-- A stack instruction of one byte. -/
theorem stackOp_completes {s : State} {c : Core} {b : Byte} {ins outs l : List Nat} {f : CtxRegs → List Nat → List Nat} {ps : List Put}
    {i : Instr} (h : Ready s c .S 1) (hi : exec i s = instr c .S (stackOp b ins outs f) s)
    (hlen : (f ((s.regsOf c).withFs true) l).length = outs.length)
    (hpop : (s.regsOf c).dp.toNat + ins.sum ≤ s.dshi c) (hpush : s.dslo c + outs.sum ≤ (s.regsOf c).dp.toNat + ins.sum)
    (hl : s.loadsItems c (s.regsOf c).dp.toNat ins l)
    (hs : s.storesItems c ((s.regsOf c).dp.toNat + ins.sum) (outs.zip (f ((s.regsOf c).withFs true) l)) ps)
    (hfit : (s.bufAfter c ps).length ≤ 4) :
    Completes i s c { s.after c 1 with dp := BitVec.ofNat 16 ((s.regsOf c).dp.toNat + ins.sum - outs.sum) } none (s.runs c).stack
      (s.bufAfter c ps) := by
  obtain ⟨r₁, h₁, hr₁, -⟩ := opcode_under h (Under.start h none) (by decide) b
  obtain ⟨r₂, h₂, hr₂⟩ := stackWork_run (g := fun _ r => r) h hr₁ hlen hpop hpush hl hs
  rw [hr₁.regs] at hr₂
  exact stores_regs (q := r₁) (b := true) h hi hr₁ (Runs.bind h₁ h₂) hr₂ (storesItems_plain _ hs) hfit

end Sys2Proof.Machine
end

