-- ==== Sys2Proof/WellFormed.lean ====
section
/-! DEFINITION. Which commands are well formed: those whose operands agree with their row of the table. A command that is not well
formed still has a meaning; it is one that no event of the hardware spells. -/

namespace Sys2Proof

open Machine

/-- The widths in which a master reaches a device register: byte and 16 bits for a ledger core and test access, 32 bits for the
others (R30, R31). -/
def Width.wfFor (m : Master) (w : Width) : Bool :=
  match m with
  | .lc _ _ _ => decide (w ≠ .word)
  | .test => decide (w ≠ .word)
  | _ => decide (w = .word)

/-- A written value fits its access. -/
def Width.fits (w : Width) (v : Word) : Bool := decide (v.toNat < 256 ^ widthBytes w)

/-- Whether an access at `a` of width `w` commits: byte +3, the 16 bits at +2, or 32 bits (R35). -/
def Width.commits (w : Width) (a : Nat) : Bool :=
  match w with
  | .byte => decide (a % 4 = 3)
  | .half => decide (a % 4 = 2)
  | .word => decide (a % 4 = 0)

/-- A physical address (R21). -/
def wfAddr (a : Nat) : Bool := decide (a < 2 ^ 32)

/-- A frame of a type, with as many payload bytes as LEN says (Table 13.4). -/
def Frame.wf (f : Frame) (type : Nibble) : Bool := decide (f.type = type) && decide (f.payload.length = f.len.toNat)

/-- A mailbox command with the code of its row (Table 3.6). -/
def wfCmd (code : Nat) (cmd : Word) : Bool := decide (field cmd 0 8 = code)

/-- The codes that no row of Table 3.6 names. -/
def reservedCmd (cmd : Word) : Bool := decide (field cmd 0 8 = 0 ∨ 10 < field cmd 0 8)

/-- Every operand form of page F0h and of the primary map holds what its bytes can spell; a mode 101b to 111b is a form too, which
raises EC 02h (R239). The rows of the last arm have no operand that could disagree with them. -/
def Instr.wf : Instr → Bool
  | .snapshotRead m a w => w.wfFor m && wfAddr a && decide (a % widthBytes w = 0)
  | .stagedWrite m a w v => w.wfFor m && wfAddr a && decide (a % widthBytes w = 0) && w.fits v && !w.commits a
  | .commit m a w v => w.wfFor m && wfAddr a && w.fits v && w.commits a
  | .tmbOpen _ cmd => wfCmd 1 cmd
  | .freeze _ cmd => wfCmd 2 cmd
  | .sign _ cmd => wfCmd 3 cmd
  | .setout _ cmd => wfCmd 4 cmd
  | .reeval _ cmd => wfCmd 5 cmd
  | .nonce _ cmd => wfCmd 6 cmd
  | .logack _ cmd => wfCmd 8 cmd
  | .reload _ cmd => wfCmd 9 cmd
  | .timeset _ cmd => wfCmd 10 cmd
  | .tmbReservedCode _ cmd => reservedCmd cmd
  | .enrollKey _ cmd => wfCmd 7 cmd
  | .revokeKey _ cmd => wfCmd 7 cmd
  | .setConstants _ cmd => wfCmd 7 cmd
  | .setCnvFactors _ cmd => wfCmd 7 cmd
  | .channelIn _ cmd => wfCmd 7 cmd
  | .channelSealedOut _ cmd => wfCmd 7 cmd
  | .clearTamper _ cmd => wfCmd 7 cmd
  | .debugEnable _ cmd => wfCmd 7 cmd
  | .signedReservedType _ cmd => wfCmd 7 cmd
  | .urgentArrival u src =>
    match src with
    | .engine n _ => decide (cnvOf n = u)
    | _ => true
  | .calConversionDone _ factors => decide (factors.length = 12)
  | .undefinedOpcode _ f op second =>
    match f with
    | .S => undefinedS op.toNat && decide (second = 0)
    | .A => (undefinedPrimary op.toNat && decide (second = 0)) || undefinedSecond op.toNat second.toNat
  | .emulationCall _ f e => decide (f = .A ∨ e = 0)
  | .dataFrame _ f => f.wf typeData
  | .bcastFrame _ f => f.wf typeBcast
  | .ackFrame _ f => f.wf typeAck
  | .nakFrame _ f => f.wf typeNak
  | .creditFrame _ f => f.wf typeCredit
  | .holdFrame _ f => f.wf typeHold
  | .goFrame _ f => f.wf typeGo
  | .trainInFlow _ f => f.wf typeTrain
  | .violationFrame _ f => f.wf typeViolation
  | .idleFrame _ f => f.wf typeIdle
  | .reservedTypeFrame _ f => decide (f.type = 0 ∨ 10 < f.type) && decide (f.payload.length = f.len.toNat)
  | .nargaErase b => decide (b = 0x08 ∨ b = 0x7F)
  | .nargaXregRead _ a => wfAddr a
  | .nargaXregWrite _ a v => wfAddr a && decide (v < 2 ^ 32)
  | .remapDone block => decide (block < 2048)
  | .sysStatClear .. | .incrementTake .. | .outsideSessionRecord .. | .totalizerSave .. | .mpoPulseStart .. | .mpoPulseEnd ..
  | .mpoGapEnd .. | .signatureDone .. | .nonceExpiry .. | .loadVerifyDone .. | .reloadDone .. | .tmbAck .. | .sealChange ..
  | .meshCompare .. | .caseChange .. | .tmbXdiagWrite .. | .xdiagTestPulse .. | .faultNotice .. | .tarnCopyLoss ..
  | .tclkWatchdog .. | .tarnStart .. | .microword .. | .microHeldComplete .. | .tickCompare .. | .postMortemTimeout ..
  | .scrubRead .. | .ceHparamWrite .. | .ceXinjWrite .. | .pulseLevelChange .. | .cnvStart .. | .calfull .. | .trigEdge ..
  | .trigDelayEnd .. | .samplingEnd .. | .conversionDone .. | .surgeCrossing .. | .surgeHoldEnd .. | .bgcalConversionStart ..
  | .conversionWatchdog .. | .referenceFault .. | .cnvDeclareWrite .. | .cnvXsurgeWrite .. | .slowSequenceTimer .. | .lda ..
  | .sta .. | .add .. | .addc .. | .sub .. | .subb .. | .and .. | .or .. | .xor .. | .ldx .. | .ldy .. | .stx .. | .sty ..
  | .cba .. | .cbx .. | .cby .. | .nop .. | .trxa .. | .trya .. | .trax .. | .tray .. | .tryx .. | .trxy .. | .inca ..
  | .deca .. | .incx .. | .decx .. | .incy .. | .decy .. | .zera .. | .nega .. | .nota .. | .shla .. | .shra .. | .asra ..
  | .rola .. | .rora .. | .clcd .. | .swna .. | .txl .. | .tlx .. | .tdx .. | .txd .. | .sxa .. | .adxa .. | .adya .. | .mul ..
  | .div .. | .pusha .. | .popa .. | .pushx .. | .popx .. | .pushy .. | .popy .. | .pushl .. | .popl .. | .rctx .. | .wctx ..
  | .sync .. | .syncDone .. | .wait .. | .svc .. | .bpt .. | .jmp .. | .jmpx .. | .call .. | .callx .. | .ret .. | .bra ..
  | .dbnx .. | .dbny .. | .incm .. | .decm .. | .clrm .. | .addm .. | .addcm .. | .subbm .. | .setm .. | .clrbm .. | .rolm ..
  | .rorm .. | .minu .. | .maxu .. | .ldl .. | .stl .. | .addx .. | .subx .. | .addy .. | .suby .. | .lddp .. | .stdp ..
  | .adddp .. | .cbl .. | .rti .. | .spill .. | .fill .. | .kset .. | .mvu .. | .mvfu .. | .setim .. | .clrim .. | .wdr ..
  | .rsrd .. | .rswr .. | .dup .. | .drop .. | .swap .. | .over .. | .rot .. | .dupw .. | .dropw .. | .swapw .. | .overw ..
  | .toa .. | .froma .. | .tox .. | .fromx .. | .toy .. | .fromy .. | .sAdd .. | .sAddc .. | .sSub .. | .sSubb .. | .sAnd ..
  | .sOr .. | .sXor .. | .sNot .. | .sNeg .. | .sShl .. | .sShr .. | .sAsr .. | .sMul .. | .sDiv .. | .sInc .. | .sDec ..
  | .addw .. | .subw .. | .andw .. | .orw .. | .xorw .. | .notw .. | .negw .. | .shlw .. | .shrw .. | .incw .. | .decw ..
  | .zxw .. | .sxw .. | .low .. | .ld .. | .st .. | .ldw .. | .stw .. | .tol .. | .froml .. | .fromdp .. | .todp .. | .cb ..
  | .cbw .. | .calls .. | .jmps .. | .lits .. | .lit8 .. | .lit16 .. | .litn .. | .dld .. | .dadd .. | .dsub .. | .dmul ..
  | .ddiv .. | .dshr .. | .dcb .. | .zpk .. | .pzn .. | .dtob .. | .btod .. | .dus .. | .uadd .. | .usub .. | .mvs ..
  | .mvsb .. | .fils .. | .cbs .. | .trs .. | .trts .. | .edt .. | .edtl .. | .contextSwitch .. | .ctxgoGo .. | .ctxgoStop ..
  | .contextStop .. | .lccModeWrite .. | .modeSwitchPoint .. | .lccCacheIinv .. | .lccCacheDinv .. | .lccCacheBpinv ..
  | .storeBufferDrain .. | .storeRoomResume .. | .loadDrainResume .. | .lineFillDone .. | .xltBdtWrite .. | .xltPbrWrite ..
  | .xltKeyClear .. | .xltXdiagWrite .. | .interruptEntry .. | .ec11Entry .. | .irqRsdropWrite .. | .doorbellSet ..
  | .doorbellClear .. | .irqLineWrite .. | .irqXforceWrite .. | .watchdogExpiry .. | .fallbackDelivery .. | .cgOpen ..
  | .cgClose .. | .cgAbort .. | .groupDurable .. | .groupApplied .. | .groupGraceEnd .. | .dischargeTest .. | .nvlCtrlWrite ..
  | .backoffExpiry .. | .ts1Detect .. | .tsOrderedSet .. | .trainingTimeout .. | .offerTimer .. | .levelIdleEnd ..
  | .trainOffer .. | .trainParam .. | .trainEcho .. | .trainEchorep .. | .trainReady .. | .lossOfSignal .. | .flowStable ..
  | .badFrame .. | .ackTimerExpiry .. | .replayTimerExpiry .. | .idleTimerExpiry .. | .stallTimeout .. | .creditTimer ..
  | .violationSecondTick .. | .quarantineEnd .. | .resumeHoldExpiry .. | .frameSend .. | .usdRetrain .. | .usdEnWrite ..
  | .usdXtestWrite .. | .requestArrival .. | .answerArrival .. | .txnSubmit .. | .txnRelease .. | .txnClaim .. | .txnAnswer ..
  | .txnBcast .. | .txnWTake .. | .txnWAnswer .. | .resendTimer .. | .requestTimeout .. | .pendingExpiry ..
  | .completeEntryAged .. | .epochWindowEnd .. | .rtNodeWrite .. | .rtRouteWrite .. | .uartRxByte .. | .uartRxdRead ..
  | .uartTxdWrite .. | .uartTxDone .. | .deLeadEnd .. | .deTailEnd .. | .nargaKill .. | .nargaCancel .. | .nargaLineTooLong ..
  | .nargaUnknownVerb .. | .nargaHelp .. | .nargaId .. | .nargaIdFull .. | .nargaStat .. | .nargaCh .. | .nargaChIn ..
  | .nargaChOut .. | .nargaChReload .. | .nargaChClose .. | .nargaCnv .. | .nargaCnvCal .. | .nargaPort .. | .nargaPortPeer ..
  | .nargaPortRetrain .. | .nargaPortOn .. | .nargaPortOff .. | .nargaRouteNode .. | .nargaRouteNodeSet .. | .nargaRoute ..
  | .nargaRouteSet .. | .nargaRouteTunnel .. | .nargaLogHealth .. | .nargaLogLegal .. | .nargaLogHealthFrom ..
  | .nargaLogLegalFrom .. | .nargaTarn .. | .nargaTarnTime .. | .nargaTarnLogack .. | .nargaTarnNonce .. | .nargaTarnStage ..
  | .nargaTarnSubmit .. | .nargaPwr .. | .nargaPwrGo .. | .nargaClk .. | .nargaImg .. | .nargaImgVerify ..
  | .nargaImgActivate .. | .nargaReconcile .. | .nargaApp .. | .nargaResetCore .. | .nargaResetPort .. | .nargaResetDevice ..
  | .nargaMore .. | .nargaExpertOn .. | .nargaExpertOff .. | .nargaXchScrub .. | .nargaXchInj .. | .nargaXcnvRaw ..
  | .nargaXcnvSurge .. | .nargaXportLoop .. | .nargaXportPrbs .. | .nargaXportTestOff .. | .nargaXportHead ..
  | .nargaXportGohyst .. | .nargaXclkMon .. | .backgroundCommandDone .. | .expertIdleTimeout .. | .tunnelSessionIdle ..
  | .sensorSample .. | .clockMonitorPoll .. | .tamperStatusCopy .. | .viewCompare .. | .healthTransition ..
  | .stateAreaWrite .. | .logSuppressSecond .. | .appPut .. | .appLineTake .. | .appTimeout .. | .wmbXpinWrite ..
  | .wellheadWatchdog .. | .wellheadRestartDone .. | .wellheadStart .. | .rollbackFloorCheck .. | .tfwInstall ..
  | .tfwInstallDone .. | .trialConfirm .. | .pwrRequest .. | .pwrCancel .. | .ladderEntry .. | .wakeNLow .. | .wakeComplete ..
  | .pllLock .. | .xinLoss .. | .xinRestore .. | .xrtcLoss .. | .xrtcRestore .. | .spllUnlock .. | .cpllUnlock ..
  | .tpllUnlock .. | .rcoRange .. | .eclkStop .. | .clkXforceWrite .. | .vinValid .. | .buckRetry .. | .xinAbsent ..
  | .springStart .. | .coreRelease .. | .resetNLow .. | .resetNHigh .. | .deviceReset .. | .coreReset .. | .pfail ..
  | .holdRundown .. | .iicXfer .. | .iicXferDone .. | .iicAbort .. | .iicClear .. | .iicEnable .. | .iicDisable ..
  | .iicBusClearDone .. | .smbusTimeout .. | .iicWdataWrite .. | .iicRdataRead .. | .qspiProgram .. | .qspiErase4k ..
  | .qspiErase64k .. | .qspiReadstat .. | .qspiOpDone .. | .qspiTimeout .. | .gpSet .. | .gpClr .. | .gpEdge .. | .tapReset ..
  | .tapExtest .. | .tapSamplePreload .. | .tapIdcode .. | .tapHighz .. | .tapClamp .. | .tapBypass .. | .dbgaccPoll ..
  | .dbgaccRead .. | .dbgaccWrite .. | .dbgaccReserved .. | .dbghalt .. | .debugExpiry .. | .denOvercurrent .. | .denRetry ..
  | .vioBankChange .. | .tmrEnable .. | .tmrExpiry .. | .rtcAlarm .. | .lowPowerComparatorBreak .. | .stateMachineCheck .. => true

end Sys2Proof
end

