-- ==== Sys2Proof/Tests/Slice0.lean ====
section
/-! SUPPORT. The model's own tests: well-formed and ill-formed commands, worked examples of the spec, and for each statement with hypotheses a
witness: a concrete state and operands that meet them (wit_ and the statement's name). -/

namespace Sys2Proof.Tests

open Machine

/-! ### A small state -/

/-- A released part whose core 0 runs context 0 at PC 0100h in supervisor state, CD 3, with one pinned block of the form `f` that maps LA to the same
address of ledger SRAM, and DSLO 1000h, DSHI 8000h. -/
def demo (f : Form) : State :=
  let s : State := { State.reset with
    power := { State.reset.power with stage := .released, spll := true, cpll := true, tpll := true, xin := true, rco := true }
    tarn := { State.reset.tarn with running := true } }
  let s := (s.setReg (Reg.pbrL 0 0 0) (match f with | .A => 0x1D080000 | .S => 0x9D080000)).setReg (Reg.kdsl 0 0) 0x80001000
  (s.modCore 0 fun x => { x with core := .run }).modCtx 0 0 fun x => { x with
    state := .run, regs := { x.regs with pc := 0x0100, a := 0x21, x := 0x0300, y := 0x0410, l := 0x0002, dp := 0x2000, ctx := 0x8003 } }

/-- The same with other registers in the context that runs. -/
def demoRegs (f : Form) (g : CtxRegs → CtxRegs) : State := (demo f).modCtx 0 0 fun x => { x with regs := g x.regs }

/-- The same with a return stack. -/
def demoStack (f : Form) (l : List RsEntry) : State := (demo f).modCtx 0 0 fun x => { x with stack := l }

/-- With bytes of memory. -/
def demoMem (f : Form) (a : Nat) (l : List Byte) : State := (demo f).setBytes a l

/-! ### Witnesses: ledger cores -/

theorem ready_a : Ready (demo .A) 0 .A 6 := ⟨by decide, by decide, by decide, by decide, by decide, by decide, by decide, by decide⟩
theorem ready_s : Ready (demo .S) 0 .S 3 := ⟨by decide, by decide, by decide, by decide, by decide, by decide, by decide, by decide⟩
/-- The last byte of the logical space. -/
theorem ready_last : Ready (demoRegs .A fun r => { r with pc := 0xFFFF }) 0 .A 1 :=
  ⟨by decide, by decide, by decide, by decide, by decide, by decide, by decide, by decide⟩

theorem ready_mono {s : State} {c : Core} {f : Form} {n m : Nat} (h : Ready s c f n) (hm : m ≤ n) : Ready s c f m :=
  { h with space := by have := h.space; omega, code := fun i hi => h.code i (by omega) }

theorem wit_RegisterInstructions : Ready (demo .A) 0 .A 1 ∧ ((demo .A).seenA 0).a ≠ 0 ∧
    (let s := demoRegs .A fun r => { r with a := 0 }; Ready s 0 .A 1 ∧ (s.seenA 0).a = 0) ∧ Ready (demo .S) 0 .S 1 :=
  ⟨ready_mono ready_a (by decide), by decide,
    ⟨⟨by decide, by decide, by decide, by decide, by decide, by decide, by decide, by decide⟩, by decide⟩, ready_mono ready_s (by decide)⟩

/-- Mode (a) names the byte at 0300h, which holds 0. -/
theorem wit_ByteLoadsAndArithmetic : (Operand8.abs 0x0300).opd.bad false = false ∧ (demo .A).value8 0 (Operand8.abs 0x0300).opd 0 ∧
    (demo .A).value8 0 (Operand8.imm 0xFF).opd 0xFF ∧ Ready (demo .A) 0 .A (2 + (Operand8.abs 0x0300).opd.bytes.length) :=
  ⟨by decide, ⟨_, 0x0300, rfl, by decide, by decide, nofun, fun _ => by decide, by decide⟩, rfl, ready_mono ready_a (by decide)⟩

theorem wit_WordLoadsAndArithmetic : (Operand16.absX 0xFD00).opd.bad false = false ∧ (demo .A).value16 0 (Operand16.absX 0xFD00).opd 0 ∧
    (demo .A).value16 0 (Operand8.imm 0xFF).opd 0x00FF ∧ Ready (demo .A) 0 .A (2 + (Operand16.absX 0xFD00).opd.bytes.length) :=
  ⟨by decide, ⟨by decide, _, 0x0000, rfl, by decide, by decide, nofun, fun _ => by decide, by decide⟩, rfl, ready_mono ready_a (by decide)⟩

theorem wit_MemoryStores : (Operand8.abs 0x0300).opd.bad true = false ∧ (Operand8.abs 0x0300).opd.ea ((demo .A).seenA 0) = some 0x0300 ∧
    (demo .A).stores8 0 0x0300 0x21 { pa := 0x0300, data := [0x21], se := false } ∧
    (demo .A).stores16 0 0x0300 0x0410 { pa := 0x0300, data := [0x10, 0x04], se := false } ∧ (demo .A).loads8 0 0x0300 0 ∧
    ((demo .A).bufAfter 0 [{ pa := 0x0300, data := [0x10, 0x04], se := false }]).length ≤ 4 ∧
    (OperandAD.dp 0xFF).opd.ea ((demo .A).seenA 0) = some 0x20FF ∧ (demo .A).stores8 0 0x20FF 0 { pa := 0x20FF, data := [0], se := false } :=
  ⟨by decide, by decide, ⟨_, _, rfl, by decide, by decide, rfl⟩, ⟨by decide, _, _, rfl, by decide, by decide, rfl⟩,
    ⟨_, 0x0300, rfl, by decide, by decide, nofun, fun _ => by decide, by decide⟩, by decide, by decide, ⟨_, _, rfl, by decide, by decide, rfl⟩⟩

theorem wit_BranchesAndJumps : branchCond 0xB000 < 12 ∧ (demo .A).value8 0 (Operand8.imm 0x21).opd 0x21 ∧
    Ready (demo .A) 0 .A (4 + (Operand16.imm 0).opd.bytes.length) ∧ (demo .A).value16 0 (Operand16.imm 0xFFFF).opd 0xFFFF :=
  ⟨by decide, rfl, ready_mono ready_a (by decide), rfl⟩

theorem wit_StackPushesAndPops : (demo .A).dslo 0 + 2 ≤ ((demo .A).seenA 0).dp.toNat ∧ 0x2000 + 2 ≤ (demo .A).dshi 0 ∧
    (demo .A).storesEach 0 (0x2000 - 1) [0x21] [{ pa := 0x1FFF, data := [0x21], se := false }] ∧ (demo .A).loadsEach 0 0x2000 (leBytes 2 0) :=
  ⟨by decide, by decide, ⟨⟨_, _, rfl, by decide, by decide, rfl⟩, trivial⟩,
    ⟨_, 0x2000, rfl, by decide, by decide, nofun, fun _ => by decide, by decide⟩, ⟨_, 0x2001, rfl, by decide, by decide, nofun, fun _ => by decide, by decide⟩, trivial⟩

/-- At the lower limit: DP one byte above DSLO. -/
theorem wit_push_at_limit : let s := demoRegs .A fun r => { r with dp := 0x1001 }
    s.dslo 0 + 1 ≤ (s.seenA 0).dp.toNat ∧ ¬ s.dslo 0 + 2 ≤ (s.seenA 0).dp.toNat := by decide

/-- The hypotheses of Stacks for an item of two bytes popped and one pushed. -/
theorem wit_Stacks : (demo .S).loadsItems 0 0x2000 [2] [0] ∧ 0x2000 + [2].sum ≤ (demo .S).dshi 0 ∧ (demo .S).dslo 0 + [1].sum ≤ 0x2000 + [2].sum ∧
    (demo .S).storesItems 0 (0x2000 + [2].sum) ([1].zip [0]) [{ pa := 0x2001, data := [0], se := false }] :=
  ⟨⟨0, [], rfl, by decide, ⟨⟨_, 0x2000, rfl, by decide, by decide, nofun, fun _ => by decide, by decide⟩,
      ⟨_, 0x2001, rfl, by decide, by decide, nofun, fun _ => by decide, by decide⟩, trivial⟩, rfl⟩, by decide, by decide,
    ⟨[{ pa := 0x2001, data := [0], se := false }], [], rfl, ⟨⟨_, _, rfl, by decide, by decide, rfl⟩, trivial⟩, rfl⟩⟩

theorem wit_StackWords : (demo .S).loadsEach 0 0x2000 (leBytes 2 0) ∧ (demo .S).loads16 0 0 0 ∧
    (demo .S).stores16 0 0 0 { pa := 0, data := [0, 0], se := false } ∧ 0x2000 + 4 ≤ (demo .S).dshi 0 :=
  ⟨⟨⟨_, 0x2000, rfl, by decide, by decide, nofun, fun _ => by decide, by decide⟩, ⟨_, 0x2001, rfl, by decide, by decide, nofun, fun _ => by decide, by decide⟩, trivial⟩,
    ⟨by decide, _, 0, rfl, by decide, by decide, nofun, fun _ => by decide, by decide⟩, ⟨by decide, _, _, rfl, by decide, by decide, rfl⟩, by decide⟩

theorem wit_CallsAndReturns : (demo .A).callFits 0 = (0 < field ((demo .A).reg (Reg.xrslim 0)) 0 6) ∧ 0 < field ((demo .A).reg (Reg.xrslim 0)) 0 6 ∧
    (let s := demoStack .A [{ pc := 0x0200, ctx := 0x8000, t := true }]
     s.supervisor 0 = true ∧ s.settled 0 ∧ (s.core 0).ec11Back = [] ∧ (s.runs 0).stack.head? = some { pc := 0x0200, ctx := 0x8000, t := true }) ∧
    (let s := demoStack .A [{ pc := 0x0200, ctx := 0x8000, t := false }]; (s.runs 0).stack = [{ pc := 0x0200, ctx := 0x8000, t := false }]) :=
  ⟨rfl, by decide, ⟨by decide, ⟨by decide, by decide, by decide⟩, by decide, by decide⟩, by decide⟩

theorem wit_ContextWordAndSync : (demo .A).supervisor 0 = true ∧ field ((demo .A).seenA 0).y 0 4 ≤ 9 ∧ ((demo .A).seenA 0).y.toNat < 5120 ∧
    field ((demo .A).seenA 0).a 2 2 ≠ 3 ∧
    (let s := (demo .A).modCore 0 fun x => { x with held := some ⟨.A, [0xAA], none⟩ }
     s.canRun 0 = true ∧ (s.core 0).held = some ⟨.A, [0xAA], none⟩ ∧ (s.core 0).modeCounts = [] ∧ (s.core 0).buf = []) := by decide

/-- A vector at 0015h × 4 whose flags word is 0: handler 0000h. -/
theorem demo_vector : (demo .A).vector 0 0 0x15 0 0 :=
  ⟨by decide, _, rfl, by decide, by decide, by decide, by decide, by decide, by decide⟩
theorem wit_TrapsTaken : Ready (demo .A) 0 .A 2 ∧ (demo .A).vector 0 0 0x15 0 0 ∧ (demo .A).settled 0 ∧ undefinedPrimary 0xAE = true ∧
    undefinedS 0x0E = undefinedS 0x0E ∧ undefinedPrimary 0xF0 = false ∧ undefinedSecond 0xF0 0x48 = true ∧
    32 ≤ ((demoStack .A (List.replicate 32 { pc := 0, ctx := 0, t := true })).runs 0).stack.length :=
  ⟨ready_mono ready_a (by decide), demo_vector, ⟨by decide, by decide, by decide⟩, by decide, rfl, by decide, by decide, by decide⟩

/-- Two entries spilled to the area at 4000h of ledger SRAM, which ends at 4100h. -/
def spillDemo : State :=
  (demoStack .A [{ pc := 0x0200, ctx := 0x8000, t := true }, { pc := 0x0300, ctx := 0x8000, t := false }]).setReg (Reg.krsb 0 0) 0x41004000
theorem wit_SpillAndFill : (let s := spillDemo
    s.supervisor 0 = true ∧ (s.core 0).ec11Back = [] ∧ (s.runs 0).stack.length = 2 ∧ field (s.reg (Reg.krsb 0 0)) 2 14 * 4 = 0x4000 ∧
    field (s.reg (Reg.krsb 0 0)) 18 14 * 4 = 0x4100 ∧
    (∀ i, i < 8 → region (0x4000 + i) = .sram ∧ bufByte (s.core 0).buf (0x4000 + i) = none) ∧
    (∀ i, i < 8 → (s.pinned 0 (BitVec.ofNat 16 (0x4000 + 0 * 4 + i)) { s.accessOf 0 3 with needW := true }).map (·.2) = some (0x4000 + i))) ∧
    (let s := spillDemo.setReg (Reg.krsn 0 0) 2
     2 ≤ field (s.reg (Reg.krsn 0 0)) 0 16 ∧
     ∀ i, i < 8 → (s.pinned 0 (BitVec.ofNat 16 (0x4000 + (2 - 2) * 4 + i)) { s.accessOf 0 3 with needR := true }).map (·.2) = some (0x4000 + i) ∧
       s.eccBad (0x4000 + i) = false) := by decide

/-- Line 5 routed to context 0 of core 0 and pending, with IM 0. -/
theorem wit_BoundaryTraps : (demo .A).canRun 0 = true ∧ ((demo .A).runs 0).stopReq = false ∧ ((demo .A).regsOf 0).ctx.getLsbD 9 = false ∧
    (demo .A).vector 0 0 0x17 0 0 ∧ (demo .A).vector 0 0 0x11 0 0 ∧
    (let s := (demo .A).setReg (Reg.irqWdt 0) 0x00010001; s.wdtCounts 0 0 = true ∧ (s.ctx 0 0).wdtPend = false ∧ (s.ctx 0 0).wdtOnce = false) ∧
    (let s := (demo .A).modCore 0 fun x => { x with ec11 := some { failedEc := 0x16, ctx := 1, pc := 0x10 } }
     (s.core 0).ec11 = some { failedEc := 0x16, ctx := 1, pc := 0x10 } ∧ (s.ctx 0 0).stack.length < 40 ∧ s.settled 0) :=
  ⟨by decide, by decide, by decide, ⟨by decide, _, rfl, by decide, by decide, by decide, by decide, by decide, by decide⟩,
    ⟨by decide, _, rfl, by decide, by decide, by decide, by decide, by decide, by decide⟩, by decide, ⟨by decide, by decide, by decide, by decide, by decide⟩⟩
/-- Doorbell 0, line 28, routed to context 0 of core 0 and enabled. -/
theorem wit_interrupt : bestLine (((demo .A).setReg (Reg.irqDb) 1).setReg (Reg.irqLine 28) 0x100) 0 0 = some 28 := by decide

theorem wit_ContextEvents : (let s := (demo .A).modCtx 0 3 fun x => { x with state := .ready }
    let u := s.modCtx 0 0 fun x => { x with state := .idle }
    u.coreActs 0 = true ∧ switchTarget u 0 = some 3 ∧ (u.ctx 0 3).wdtPend = false) ∧
    mayWrite .wellhead (Reg.lccCtxgo 0) = true ∧ (demo .A).answers .wellhead (Reg.lccCtxgo 0) = true ∧
    (let s := (demo .A).modCtx 0 0 fun x => { x with stopReq := true }; (s.ctx 0 0).stopReq = true ∧ (s.ctx 0 0).state ≠ .stopped) := by decide

/-- A register takes a value. -/
theorem takes_of {s : State} {m : Master} {a : Nat} {v : Word} {i : RegInfo} (h : regInfo a = some i) (hw : mayWrite m a = true)
    (hs : s.testShut m = false) (ha : s.answers m a = true) (hv : v &&& i.reserved = 0) (ht : i.tso = 0) (he : i.expert = true → bit (s.reg (ctrlOf a)) 31 = true) : s.takes m a v :=
  ⟨hw, hs, ha, i, h, hv, ht, he⟩

theorem wit_CachesAndStoreBuffer : (demo .A).takes .wellhead (Reg.lccMode 0) 1 ∧ (demo .A).takes (.lc 0 0 true) (Reg.lccCache 0) 0x700 ∧
    (let s := (demo .A).modCore 0 fun x => { x with modeCounts := [(0, false)], fills := [.icache 8] }
     (s.core 0).modeCounts = [(0, false)] ∧ (s.core 0).fills = [.icache 8]) ∧
    (let s := (demo .A).modCore 0 fun x => { x with buf := [{ word := 0x60, mask := 0x81, data := 0, se := false, ctx := 0, sup := true, key := none }] }
     region (0x60 * 8) = .sram ∧ (s.core 0).core ≠ .halted ∧ (s.core 0).buf.length < 4) :=
  ⟨takes_of rfl (by decide) (by decide) (by decide) (by decide) (by decide) (by decide), takes_of rfl (by decide) (by decide) (by decide) (by decide) (by decide) (by decide),
    by decide, by decide⟩

theorem wit_TranslationAndInterruptRegisters : (demo .A).takes (.lc 0 0 true) (Reg.bdtb 0 1) 0x00010000 ∧ (demo .A).takes .wellhead (Reg.bdtn 0 1) 32 ∧
    (demo .A).takes .wellhead (Reg.pbrL 0 1 3) 0x1D000100 ∧ descBad 0x1D000100 ((demo .A).reg (Reg.pbrP 0 1 3)) = false ∧
    (demo .A).takes .wellhead (Reg.xltKey 1279) 0x03030303 ∧ (demo .A).takes .wellhead Reg.irqRsdrop 0xFF03 ∧
    (demo .A).takes .wellhead Reg.irqDbset 8 ∧ (demo .A).takes .wellhead (Reg.irqLine 47) 0 ∧
    ((demo .A).setReg Reg.irqCtrl 0x80000000).takes .wellhead Reg.irqXforce 47 ∧ ((demo .A).setReg Reg.xltCtrl 0x80000000).takes .wellhead Reg.xltXdiag 3 :=
  ⟨takes_of rfl (by decide) (by decide) (by decide) (by decide) (by decide) (by decide), takes_of rfl (by decide) (by decide) (by decide) (by decide) (by decide) (by decide),
    takes_of rfl (by decide) (by decide) (by decide) (by decide) (by decide) (by decide), by decide,
    takes_of rfl (by decide) (by decide) (by decide) (by decide) (by decide) (by decide), takes_of rfl (by decide) (by decide) (by decide) (by decide) (by decide) (by decide),
    takes_of rfl (by decide) (by decide) (by decide) (by decide) (by decide) (by decide), takes_of rfl (by decide) (by decide) (by decide) (by decide) (by decide) (by decide),
    takes_of rfl (by decide) (by decide) (by decide) (by decide) (by decide) (by decide), takes_of rfl (by decide) (by decide) (by decide) (by decide) (by decide) (by decide)⟩

theorem wit_CoreHalts : ((demo .A).core 0).core = .run ∧
    (let s := (demo .A).modTarn fun t => { t with debugLeft := 1 }; s.debugOn = true) ∧
    (let s := (demo .A).modCore 0 fun x => { x with core := .halted }; (s.core 0).fallbackOn = false) := by decide

/-- X and Y name one byte each, 5C and 3C, plus 5 and plus 3. -/
def decDemo : State := (demoMem .A 0x0300 [0x5C]).setBytes 0x0410 [0x3C]
theorem wit_DecimalArithmetic : Ready decDemo 0 .A 5 ∧ decDemo.loadsField 0 (decDemo.operandOf 0 1) 0x0300 1 [0x5C] ∧
    decDemo.loadsField 0 (decDemo.operandOf 0 1) 0x0410 1 [0x3C] ∧ badPacked [0x5C] = none ∧
    (packedValue [0x5C] + packedValue [0x3C]).natAbs < 10 ^ (2 * len1 0 - 1) ∧
    decDemo.storesField 0 (decDemo.operandOf 0 2) 0x0300 (packedResult 1 8) [{ pa := 0x0300, data := [0x8C], se := false }] ∧
    (decDemo.bufAfter 0 [{ pa := 0x0300, data := [0x8C], se := false }]).length ≤ 4 ∧ decimalCond 0 = true :=
  ⟨⟨by decide, by decide, by decide, by decide, by decide, by decide, by decide, by decide⟩,
    ⟨⟨by decide, by decide⟩, [0x5C], [], rfl, ⟨_, 0x0300, rfl, by decide, by decide, nofun, fun _ => by decide, by decide⟩, rfl⟩,
    ⟨⟨by decide, by decide⟩, [0x3C], [], rfl, ⟨_, 0x0410, rfl, by decide, by decide, nofun, fun _ => by decide, by decide⟩, rfl⟩, by decide, by decide,
    ⟨⟨by decide, by decide⟩, _, [], rfl, rfl, ⟨_, _, rfl, by decide, by decide, rfl⟩, rfl⟩, by decide, by decide⟩

theorem wit_DecimalConversions : field (0x00 : Byte) 4 4 = 0 ∧ zonedBad 1 = false ∧ zonedLen 1 = 1 ∧
    (let s := demoMem .A 0x0410 [0x37]; s.loadsField 0 (s.operandOf 0 1) 0x0410 1 [0x37]) ∧ badZoned [0x37] = none ∧ zonedValue [0x37] = 7 ∧
    badUnsigned [0x37] = none ∧ -2 ^ (8 * 1 - 1) ≤ packedValue [0x5C] :=
  ⟨by decide, by decide, by decide, ⟨⟨by decide, by decide⟩, [0x37], [], rfl, ⟨_, 0x0410, rfl, by decide, by decide, nofun, fun _ => by decide, by decide⟩, rfl⟩,
    by decide, by decide, by decide, by decide⟩

/-- A string of one byte, L = 1. -/
def strDemo : State := demoRegs .A fun r => { r with a := 0x20, l := 1 }
theorem wit_StringInstructions : Ready strDemo 0 .A 4 ∧ strDemo.supervisor 0 = true ∧ (strDemo.seenA 0).a.toNat % 16 = 0 ∧ chunkUp false 0x300 1 = 1 ∧
    strDemo.fieldFree 0 0x0300 1 ∧ strDemo.fieldFree 0 0x0410 256 ∧
    strDemo.loadsPieces 0 (strDemo.operandOf 0 1) (pieces 0x410 2 1) [0] ∧
    strDemo.storesPieces 0 (strDemo.operandOf 0 2) (pieces 0x300 2 1) [0] [{ pa := 0x300, data := [0], se := false }] ∧ stringCond 0 = true :=
  ⟨⟨by decide, by decide, by decide, by decide, by decide, by decide, by decide, by decide⟩, by decide, by decide, by decide, ⟨by decide, by decide⟩,
    ⟨by decide, by decide⟩, ⟨[0], [], rfl, ⟨_, 0x0410, rfl, by decide, by decide, nofun, fun _ => by decide, by decide⟩, rfl⟩,
    ⟨_, [], rfl, rfl, ⟨_, _, rfl, by decide, by decide, rfl⟩, rfl⟩, by decide⟩

/-- A pattern of one byte, SEL. -/
def editDemo : State := (demoRegs .A fun r => { r with a := 0x20, l := 1 }).setBytes 0x0300 [0x01]
theorem wit_EditInstructions : Ready editDemo 0 .A 2 ∧ (editDemo.seenA 0).l = 1 ∧ 0x20 ≤ (editDemo.seenA 0).a.toNat ∧ editDemo.fieldFree 0 0x0300 1 ∧
    editDemo.loads 0 (editDemo.operandOf 0 1) 0x0300 1 [1] ∧ editDemo.loads 0 (editDemo.operandOf 0 1) 0x0410 1 [0] ∧
    editDemo.puts 0 (editDemo.operandOf 0 2) 0x0300 .word [0x20] { pa := 0x300, data := [0x20], se := false } :=
  ⟨⟨by decide, by decide, by decide, by decide, by decide, by decide, by decide, by decide⟩, by decide, by decide, ⟨by decide, by decide⟩,
    ⟨_, 0x0300, rfl, by decide, by decide, nofun, fun _ => by decide, by decide⟩, ⟨_, 0x0410, rfl, by decide, by decide, nofun, fun _ => by decide, by decide⟩,
    ⟨_, _, rfl, by decide, by decide, rfl⟩⟩
/-! ### Witnesses: Tarn, engines, converters -/

/-- A slot 0 command word for channel 7, TAG 5Ah. -/
def cmdOf (code : Nat) : Word := BitVec.ofNat 32 (0x005A0700 + code)
theorem demo_serves {s : State} {slot : Slot} {cmd : Word} {k : Nat} (h : s.tarnOn = true ∧ s.tarn.reload = none ∧ bit (s.reg (Reg.tmbRsp slot.val)) 31 = false ∧ s.power.entry = 0 ∧
    cmd &&& 0xFF00F800 = 0 ∧ field cmd 0 8 = k) : s.serves slot cmd k := ⟨h.1, h.2.1, h.2.2.1, h.2.2.2.1, h.2.2.2.2.1, h.2.2.2.2.2⟩
/-- Channel 7 in a legal and a session state. -/
def chanDemo (l : Legal) (x : Sess) : State := (demo .A).modChan 7 fun c => { c with legal := l, sess := x, preset := 0, outCount := 1 }

theorem wit_IncrementsAndPulses : (let s := (chanDemo .isIn .open).modEng 7 fun e => { e with incs := [{ rev := false, count := 15 }] }
    s.tarnOn = true ∧ (s.eng 7).incs = [{ rev := false, count := 15 }] ∧ (s.chan 7).legal ≠ .sealedOut ∧ (s.chan 7).outCount ≠ 0 ∧
      rateDue s.us (seconds 1) (s.chan 7).outLoggedAt = true) ∧
    (let s := (demo .A).modChan 0 fun c => { c with backlog := 1 }; (s.chan 0).mpo = .rest ∧ (s.chan 0).backlog ≠ 0) ∧
    (((demo .A).modChan 0 fun c => { c with mpo := .pulse }).chan 0).mpo = .pulse ∧ (((demo .A).modChan 0 fun c => { c with mpo := .gap }).chan 0).mpo = .gap := by
  decide

theorem wit_SessionCommands :
    (let s := ((chanDemo .isIn .none).setReg (Reg.tmbArg 0 2) 0x000C0000).setReg (Reg.tmbArg 0 4) 0x0000000C
     s.serves 0 (cmdOf 1) 1 ∧ (parsePacked (s.argBytes 0 1 6)).isSome = true ∧ (parsePacked (s.argBytes 0 3 8)).isSome = true ∧ s.tarn.signStop = false ∧
       s.tarn.keyLost = false ∧ s.boundaryOn = false ∧ s.tarn.unexported < 3008 ∧ (s.chan 7).legal = .isIn ∧ (s.chan 7).sess = .none) ∧
    (let s := chanDemo .isIn .stopped; s.serves 0 (cmdOf 2) 2 ∧ (s.chan (chanOf (cmdOf 2))).sess = .stopped) ∧
    (let s := (chanDemo .isIn .frozen).setReg (Reg.tmbArg 0 1) 0x0000000D
     s.serves 0 (cmdOf 3) 3 ∧ (s.chan (chanOf (cmdOf 3))).sess = .frozen ∧ (parsePacked (s.argBytes 0 0 8)).isSome = true ∧ signNibble (s.argBytes 0 0 8) = 0xD ∧
       s.tmbArg 0 2 = 0) ∧
    (let s := (chanDemo .isIn .frozen).setReg (Reg.tmbArg 0 2) 1; s.serves 0 (cmdOf 3) 3 ∧ s.tmbArg 0 2 = 1 ∧ s.tmbArg 0 0 = 0 ∧ s.tmbArg 0 1 = 0) ∧
    (let s := (chanDemo .isIn .signing).modTarn fun t => { t with queue := [7], signing := true, retry := true }
     s.tarn.queue = [7] ∧ s.tarn.signing = true ∧ s.tarn.retry = true ∧ s.tarnOn = true) :=
  ⟨⟨demo_serves (by decide), by decide⟩, ⟨demo_serves (by decide), by decide⟩, ⟨demo_serves (by decide), by decide⟩, ⟨demo_serves (by decide), by decide⟩,
    by decide⟩

theorem wit_MailboxCommands : ((chanDemo .isIn .none).serves 0 (cmdOf 4) 4 ∧ ((chanDemo .isIn .none).chan (chanOf (cmdOf 4))).legal = .isIn) ∧
    (let s := (chanDemo .out .none).modEng 7 fun e => { e with runst := .run }; s.serves 0 (cmdOf 5) 5 ∧ (s.chan 7).legal = .out ∧ (s.chan 7).perm = false ∧ s.chanFaultPresent 7 = false) ∧
    ((demo .A).serves 4 0x000000FF 255 ∧ (demo .A).serves 4 0 0) ∧
    (let s := (demo .A).setReg (Reg.tmbArg 0 1) 0xFFFF; s.serves 0 10 10 ∧ (s.tmbArg 0 1).toNat < 65536 ∧ s.tarn.unexported < 3072) ∧
    ((demo .A).serves 0 8 8 ∧ (demo .A).tarn.logExp ≤ (demo .A).tmbArg 0 0 ∧ (demo .A).tmbArg 0 0 ≤ (demo .A).tarn.logHead) ∧ (demo .A).serves 0 6 6 ∧
    tmbOwner 2 (.lc 2 0 true) = true ∧ (demo .A).takes (.lc 2 0 true) (Reg.tmbAck 2) 1 :=
  ⟨⟨demo_serves (by decide), by decide⟩, ⟨demo_serves (by decide), by decide⟩, ⟨demo_serves (by decide), demo_serves (by decide)⟩,
    ⟨demo_serves (by decide), by decide⟩, ⟨demo_serves (by decide), by decide⟩, demo_serves (by decide), by decide,
    takes_of rfl (by decide) (by decide) (by decide) (by decide) (by decide) (by decide)⟩

/-- A signed command of type 8, DEBUG-ENABLE for 3600 s, from key slot 3, at the staging area. -/
def signedDemo : State := ((demo .A).setBytes 0x017A2000 [0, 8, 0, 2, 3, 0, 0, 0, 0, 0, 0, 0, 0, 0, 0, 9, 0x0E, 0x10]).modTarn fun t =>
  { t with sealOpen := true, nonce := some 9, keys := t.keys.set 3 { state := .valid, pub := 5 } }
theorem wit_SignedCommands : ∃ c, (let s := signedDemo.setReg (Reg.tmbArg 1 0) 0x017A2000
    s.serves 1 7 7 ∧ s.readSigned (s.tmbArg 1 0).toNat = .ok c ∧ s.tarn.sealOpen = true ∧ s.tarn.nonce = some c.nonce ∧ s.signedKey c = some 5 ∧
      s.signedCondition c = none ∧ c.type = 8 ∧ beNat c.payload = 3600) ∧
    (let s := (demo .A).setReg (Reg.tmbArg 1 0) 0x017A2000
     s.serves 1 7 7 ∧ s.signedType 0x017A2000 = some 0 ∧ signedLength 0 = none ∧ s.nvBad 0x017A2000 16 = false) :=
  ⟨_, ⟨demo_serves (by decide), rfl, by decide⟩, demo_serves (by decide), by decide⟩

theorem wit_ReloadCommands : (let s := (demo .A).setReg (Reg.tmbArg 0 0) 0x0179BE00; s.serves 0 (cmdOf 9) 9 ∧ (s.chan 7).sess = .none ∧
      (s.chan 7).perm = false ∧ s.reloadSpent 7 = false ∧ (s.eng 7).incs = []) ∧
    (let r : Reload := { slot := 0, tag := 0x5A, chan := 7, addr := mcodeCopy 7 true, verified := false }
     let s := (demo .A).modTarn fun t => { t with reload := some r }; s.tarn.reload = some r ∧ r.chan = 7 ∧ ((chanDemo .out .none).chan 7).legal ≠ .sealedOut) :=
  ⟨⟨demo_serves (by decide), by decide⟩, by decide⟩

theorem wit_TamperAndTarnFaults : ((demo .A).tarnOn = true ∧ (demo .A).tarn.sealOpen ≠ true ∧ (demo .A).power.entry = 0 ∧ (demo .A).power.ps < 4) ∧
    (let s := (chanDemo .isIn .open).modTarn fun t => { t with meshBad1 := 2, notices := [.engine 7 3] }
     2 ≤ s.tarn.meshBad1 ∧ (s.chan 7).sess = .open ∧ s.tarn.notices = [.engine 7 3] ∧ (s.eng 7).incs = [] ∧ (s.chan 7).legal ≠ .sealedOut) ∧
    ((demo .A).modTarn fun t => { t with notices := [.converter 1 true] }).tarn.notices = [.converter 1 true] ∧
    (let s := (demo .A).modPower fun p => { p with ps := 4 }; 4 ≤ s.power.ps ∧ s.power.ps ≠ 5) ∧
    ((demo .A).setReg Reg.tmbCtrl 0x80000000).takes (.lc 0 0 true) Reg.tmbXdiag 0x80 ∧
    (let s := (chanDemo .out .none).setReg Reg.tmbXdiag 0x80; bit (s.reg Reg.tmbXdiag) 7 = true ∧ (s.chan 7).legal = .out ∧ (s.chan 7).sess = .none) ∧
    (let s := (demo .A).modTarn fun t => { t with running := false }; s.tarnOn = false ∧ s.power.stage ≠ .off) := by
  refine ⟨by decide, by decide, by decide, by decide, takes_of rfl (by decide) (by decide) (by decide) (by decide) (by decide) (by decide), by decide, by decide⟩

/-- An image of one word of zeros for engine 7 in its second copy, of key slot 3, with its SHA-256 digest. -/
def imageDemo : State :=
  ((((demo .A).setBytes 0x0179BE00 [0x48, 0x4C, 0x42, 0x49, 1, 4, 3, 7]).setBytes 0x0179BE10 [0, 0, 0, 12, 0, 0, 0, 1]).setBytes 0x0179BE40
    [0x15, 0xEC, 0x7B, 0xF0, 0xB5, 0x07, 0x32, 0xB4, 0x9F, 0x82, 0x28, 0xE0, 0x7D, 0x24, 0x36, 0x53, 0x38, 0xF9, 0xE3, 0xAB, 0x99, 0x4B, 0x00, 0xAF, 0x08, 0xE5, 0xA3, 0xBF, 0xFE, 0x55, 0xFD, 0x8B]).modTarn fun t =>
      { t with sealOpen := true, keys := t.keys.set 3 { state := .valid, pub := 5 } }
/-- Its verification depends on the opaque signature check alone (log 10). -/
theorem wit_ReloadImage (h : Config.verify 5 (bytesAt (nvlByte imageDemo) 0x0179BE00 128) (bytesAt (nvlByte imageDemo) 0x0179BE80 64) = true) :
    imageDemo.nvBad 0x0179BE00 0x6200 = false ∧ imageDemo.tarn.sealOpen = true ∧
    verifyImage imageDemo (nvlByte imageDemo) typeMcode (mcodeCopy 7 true) = .ok (imageHead (nvlByte imageDemo) (mcodeCopy 7 true)) := by
  have e : verifyImage imageDemo (nvlByte imageDemo) typeMcode 0x0179BE00 =
      if ¬ Config.verify 5 (bytesAt (nvlByte imageDemo) 0x0179BE00 128) (bytesAt (nvlByte imageDemo) 0x0179BE80 64) = true then .error 7
      else if sha256 (bytesAt (nvlByte imageDemo) 0x0179BEC0 12) ≠ (imageHead (nvlByte imageDemo) 0x0179BE00).digest then .error 8
      else .ok (imageHead (nvlByte imageDemo) 0x0179BE00) := by rfl
  refine ⟨by decide, by decide, ?_⟩
  rw [show mcodeCopy 7 true = 0x0179BE00 from rfl, e, if_neg (fun g => g h)]
  exact if_neg (by decide +kernel)
/-- Engine 7 at word 2047 with a word in its store. -/
def engDemo (f : EngineSt → EngineSt) (d : BitVec 96) (k : BitVec 104) : State := (demo .A).modEng 7 fun e =>
  f ({ e with runst := .run, upc := 0x7FF }.setWord 0x7FF { data := d, flips := k })
theorem engine_ready {s : State} {n : Chan} (h : s.engineClocked = true ∧ (s.eng n).inHandler = false ∧ (s.eng n).postMortem = false ∧
    (s.eng n).pending = 0 ∧ (s.eng n).armed = false) : EngineReady s n := ⟨h.1, h.2.1, h.2.2.1, h.2.2.2.1, h.2.2.2.2⟩
/-- A word that adds R0 and R1 into R2; the same with WAIT on Z; one of the reserved SEQ 7. -/
def addWord : BitVec 96 := BitVec.ofNat 96 (1 * 2 ^ 64 + 2 * 2 ^ 58 + 2 * 2 ^ 53)
def waitWord : BitVec 96 := addWord + BitVec.ofNat 96 (1 * 2 ^ 77 + 2 ^ 76)
def badWord : BitVec 96 := BitVec.ofNat 96 (7 * 2 ^ 82)
theorem wit_Microwords :
    (let s := engDemo id addWord 0
     EngineReady s 7 ∧ (s.eng 7).heldWord = none ∧ ((s.eng 7).word (s.eng 7).upc).errors = 0 ∧ ((s.eng 7).word (s.eng 7).upc).data = addWord ∧
       wordPlain s 7 (mword addWord) ∧ (mword addWord).wait = false) ∧
    (let s := engDemo (fun e => { e with event := true }) waitWord 1
     EngineReady s 7 ∧ ((s.eng 7).word (s.eng 7).upc).errors = 1 ∧ (s.eng 7).illegal (mword waitWord) = false ∧ s.condHolds 7 (mword waitWord).cond = false) ∧
    (let s := engDemo (fun e => { e with runst := .wait, event := true, latch := { z := true }, heldWord := some waitWord }) waitWord 0
     EngineReady s 7 ∧ (s.eng 7).heldWord = some waitWord ∧ wordPlain s 7 (mword waitWord) ∧ s.condHolds 7 (mword waitWord).cond = true) ∧
    (let s := engDemo id badWord 3; EngineReady s 7 ∧ (s.eng 7).illegal (mword badWord) = true ∧ 2 ≤ ((s.eng 7).word (s.eng 7).upc).errors) :=
  ⟨⟨engine_ready (by decide +kernel), by decide +kernel, by decide +kernel, by decide +kernel,
      ⟨by decide +kernel, by decide +kernel, by decide +kernel, by decide +kernel, by decide +kernel, by decide +kernel, fun _ h => nomatch h⟩, by decide +kernel⟩,
    ⟨engine_ready (by decide +kernel), by decide +kernel⟩,
    ⟨engine_ready (by decide +kernel), by decide +kernel, ⟨by decide +kernel, by decide +kernel, by decide +kernel, by decide +kernel, by decide +kernel, by decide +kernel, fun _ h => nomatch h⟩, by decide +kernel⟩,
    engine_ready (by decide +kernel), by decide +kernel⟩

theorem wit_EngineEvents : (let s := engDemo (fun e => { e with armed := true, masked := false }) addWord 0
      s.engineClocked = true ∧ (s.eng 7).wq = [] ∧ (s.eng 7).pending = 0 ∧ (s.eng 7).armed = true ∧ (s.eng 7).runst = .run ∧ (s.eng 7).heldWord = none) ∧
    (let s := engDemo (fun e => { e with postMortem := true }) addWord 0; (s.eng 7).postMortem = true) ∧
    (let s := engDemo (fun e => { e with scrub := 0x7FF }) addWord 3; 2 ≤ ((s.eng 7).word (s.eng 7).scrub).errors ∧ (s.eng 7).postMortem = false) ∧
    (let s := engDemo (fun e => { e with qmode := 2, scrub := 0x7FF }) addWord 1
     ((s.eng 7).word (s.eng 7).scrub).errors = 1 ∧ (s.eng 7).qmode = 2 ∧ (s.eng 7).qa ≠ true ∧ s.power.stage ≠ .off ∧ s.power.entry < 7) ∧
    (demo .A).takes (.lc 0 0 true) (Reg.ceHparam 7) 0xFFFFFFFF ∧
    ((chanDemo .out .none).setReg (Reg.ceCtrl 7) 0x80000000).takes (.lc 0 0 true) (Reg.ceXinj 7) 0x016707FF ∧ field (0x016707FF : Word) 16 7 = 103 :=
  ⟨by decide +kernel, by decide +kernel, by decide +kernel, by decide +kernel, takes_of rfl (by decide +kernel) (by decide +kernel) (by decide +kernel) (by decide +kernel) (by decide +kernel) (by decide +kernel),
    takes_of rfl (by decide +kernel) (by decide +kernel) (by decide +kernel) (by decide +kernel) (by decide +kernel) (by decide +kernel), by decide +kernel⟩

/-- Converter 1 in a state, its sequencer enabled, its engines running. -/
def cnvDemo (f : CnvSt → CnvSt) : State := (((demo .A).setReg (Reg.cnvCtrl 1) 0x00000410).modCnv 1 fun c => f { c with state := .ready }).modEng 4 fun e => { e with runst := .run }
theorem wit_ConverterSequences : (let s := cnvDemo id; s.takes (.ce 4) (Reg.cnvCmd 1) 1 ∧ s.cnvStopped = false ∧ bit (s.reg (Reg.cnvCtrl 1)) 4 = true ∧
      s.still = false ∧ (s.cnv 1).calHeld = false ∧ (s.cnv 1).seq = none ∧ (s.cnv 1).work = none ∧ (s.cnv 1).urgents = []) ∧
    (let q : Seq := { kind := .soft, entries := [0, 0], pos := 0, aborts := 0 }
     let s := cnvDemo fun c => { c with state := .run, seq := some q, work := some (.seqEntry 0 0 0, true) }
     (s.cnv 1).work = some (.seqEntry 0 0 0, true) ∧ (s.cnv 1).seq = some q ∧ s.cnvStopped = false ∧ field (0 : Word) 18 2 = 0 ∧
       (s.eng (entryChan 1 0)).runst = .run ∧ (s.cnv 1).queues[(0 : Fin 4)].length < 16 ∧ q.pos + 1 < q.entries.length) ∧
    ((cnvDemo fun c => { c with trigDelay := true }).cnv 1).trigDelay = true ∧
    (let s := (cnvDemo id).modPower fun p => { p with ps := 1, entry := 2 }; let r := s.setReg (Reg.cnvSlow 1) 0x00010000
     r.still = true ∧ r.cnvStopped = false ∧ (r.cnv 1).state = .ready ∧ field (r.reg (Reg.cnvSlow 1)) 16 16 ≠ 0) :=
  ⟨⟨takes_of rfl (by decide) (by decide) (by decide) (by decide) (by decide) (by decide), by decide⟩, by decide, by decide, by decide⟩

theorem wit_ConverterCalibrationAndFaults :
    (let s := cnvDemo fun c => { c with work := some (.urgent 0 0, false), urgents := [1, 2, 3] }
     s.cnvLive 1 = true ∧ (s.cnv 1).work = some (.urgent 0 0, false) ∧ (s.cnv 1).urgents.length < 4) ∧
    (let s := cnvDemo fun c => { c with urgents := [1, 2, 3, 4] }; s.cnvLive 1 = true ∧ 4 ≤ (s.cnv 1).urgents.length) ∧
    (let s := (cnvDemo id).setReg (Reg.cnvSurge 1) 8; bit (s.reg (Reg.cnvSurge 1)) 3 = true ∧ (s.cnv 1).surgeHold = false ∧ s.cnvLive 1 = true ∧
      bit (s.reg (Reg.cnvCtrl 1)) 10 = true ∧ (s.cnv 1).pendingStart = none ∧ s.groupInSession 1 = false ∧ s.power.refFault = false) ∧
    ((cnvDemo id).setReg (Reg.cnvCtrl 1) 0x80000010).takes .wellhead (Reg.cnvXsurge 1) 1 ∧ (cnvDemo id).takes .wellhead (Reg.cnvCmd 1) 2 ∧
    (let s := cnvDemo fun c => { c with state := .cal, work := some (.calStep, false), calConv := 127, calStep := 15 }
     (s.cnv 1).work = some (.calStep, false) ∧ (s.cnv 1).state = .cal ∧ (s.cnv 1).calConv = 127 ∧ (s.cnv 1).calStep = 15) ∧
    factorsOk ((List.replicate 6 [0, 0x40000000]).flatten) = true ∧ factorsOk [] = false ∧
    (let s := cnvDemo fun c => { c with work := some (.background, true), faultTimes := [0] }
     s.takes (.ce 4) (Reg.cnvDeclare 1) 0xA5 ∧ cnvOf 4 = 1 ∧ (s.cnv 1).faulty = false ∧ (s.cnv 1).work = some (.background, true) ∧ (s.cnv 1).state ≠ .off) :=
  ⟨by decide, by decide, by decide, takes_of rfl (by decide) (by decide) (by decide) (by decide) (by decide) (by decide),
    takes_of rfl (by decide) (by decide) (by decide) (by decide) (by decide) (by decide), by decide, by decide, by decide,
    takes_of rfl (by decide) (by decide) (by decide) (by decide) (by decide) (by decide), by decide⟩

/-! ### Witnesses: array, links, mesh -/

/-- A record of one word with its seal. -/
def recordDemo : Record :=
  let w := [{ word := 0x0200000, mask := 0xFF, data := 0 }]
  { core := 1, words := w, last := 1, stamp := sealWord w 1 }

theorem wit_GroupsAndNvlaMaintenance : (let s := ((demo .A).modNvla fun n => { n with gmax := 1 }).modWell fun w => { w with sensors := w.sensors.set 11 { reading := 11500 } }
      s.nvla.groups[(3 : Core)].state = .idle ∧ s.openGroups < s.nvla.gmax ∧ 11500 ≤ s.holdMilli ∧ s.nvla.refuseOpen = false) ∧
    (let s := (demo .A).modGroup 3 fun g => { g with state := .open, owner := 15 }; s.nvla.groups[(3 : Core)].state = .open ∧ s.nvla.groups[(3 : Core)].owner = 15) ∧
    (let s := (demo .A).modGroup 3 fun g => { g with state := .overflow, owner := 15 }; s.nvla.groups[(3 : Core)].state = .overflow) ∧
    (let s := (demo .A).modNvla fun n => { n with closing := [2], durable := [recordDemo], remapping := [(5, 1)] }
     s.nvla.closing = [2] ∧ s.nvla.durable = [recordDemo] ∧ recordDemo.good = true ∧ region (0x0200000 * 8) = .nvla ∧ s.nvla.remapping = [(5, 1)]) ∧
    (demo .A).takes .wellhead Reg.nvlCtrl 4 :=
  ⟨by decide, by decide, by decide, by decide +kernel, takes_of rfl (by decide) (by decide) (by decide) (by decide) (by decide) (by decide)⟩

/-- Node 001h with port 3 in a state; TRAIN payloads of subtypes 1 to 5 from node 002h at the first rate. -/
def portDemo (f : PortSt → PortSt) : State :=
  (((demo .A).setReg (Reg.usdCtrl 3) 0x0F).modMesh fun m => { m with node := 0x80000001 }).modPort 3 f
def trainDemo (sub : Byte) (f : Vector Byte 32 → Vector Byte 32) : TrainPayload := f (((Vector.replicate 32 0).set 0 sub).set 1 1)
def offerDemo : TrainPayload := trainDemo 1 fun v => ((v.set 3 2).set 4 7).set 5 1
def paramDemo : TrainPayload := trainDemo 2 fun v =>
  ((((((((((v.set 3 2).set 4 1).set 7 64).set 8 128).set 0xA 4).set 0xD 5).set 0xF 5).set 0x11 5).set 0x13 5).set 0x15 64).set 0x16 1
theorem wit_PortTraining : (portDemo id).mayTrain 3 = true ∧ (demo .A).mayTrain 3 = false ∧
    (let x := (portDemo fun x => { x with state := .seep, ts2 := 7, ts1 := 15, tsSent := 16 }).port 3; x.state = .seep ∧ ¬ (8 ≤ x.ts2 ∧ 16 ≤ x.tsSent)) ∧
    (let s := portDemo fun x => { x with state := .fill, rate := 1, sentSeen := true }
     (s.port 3).state = .fill ∧ trainFlaws s.nodeId 1 (s.port 3) offerDemo = [] ∧ agreedRate (s.ratesMask 3) (train8 offerDemo 4) ≠ 0 ∧
       train8 offerDemo 5 = 1 ∧ (s.port 3).training = true) ∧
    (let s := portDemo fun x => { x with state := .level, rate := 1, partner := { node := 2 }, echoes := 3, stamps := [0], sentReady := true }
     (s.port 3).state = .level ∧ (s.port 3).levelIdle = false ∧ trainFlaws s.nodeId 2 (s.port 3) paramDemo = [] ∧ trainFlaws s.nodeId 3 (s.port 3) (trainDemo 3 id) = [] ∧
       trainFlaws s.nodeId 4 (s.port 3) (trainDemo 4 id) = [] ∧ trainFlaws s.nodeId 5 (s.port 3) (trainDemo 5 id) = [] ∧
       trainFlaws s.nodeId 2 (s.port 3) (trainDemo 2 id) ≠ []) ∧
    (portDemo fun x => { x with state := .flow }).routesTo 3 = 0 := by decide +kernel

/-- A frame of a type with nothing in it; port 3 in Flow with one frame unacknowledged, or with HOLD and GO agreed. -/
def frameDemo (t : BitVec 4) : Frame := { type := t, tc := 0, seq := 0, ack := 0, len := 0, dst := 0, src := 0, hld := false, payload := [] }
def flowDemo (hg : Bool) : State := portDemo fun x => { x with state := .flow, hgMode := hg, replay := [frameDemo 1] }
theorem frame_taken {s : State} {p : Port} {f : Frame} (h : (s.port p).state = .flow ∧ f.payload.length = f.len.toNat ∧
    (f.type ≠ typeData → f.type ≠ typeBcast → f.dst = 0 ∧ f.src = 0 ∧ (f.type ≠ typeCredit → f.tc = 0 ∧ f.seq = 0)) ∧
    (f.hld = true → (s.port p).hgMode = true) ∧ (f.type = typeHold ∨ f.type = typeGo → (s.port p).hgMode = true) ∧
    (f.type = typeCredit → (s.port p).hgMode = false) ∧ (f.ack - (s.port p).acked).toNat ≤ (s.port p).replay.length) : FrameTaken s p f :=
  ⟨h.1, h.2.1, h.2.2.1, h.2.2.2.1, h.2.2.2.2.1, h.2.2.2.2.2.1, h.2.2.2.2.2.2⟩
/-- A VIOLATION frame of 12 bytes; DATA and BCAST frames numbered 0, 127 and F80h against the expected 0. -/
def violationDemo : Frame := { frameDemo typeViolation with len := 12, payload := List.replicate 12 0 }
theorem wit_FramesReceived : FrameTaken (flowDemo false) 3 (frameDemo typeAck) ∧ FrameTaken (flowDemo false) 3 (frameDemo typeIdle) ∧
    FrameTaken (flowDemo false) 3 { frameDemo typeCredit with tc := 3, seq := 0xFFF } ∧ FrameTaken (flowDemo true) 3 (frameDemo typeHold) ∧
    FrameTaken (flowDemo true) 3 (frameDemo typeGo) ∧ FrameTaken (flowDemo false) 3 { frameDemo typeNak with ack := 0xFFF } ∧
    FrameTaken (flowDemo false) 3 violationDemo ∧ FrameTaken (flowDemo true) 3 { frameDemo typeData with hld := true, seq := 0x07F } ∧
    FrameTaken (flowDemo true) 3 { frameDemo typeBcast with seq := 0xF80 } ∧ ((flowDemo true).port 3).fits (frameDemo typeData) = true ∧
    ((flowDemo true).port 3).nakOut = false :=
  ⟨frame_taken (by decide), frame_taken (by decide), frame_taken (by decide), frame_taken (by decide), frame_taken (by decide), frame_taken (by decide),
    frame_taken (by decide), frame_taken (by decide), frame_taken (by decide), by decide, by decide⟩

theorem wit_PortTimersAndSending : ((flowDemo true).port 3).held = false ∧ ((flowDemo true).port 3).replay ≠ [] ∧ ((flowDemo true).port 3).replayAt = none ∧
    (let x := (portDemo fun x => { x with state := .flow, held := true, ctl := [frameDemo 2], sinceAck := 1 }).port 3
     x.held = true ∧ x.ctl = [frameDemo 2] ∧ (frameDemo 2).type ≠ typeTrain) ∧
    (let x := (portDemo fun x => { x with state := .flow, queues := x.queues.set 2 [(none, frameDemo 1)], limit := Vector.replicate 4 64 }).port 3
     x.nextClass = some 2 ∧ x.queues[(2 : Fin 4)] = [(none, frameDemo 1)] ∧ x.ctl = [] ∧ x.replay.length < 128) ∧
    (let x := (portDemo fun x => { x with state := .flow, replay := [frameDemo 1], replayAt := some 0 }).port 3; x.replay[0]? = some (frameDemo 1)) ∧
    (let x := (portDemo fun x => { x with state := .flow, replay := [frameDemo 1], ages := Vector.replicate 4 0 }).port 3; x.stalled = true) ∧
    ((portDemo fun x => { x with state := .quarantine, expValid := true }).port 3).state = .quarantine := by decide

/-- A request of kind 1 of 8 bytes at 0300h to a node; its answer, a request of kind 1 and a tunnel line as local deliveries. -/
def meshDemo (dst : Word) : State := ((((flowDemo false).setBytes 0x300 [0x10, 0, 0, 0, 0, 0, 0, 1]).setReg (Reg.txnAddr 1) 0x300).setReg (Reg.txnAbuf 1) 0x1FFF00).setReg
  (Reg.txnArg 1) (0x80000 + dst)
def sentTag : TagSt := { state := .sent, owner := 1, dst := 2, req := [0x10, 0, 0, 0, 0, 0, 0, 1], sends := 1, firstAt := 0 }
def answerDemo : Frame := { frameDemo 1 with src := 2, len := 12, payload := [0x90, 0, 0, 0, 0, 0, 0, 1, 0, 0, 0, 0] }
def requestDemo (p : List Byte) (tc : BitVec 2) : Frame := { frameDemo 1 with src := 2, tc, payload := p }
theorem wit_TransactionTags : (∃ g, (meshDemo 1).submitCheck 1 = .ok g) ∧ (∃ g, (meshDemo 0xFFF).submitCheck 1 = .ok g) ∧ (demo .A).nodeValid = false ∧
    (∃ r, ((meshDemo 1).setReg (Reg.txnArg 1) 1).submitCheck 1 = .error r) ∧ field (0x00003F02 : Word) 0 4 = 2 ∧
    (let s := (meshDemo 1).modTag 63 fun _ => { sentTag with state := .done }; (s.mesh.tags[cmdTag 0x00003F02]).state = .done ∧ (s.mesh.tags[cmdTag 0x00003F02]).owner = 1) ∧
    (let s := ((meshDemo 1).modTag 63 fun _ => sentTag).modMesh fun m => { m with arrivals := [(none, answerDemo)] }
     s.us ≤ (s.mesh.tags[(63 : Tag)]).firstAt + 1500000 ∧ isAnswer answerDemo = true ∧ 12 ≤ answerDemo.payload.length ∧ s.mesh.matchTag answerDemo = some 63 ∧
       s.route 2 none ≠ .port 3) ∧ (meshDemo 1).mesh.matchTag answerDemo = none ∧
    (((meshDemo 1).setReg (Reg.rtRoute 0) 0xFFFFF38F).route 2 none) = .port 3 :=
  ⟨⟨0, by rfl⟩, ⟨0, by rfl⟩, by decide, ⟨_, rfl⟩, by decide, by decide, by decide, by decide, by decide⟩

theorem wit_TransactionAnswers : (let f := requestDemo [0x10, 0, 0, 0, 0, 0, 0, 1] (kindClass 1)
      let s := ((meshDemo 1).setReg Reg.txnRing 0x02000400).modMesh fun m => { m with arrivals := [(none, f)] }
      isRequest f = true ∧ requestBad f = false ∧ s.mesh.lookup 2 (commitId (wordOf f.payload)) = none ∧ s.mesh.takeEntry.isSome = true ∧ tunnelLine f = false ∧
        s.ringFull = false) ∧
    (let f := requestDemo [0x40, 0, 0, 0, 0, 0, 0, 1, 0x23] (kindClass 4); isRequest f = true ∧ requestBad f = false ∧ tunnelLine f = true) ∧
    (let f := requestDemo [0x70, 0] 0; isRequest f = false ∧ isAnswer f = false) ∧
    (let s := (meshDemo 1).modEnt 255 fun _ => { state := .pending, src := 2, key := 0x1000000000000001 }
     (s.mesh.cache[cmdEntry 0x00FF0004]).state = .pending ∧ field (0x00FF0004 : Word) 0 4 = 4 ∧ s.mesh.lookup 2 0x1000000000000001 = some 255 ∧
       answerArg 0x7FF40000 = (0x7F, 244) ∧ (s.setReg (Reg.txnAddr 1) (0x200000 - 244)).slotAddr 1 + 244 ≤ 0x200000) ∧
    (let s := (meshDemo 1).modMesh fun m => { m with wPend := true, wSrc := 2, wReq := [0x40, 0, 0, 0, 0, 0, 0, 1, 0x23] }
     tunnelAdmits s.narga.tunnel s.mesh.wSrc = true ∧ (∀ b ∈ s.mesh.wReq.drop 8, b ≠ 0x0D ∧ b ≠ 0x0A) ∧ (s.tunnelSession s.mesh.wSrc).isSome = true) ∧
    (let s := (meshDemo 1).setReg (Reg.txnArg 1) (BitVec.ofNat 32 (254 * 0x10000)); s.nodeValid = true ∧ s.slotLen 1 ≤ 254 ∧ s.slotAddr 1 + s.slotLen 1 ≤ 0x200000) :=
  ⟨by decide +kernel, by decide, by decide, by decide +kernel, by decide, by decide⟩

theorem wit_LinkAndRouteRegisters : (demo .A).takes .wellhead (Reg.usdCtrl 3) 0xE ∧ (demo .A).takes .wellhead (Reg.usdCtrl 3) ((demo .A).reg (Reg.usdCtrl 3) ||| 0x20) ∧
    field ((demo .A).reg (Reg.usdCtrl 3) ||| 0x20) 1 3 ≠ 0 ∧ ((demo .A).setReg (Reg.usdCtrl 3) 0x8000000E).takes .wellhead (Reg.usdXtest 3) 1 ∧
    ((demo .A).setReg (Reg.usdCtrl 3) 0x8000000E).usdEn 3 = false ∧ (demo .A).takes .wellhead Reg.rtNode 0x80000FFF ∧
    (demo .A).takes .wellhead (Reg.rtRoute 511) 0xF0123F00 :=
  ⟨takes_of rfl (by decide) (by decide) (by decide) (by decide) (by decide) (by decide), takes_of rfl (by decide) (by decide) (by decide) (by decide) (by decide) (by decide), by decide,
    takes_of rfl (by decide) (by decide) (by decide) (by decide) (by decide) (by decide), by decide, takes_of rfl (by decide) (by decide) (by decide) (by decide) (by decide) (by decide),
    takes_of rfl (by decide) (by decide) (by decide) (by decide) (by decide) (by decide)⟩

/-! ### Witnesses: Narga, Wellhead, power, side ports, registers -/

/-- Wellhead and Narga run. -/
def runDemo : State := (demo .A).modWell fun w => { w with running := true, logSeq := some 0 }
def lineDemo : NLine := { sess := 0, tag := some "a", check := 0, args := [], flaw := none }
theorem line_runs {s : State} {l : NLine} {b : Bool} (h : s.lineReaches l = true ∧ s.repeats l = false ∧ l.flaw = none ∧ (s.narga.sess[l.sess]).busy = false ∧
    (s.nargaWorks = false ∧ s.narga.waiting = []) ∧ s.narga.updateLock = false ∧ (b = true → (s.narga.sess[l.sess]).expert = true)) : LineRuns s l b := ⟨h.1, h.2.1, h.2.2.1, h.2.2.2.1, h.2.2.2.2.1, h.2.2.2.2.2.1, h.2.2.2.2.2.2⟩
/-- A typed line and a machine line on CON0, and a machine line of a tunnel session. -/
theorem demo_line : LineRuns runDemo { lineDemo with tag := none } false ∧ LineRuns runDemo lineDemo false ∧
    LineRuns (runDemo.modSess 8 fun z => { z with active := true }) { lineDemo with sess := 8 } false :=
  ⟨line_runs (by decide), line_runs (by decide), line_runs (by decide)⟩
theorem demo_expert : LineRuns (runDemo.modSess 0 fun z => { z with expert := true }) lineDemo true := line_runs (by decide)

theorem wit_NargaReports : LineRuns runDemo lineDemo false ∧ ((runDemo.verbsOf 0).find? fun y => decide (y.1 = "id")).isSome = true ∧ countOk none = true ∧
    runDemo.well.logSeq = some 0 ∧ runDemo.nvBad (healthSlot 0) 32 = false ∧ (∃ r, runDemo.imageCheck (.wfw false) = .error r) :=
  ⟨demo_line.2.1, by decide, by decide, by decide, by decide, ⟨1, by rfl⟩⟩

theorem wit_NargaTarnVerbs : LineRuns runDemo lineDemo false ∧ runDemo.power.entry = 0 ∧ runDemo.tarnOn = true ∧ bit (runDemo.reg (Reg.tmbRsp 4)) 31 = false ∧
    runDemo.groupInSession 1 = false ∧ runDemo.cnvStopped = false ∧ runDemo.tarn.logExp ≤ BitVec.ofNat 32 0 ∧ BitVec.ofNat 32 0 ≤ runDemo.tarn.logHead :=
  ⟨demo_line.2.1, by decide⟩

theorem wit_NargaSystemVerbs : LineRuns runDemo lineDemo false ∧ runDemo.takes .wellhead (Reg.usdCtrl 3) (runDemo.reg (Reg.usdCtrl 3) ||| 0x20) ∧
    field (runDemo.reg (Reg.usdCtrl 3) ||| 0x20) 1 3 ≠ 0 ∧ runDemo.takes .wellhead Reg.rtNode (BitVec.ofNat 32 (0x80000000 + 4095)) ∧ runDemo.tagsBusy = false ∧
    runDemo.takes .wellhead (Reg.rtRoute 511) 0x3FFFFFFF ∧ runDemo.routeOk 511 0x3FFFFFFF = true ∧ 4095 ≠ runDemo.nodeId.toNat ∧
    runDemo.takes .wellhead Reg.pwrReq 1 ∧ runDemo.anySession = false ∧ runDemo.ladderRefusal 1 = none ∧ runDemo.someCoreRuns = true ∧ runDemo.bgCount < 2 ∧
    runDemo.well.appPend = false ∧ runDemo.power.stage = .released ∧ runDemo.power.pfail = false ∧ runDemo.coreSpent 3 = false ∧
    runDemo.unitFault 0x60 = false ∧ (unitOf runDemo 0x60).health ≠ .failed :=
  ⟨demo_line.2.1, takes_of rfl (by decide) (by decide) (by decide) (by decide) (by decide) (by decide), by decide,
    takes_of rfl (by decide) (by decide) (by decide) (by decide) (by decide) (by decide), by decide +kernel, takes_of rfl (by decide) (by decide) (by decide) (by decide) (by decide) (by decide),
    by decide, by decide, takes_of rfl (by decide) (by decide) (by decide) (by decide) (by decide) (by decide), by decide, by decide, by decide, by decide, by decide, by decide,
    by decide, by decide, by decide, by decide⟩

theorem wit_NargaExpertVerbs : (let s := ((runDemo.setReg (Reg.usdCtrl 3) 0xE).modSess 0 fun z => { z with expert := true }).modChan 7 fun c => { c with legal := .out, sess := .none }
    LineRuns s lineDemo true ∧ s.answers .wellhead (Reg.ceXscrub 7) = true ∧ s.answers .wellhead (Reg.ceXinj 7) = true ∧ (s.chan 7).legal = .out ∧ s.groupInSession 1 = false ∧
      s.answers .wellhead (Reg.cnvXraw 1) = true ∧ s.answers .wellhead (Reg.usdXtest 3) = true ∧ s.usdEn 3 = false ∧ (s.port 3).state = .dry) ∧
    LineRuns runDemo lineDemo false ∧ (runDemo.narga.sess[lineDemo.sess]).expert = false := ⟨⟨line_runs (by decide), by decide⟩, demo_line.2.1, by decide⟩

theorem wit_NargaLinesAndSessions : runDemo.wellheadRuns = true ∧ (runDemo.modNarga fun n => { n with typed := [0x61] }).narga.typed.head? ≠ some 0x23 ∧
    runDemo.lineReaches lineDemo = true ∧ (runDemo.modSess 0 fun z => { z with lastTag := some ("a", 0) }).repeats lineDemo = true ∧
    (let s := runDemo.modNarga fun n => { n with jobs := [.slot 0 none (.reload 7 true)] }
     s.narga.jobs = [.slot 0 none (.reload 7 true)] ∧ bit (s.reg (Reg.tmbRsp 4)) 31 = false) ∧ (runDemo.narga.sess[(8 : Session)]).busy = false := by decide

theorem wit_WellheadMonitors : (runDemo.well.sensors[sensorIndex .hold]).bad = false ∧ tamperBits runDemo.tarn ≠ 0x0F ∧
    (let n : HealthNotice := { unit := 0x60, health := .failed, perm := false, event := 0x0740, recover := false }
     let s := runDemo.modWell fun w => { w with notices := [n] }; s.well.notices = [n] ∧ healthAllowed (unitOf s 0x60) n = true ∧ s.well.causes = []) ∧
    (let n : HealthNotice := { unit := 0x60, health := .worn, perm := false, event := 0x0741, recover := true }
     let s := (runDemo.modWell fun w => { w with units := [(0x60, { health := .failed })], causes := [(.unit 0x60, 0x0740)], notices := [n] })
     healthAllowed (unitOf s 0x60) n = true ∧ (unitOf s 0x60).health = .failed ∧ s.well.causes = [(.unit 0x60, 0x0740)]) ∧
    (runDemo.setReg Reg.wmbCtrl 0x80000000).takes .wellhead Reg.wmbXpin 1 :=
  ⟨by decide, by decide, by decide, by decide, takes_of rfl (by decide) (by decide) (by decide) (by decide) (by decide) (by decide)⟩

theorem wit_WellheadMonitors_limits : (let x : SensorSt := { limits := #v[{}, { beyond := 1 }, {}, {}] }; let row := sensorRow .vin x
      x.bad = false ∧ row.limits[(1 : Fin 4)] = some 32000 ∧ row.beyond 1 32000 32001 = true ∧ row.beyond 1 32000 32000 = false ∧
        row.inside 1 32000 31800 = true ∧ row.inside 1 32000 31801 = false ∧ (x.limitAfter row 32001 1).2 = some true) ∧
    (let s := runDemo.modWell fun w => { w with release := some (0x0740, 5) }
     ({ s with us := 10005 } : State).wellheadRuns = true ∧ s.well.causes = [] ∧ s.well.release = some (0x0740, 5)) := by decide

theorem wit_WellheadExchangeAndStarts : runDemo.takes (.lc 3 0 true) Reg.wmbAput 0x000000DC ∧ field (0x000000DC : Word) 0 8 = 220 ∧
    (let s := (runDemo.setReg (Reg.wmbAline 0) 0x30204B4F).setReg (Reg.wmbAline 1) 0x3030
     let t := s.modWell fun w => { w with appPend := true, appReady := true, appPut := some 0x106 }
     t.well.appPut = some 0x106 ∧ t.wellheadRuns = true ∧ printable (t.appLine 6) = true ∧ startsWithCode (t.appLine 6) = true ∧ bit (0x106 : Word) 8 = true) ∧
    (runDemo.modWell fun w => { w with restarting := true }).well.restarting = true ∧
    (let s := (demo .A).modPower fun p => { p with stage := .spring, slotsRun := p.slotsRun.set 0 (some true) }
     s.power.stage = .spring ∧ s.power.slotsRun[(0 : Fin 3)] = some true) :=
  ⟨takes_of rfl (by decide) (by decide) (by decide) (by decide) (by decide) (by decide), by decide, by decide, by decide, by decide⟩

theorem wit_Updates : runDemo.tarnOn = true ∧ runDemo.power.stage = .released ∧ runDemo.tarn.tfwInstall = none ∧ runDemo.power.trialBroken = false ∧
    ((runDemo.modTarn fun t => { t with tfwInstall := some [] }).tarn.tfwInstall = some []) ∧
    ((((runDemo.modQspi fun q => { q with ready := true, sfdp := true }).writeDirectory fun v => v.set 2 { active := true, state := 1, tries := 3 }).directory.entries[(2 : Fin 3)]).state = 1) := by decide +kernel

theorem wit_PowerLadder : runDemo.takes .wellhead Reg.pwrReq 5 ∧ runDemo.power.entry = 0 ∧ runDemo.ladderRefusal 1 = none ∧ (runDemo.setReg Reg.pwrWakeen 0).ladderRefusal 5 = some 6 ∧
    (let s := runDemo.modPower fun p => { p with pend := 5, entry := 5 }; let t := s.setReg Reg.pwrWakeen 1
     t.power.pend ≠ 0 ∧ t.ladderRefusal t.power.pend = none ∧ 6 ≤ stepsTo t.power.pend ∧ t.power.waking = none ∧ bit (t.reg Reg.pwrWakeen) 0 = true) ∧
    (let s := (runDemo.modCtx 0 0 fun x => { x with state := .stopped }).modPower fun p => { p with pend := 1 }
     s.coresQuiet = true ∧ s.power.entry = 0 ∧ 1 ≤ stepsTo s.power.pend ∧ s.cnvsIdle = true) ∧
    (let s := runDemo.modPower fun p => { p with entry := 7, ps := 5, waking := some (.waken, 5) }; s.power.waking = some (.waken, 5) ∧ 7 ≤ s.power.entry) :=
  ⟨takes_of rfl (by decide) (by decide) (by decide) (by decide) (by decide) (by decide), by decide +kernel, by decide +kernel, by decide +kernel, by decide +kernel, by decide +kernel, by decide +kernel⟩

theorem wit_ClockEvents : (demo .A).power.stage ≠ .off ∧ (demo .A).power.entry < 4 ∧ ((demo .A).modPower fun p => { p with cpll := false }).power.cpll = false ∧
    ((demo .A).modPower fun p => { p with spllOnce := true }).power.spllOnce = true ∧ (demo .A).power.xin = true ∧ (demo .A).resettable = true ∧
    ((demo .A).modPower fun p => { p with xin := false, fovr := true }).power.fovr = true ∧ ((demo .A).modPower fun p => { p with xrtc := false }).power.xrtc = false ∧
    (demo .A).power.rco = true ∧ (demo .A).power.eclkStopped = false ∧ ((demo .A).setReg (ctrlOf Reg.clkXforce) 0x80000000).takes .wellhead Reg.clkXforce 3 ∧
    (demo .A).anySession = false :=
  ⟨by decide, by decide, by decide, by decide, by decide, by decide, by decide, by decide, by decide, by decide,
    takes_of rfl (by decide) (by decide) (by decide) (by decide) (by decide) (by decide), by decide⟩

theorem wit_StartsAndPowerFail : State.reset.power.stage = .off ∧ State.reset.power.holdRun = false ∧
    (let s := (demo .A).modPower fun p => { p with stage := .tarn, spll := true, xin := false }
     s.power.stage = .tarn ∧ s.power.spllOnce = false ∧ s.power.resetLow = false ∧ s.power.pfail = false ∧ s.power.boot.toNat < 2 ∧ s.tarnOn = true) ∧
    (let s := (demo .A).modPower fun p => { p with stage := .wellhead, imageOk := true }; let t := s.modNvla fun n => { n with tested := true }
     t.power.stage = .wellhead ∧ t.power.boot = 0 ∧ t.power.imageOk = true ∧ t.tarnReady = true ∧ t.nvla.tested = true) ∧
    ((demo .A).resettable = true ∧ ∀ c : Core, ((demo .A).core c).buf = []) ∧
    (let s := (demo .A).modNarga fun n => { n with resetCore := some 3 }; s.narga.resetCore = some 3 ∧ s.power.stage = .released ∧ s.coreSpent 3 = false) ∧
    (let s := (demo .A).modPower fun p => { p with entry := 6 }; 3 ≤ s.power.entry ∧ s.power.entry < 7 ∧ s.power.pfail = false) ∧
    (let s := ((demo .A).modPower fun p => { p with pfail := true }).modNvla fun n => { n with grace := true }; s.power.pfail = true ∧ s.nvla.grace = true) := by decide

theorem wit_SidePorts : (let s := ((demo .A).setReg (Reg.conCfg 1) 0x14000000).modUart 1 fun x => { x with de := true, rx := List.replicate 63 { b := 0, fe := false, pe := false, brk := false } }
      s.bankDrives 1 = true ∧ (s.modPower fun p => { p with vioMilli := p.vioMilli.set 1 1981 }).bankDrives 1 = false ∧
      bit (s.conCfg 1) 26 = true ∧ (s.side.uarts[(1 : Uart)]).de = true ∧ bit (s.conCfg 1) 28 = true ∧ (s.side.uarts[(1 : Uart)]).rx.length < 64) ∧
    (demo .A).answers .wellhead (Reg.conRxd 0) = true ∧ (demo .A).answers (.lc 0 0 true) (Reg.iicRdata 1) = true ∧ (demo .A).takes .wellhead (Reg.conTxd 1) 0xFF ∧
    (let x := ((demo .A).modUart 1 fun x => { x with de := true, lead := true, tx := [1] }).side.uarts[(1 : Uart)]; x.lead = true ∧ x.sending = none ∧ x.tx = [1]) ∧
    (let s := ((demo .A).setReg (Reg.iicCfg 1) 8).modIic 1 fun x => { x with wfifo := List.replicate 32 0 }
     s.takes .wellhead (Reg.iicXfer 1) (BitVec.ofNat 32 (32 * 2 ^ 17 + 32 * 2 ^ 11 + 127)) ∧ bit (s.iicCfg 1) 3 = true ∧ (s.side.iics[(1 : Iic)]).busy = false ∧
       (s.side.iics[(1 : Iic)]).clearing = false ∧ (s.side.iics[(1 : Iic)]).stuck = false ∧ (s.side.iics[(1 : Iic)]).wfifo.length = 32) ∧
    (((demo .A).setReg (Reg.iicCfg 1) 4).modIic 1 fun x => { x with busy := true }).side.iics[(1 : Iic)].busy = true ∧ (demo .A).takes .wellhead (Reg.iicCmd 1) 2 ∧
    (demo .A).takes .wellhead (Reg.iicCfg 1) 8 ∧ (demo .A).takes .wellhead (Reg.iicWdata 1) 0xFF ∧ (demo .A).takes (.lc 0 0 true) Reg.qspiOp 0x01000001 ∧
    (demo .A).power.boot.toNat < 2 ∧ (demo .A).takes .wellhead Reg.gpSet 0x8000 ∧ (demo .A).takes .wellhead Reg.gpClr 0x8000 :=
  ⟨by decide, by decide, by decide, takes_of rfl (by decide) (by decide) (by decide) (by decide) (by decide) (by decide), by decide,
    ⟨takes_of rfl (by decide) (by decide) (by decide) (by decide) (by decide) (by decide), by decide⟩, by decide,
    takes_of rfl (by decide) (by decide) (by decide) (by decide) (by decide) (by decide), takes_of rfl (by decide) (by decide) (by decide) (by decide) (by decide) (by decide),
    takes_of rfl (by decide) (by decide) (by decide) (by decide) (by decide) (by decide), takes_of rfl (by decide) (by decide) (by decide) (by decide) (by decide) (by decide), by decide,
    takes_of rfl (by decide) (by decide) (by decide) (by decide) (by decide) (by decide), takes_of rfl (by decide) (by decide) (by decide) (by decide) (by decide) (by decide)⟩

theorem wit_TestAccessAndTimers : (let s := (demo .A).modTarn fun t => { t with debugLeft := 1 }; s.debugOn = true ∧ s.tarn.debugLeft ≠ 0 ∧ (s.core 0).core = .run ∧
      s.readError .test 0x06000000 .half ≠ none ∧ s.writeError .test 0x06000000 .byte ≠ none) ∧ (demo .A).debugOn = false ∧
    (demo .A).takes .wellhead (Reg.tmrCfg 1) 3 ∧ (let s := (demo .A).setReg (Reg.tmrCfg 1) 3; s.timersRun = true ∧ bit (s.reg (Reg.tmrCfg 1)) 0 = true) ∧
    bit (((demo .A).setReg Reg.rtcActl 1).reg Reg.rtcActl) 0 = true ∧
    (let s := (chanDemo .isIn .open).modEng 7 fun e => { e with runst := .run }; s.den 7 = true) :=
  ⟨by decide, by decide, takes_of rfl (by decide) (by decide) (by decide) (by decide) (by decide) (by decide), by decide, by decide, by decide⟩

theorem wit_RegisterAccess : (let m := Master.lc 3 15 false; region (Reg.sysStat + 2) = .dev ∧ (demo .A).answers m Reg.sysStat = true ∧ widthOk m Reg.sysStat .half = true ∧
      widthOk m (Reg.sysStat + 3) .byte = true ∧ (demo .A).writeError m (Reg.sysStat + 2) .half = none) ∧
    (∃ k, (demo .A).readError (.lc 0 0 false) 0x06000000 .byte = some k) ∧ (∃ k, (demo .A).writeError (.lc 0 0 false) 0x06000000 .byte = some k ∧ k ≠ 1) ∧
    (demo .A).takes .wellhead Reg.sysStat 0x0000011F :=
  ⟨by decide, ⟨_, rfl⟩, ⟨_, rfl, by decide⟩, takes_of rfl (by decide) (by decide) (by decide) (by decide) (by decide) (by decide)⟩

/-- Two commands wait; the first runs, the second stays. -/
theorem wit_StepRunsFront : ({ State.reset with pending := [.nop 0 .A, .nop 1 .A] } : State).pending = .nop 0 .A :: [.nop 1 .A] := rfl
theorem wit_StepKeepsCanonical : State.reset.Canonical := ⟨by decide, by decide⟩
theorem wit_CommitsLeaveTotalizers : ∀ n, (State.reset.eng n).incs = [] := by decide

/-! ### Well-formed commands, and one that each check refuses -/

theorem test_wellformed : (Instr.snapshotRead (.lc 0 0 true) 0x04000002 .half).wf = true ∧ (Instr.stagedWrite .wellhead 0x04000000 .word 1).wf = false ∧
    (Instr.commit (.lc 0 0 true) 0x04000003 .byte 0xFF).wf = true ∧ (Instr.tmbOpen 0 0x00000701).wf = true ∧ (Instr.dataFrame 0 (frameDemo typeData)).wf = true := by
  decide
theorem test_ill_access : (Instr.snapshotRead (.lc 0 0 true) 0x04000000 .word).wf = false ∧ (Instr.snapshotRead .wellhead 0x100000000 .word).wf = false ∧
    (Instr.snapshotRead (.lc 0 0 true) 0x04000001 .half).wf = false ∧ (Instr.stagedWrite (.lc 0 0 true) 0x04000000 .byte 0x100).wf = false ∧
    (Instr.stagedWrite (.lc 0 0 true) 0x04000003 .byte 1).wf = false ∧ (Instr.commit (.lc 0 0 true) 0x04000000 .half 1).wf = false ∧
    (Instr.commit .test 0x04000000 .word 1).wf = false := by decide
theorem test_ill_mailbox : (Instr.tmbOpen 0 2).wf = false ∧ (Instr.freeze 0 1).wf = false ∧ (Instr.sign 0 2).wf = false ∧ (Instr.setout 0 5).wf = false ∧
    (Instr.reeval 0 4).wf = false ∧ (Instr.nonce 0 7).wf = false ∧ (Instr.logack 0 9).wf = false ∧ (Instr.reload 0 8).wf = false ∧
    (Instr.timeset 0 9).wf = false ∧ (Instr.tmbReservedCode 0 10).wf = false ∧ (Instr.enrollKey 0 6).wf = false ∧ (Instr.revokeKey 0 6).wf = false ∧
    (Instr.setConstants 0 6).wf = false ∧ (Instr.setCnvFactors 0 6).wf = false ∧ (Instr.channelIn 0 6).wf = false ∧ (Instr.channelSealedOut 0 6).wf = false ∧
    (Instr.clearTamper 0 6).wf = false ∧ (Instr.debugEnable 0 6).wf = false ∧ (Instr.signedReservedType 0 6).wf = false := by decide
theorem test_ill_operands : (Instr.urgentArrival 0 (.engine 7 0)).wf = false ∧ (Instr.calConversionDone 0 [0]).wf = false ∧
    (Instr.undefinedOpcode 0 .A 0x00 0).wf = false ∧ (Instr.undefinedOpcode 0 .S 0xFF 1).wf = false ∧ (Instr.emulationCall 0 .S 1).wf = false ∧
    (Instr.nargaErase 0x41).wf = false ∧ (Instr.nargaXregRead lineDemo 0x100000000).wf = false ∧ (Instr.nargaXregWrite lineDemo 0 0x100000000).wf = false ∧
    (Instr.remapDone 2048).wf = false := by decide
theorem test_ill_frames : (∀ i ∈ [Instr.dataFrame 0, .bcastFrame 0, .ackFrame 0, .nakFrame 0, .creditFrame 0, .holdFrame 0, .goFrame 0, .trainInFlow 0,
      .violationFrame 0, .idleFrame 0], (i (frameDemo 0)).wf = false) ∧ (Instr.reservedTypeFrame 0 (frameDemo typeAck)).wf = false ∧
    (Instr.dataFrame 0 { frameDemo typeData with len := 1 }).wf = false ∧ (Instr.reservedTypeFrame 0 { frameDemo 15 with len := 1 }).wf = false := by
  refine ⟨?_, by decide, by decide, by decide⟩
  intro i hi; simp only [List.mem_cons, List.not_mem_nil, or_false] at hi
  obtain rfl | rfl | rfl | rfl | rfl | rfl | rfl | rfl | rfl | rfl := hi <;> decide

/-! ### Worked examples -/

/-- What a property says of the state a command leaves. -/
def After (i : Instr) (s : State) (f : State → Prop) : Prop := ∃ t, exec i s = .next t ∧ f t

/-- R539 and Example 15.1: the line `#7 id` and, as is well known of CRC-16/CCITT-FALSE, the nine digits. -/
theorem test_crc16 : crc16 (asciiBytes "#7 id") = 0x91F8 ∧ crc16 (asciiBytes "123456789") = 0x29B1 := by decide +kernel
/-- The CRC-32 of the nine digits (log 10). -/
theorem test_crc32 : crc32 (asciiBytes "123456789") = 0xCBF43926 := by decide +kernel
/-- FIPS 180-4: SHA-256 of "abc". -/
theorem test_sha256 : (sha256 (asciiBytes "abc")).take 8 = [0xBA, 0x78, 0x16, 0xBF, 0x8F, 0x01, 0xCF, 0xEA] := by decide +kernel
/-- Example 22.1: IRQ_FI0 of LC2, context 5. -/
theorem test_faultinfo_address : Reg.irqFi 2 5 0 = 0x040C06A0 ∧ Reg.irqFi 2 5 4 = 0x040C06B0 := by decide
/-- Example 2.1: byte +3 of CNVA STAT written with 80h clears RESW alone. -/
theorem test_clear_resw : After (.commit (.lc 0 0 true) 0x04050007 .byte 0x80) ((((demo .A).setReg 0x04050004 0x80000018).modCnv 0 fun c => { c with state := .ready }))
    fun t => t.liveWord .wellhead 0x04050004 = 0x08000018 := ⟨_, rfl, by decide +kernel⟩
/-- Example 12.1: NVL_HOLD of a capacitor that loses 1.150 V, and GMAX with GROUPS 4. -/
theorem test_nvl_hold : After (.dischargeTest true 1150) ((demo .A).setReg Reg.nvlCtrl 4)
    fun t => t.liveWord .wellhead Reg.nvlHold = 0x01C6030E ∧ t.nvla.gmax = 2 ∧ t.nvla.holdOk = true := ⟨_, rfl, by decide +kernel⟩
/-- Example 13.2: the headroom of a round trip of 1.24 µs at 2.5 Gbaud. -/
theorem test_headroom : headroomOf 1240 3 = 838 := by decide
/-- Example 4.1: a quantum of 3600 J comes off the accumulator, and its product. -/
theorem test_msu : ((alu 0xE 0x0036EE80 0x000F4240 0 false false 0x00000346_30B8A000).acc).map (·.1) = some 0 := by decide
/-- Example 7.1: with CD clear ADDCM adds 25h to F0h; the byte stored is 15h and CD becomes 1. -/
theorem test_addcm : After (.addcm 0 (.absX 0x20FF))
    ((demoMem .A 0x2100 [0xF0]).modCtx 0 0 fun x => { x with regs := { x.regs with a := 0x25, x := 1, ctx := 0x8000 } })
    fun t => bufByte (t.core 0).buf 0x2100 = some 0x15 ∧ (t.regsOf 0).ctx = 0x8001 := ⟨_, rfl, by decide +kernel⟩
/-- Example 8.1, with X, Y, L and the source's last bytes before 502Eh. -/
def saleDemo (x y l : Half) (d : List Byte) : State := (demoMem .A (0x502E - d.length) d).modCtx 0 0 fun c => { c with regs := { c.regs with a := 0x20, x, y, l } }
/-- DSHR right 5, round 5: 765, CD 9. -/
theorem test_dshr : After (.dshr 0 0xD5 0xFB) (saleDemo 0x5020 0 0 [0x07, 0x64, 0x92, 0x80, 0x0C])
    fun t => bufByte (t.core 0).buf 0x502D = some 0x5C ∧ bufByte (t.core 0).buf 0x502C = some 0x76 ∧ (t.regsOf 0).ctx = 0x8009 := ⟨_, rfl, by decide +kernel⟩
/-- DLD from 14 bytes to 8. -/
theorem test_dld : After (.dld 0 0x7D) (saleDemo 0x5040 0x5020 0 [0x76, 0x5C]) fun t => bufByte (t.core 0).buf 0x5046 = some 0x76 ∧
    bufByte (t.core 0).buf 0x5047 = some 0x5C ∧ bufByte (t.core 0).buf 0x5040 = some 0 := ⟨_, rfl, by decide +kernel⟩
/-- EDT of the 10-byte pattern: the output bytes, and X, Y, L and A at the end. -/
theorem test_edt : After (.edt 0 none) ((saleDemo 0x5100 0x5044 0x000A []).setBytes 0x5044 [0, 0, 0x76, 0x5C] |>.setBytes 0x5100 [1, 1, 0x2C, 1, 1, 2, 0x2E, 1, 1, 4])
    fun t => ((List.range 10).map fun i => (bufByte (t.core 0).buf (0x5100 + i)).getD (t.byte (0x5100 + i))) = [0x20, 0x20, 0x20, 0x20, 0x20, 0x37, 0x2E, 0x36, 0x35, 0x20] ∧
      (t.regsOf 0).x = 0x510A ∧ (t.regsOf 0).y = 0x5048 ∧ (t.regsOf 0).l = 0 ∧ (t.regsOf 0).a = 0x20 := ⟨_, rfl, by decide +kernel⟩

/-- Example 10.1 on core 0, context 0, with descriptors 0 to 3 not valid, and the code in a user block of its own frame 0, KEY 3: the load walks to descriptor 4, and ACC is set in frame 147. -/
def walkDemo : State :=
  let s := ((demo .A).setReg (Reg.pbrL 0 0 0) 0x1F030000).setReg (Reg.xltKey 0) 0x3A
  let s := ((s.setReg (Reg.bdtb 0 0) 0x00012000).setReg (Reg.bdtn 0 0) 6).setReg (Reg.xltKey 36) 0x3A000000
  ((s.setBytes 0x12040 [0x00, 0x68, 0x03, 0x4F, 0x00, 0x98, 0x04, 0x00]).setBytes 0x49A40 [0x77]).modCtx 0 0 fun c =>
    { c with regs := { c.regs with ctx := 0x0C00 } }
theorem test_walk : After (.lda 0 (.abs 0x6A40)) walkDemo fun t => (t.regsOf 0).a = 0x77 ∧ t.reg (Reg.xltKey 36) = 0x3B000000 ∧ (t.regsOf 0).pc = 0x0103 :=
  ⟨_, rfl, by decide +kernel⟩
/-- A store from KEY 5 to the same byte: EC 08h, and what FAULTINFO carries. -/
theorem test_foreign_write : After (.sta 0 (.abs 0x6A40)) ((walkDemo.setReg (Reg.xltKey 0) 0x52).modCtx 0 0 fun c => { c with regs := { c.regs with ctx := 0x1400 } })
    fun t => t.reg (Reg.irqFi 0 0 0) = 0x6A401008 ∧ t.reg (Reg.irqFi 0 0 3) = 0x00049A40 ∧ t.reg (Reg.irqFi 0 0 4) = 0x0000053A := ⟨_, rfl, by decide +kernel⟩
/-- Table 20.7: IDCODE. -/
theorem test_idcode : After .tapReset (demo .A) fun t => t.tapCapture = some 0x1B80854B := ⟨_, rfl, by decide⟩

/-! ### Pins (R711, R732) -/

/-- GP0 driven low reads 0 whatever stands there; GP1, an input, reads what stands there. -/
theorem test_gp_driven : (((demo .A).setReg Reg.gpDir 1).modSide fun x => { x with gpIn := 3 }).gpLevels = 2 := by decide
theorem test_mpo_active_low : ((demo .A).modChan 0 fun c => { c with mpo := .pulse, mpoCfg := 0 }).mpoPin 0 = .low := by decide

/-! ### Witnesses of clauses on commands that wait, pairs, links and lines -/

/-- A RELOAD of engine 7 is under way. -/
def reloadDemo : State := (demo .A).modTarn fun t => { t with reload := some { slot := 0, tag := 0x5A, chan := 7, addr := mcodeCopy 7 true, verified := false } }
theorem wit_reload_waits : reloadDemo.tarnOn = true ∧ reloadDemo.tarn.reload.isSome = true ∧ bit (reloadDemo.reg (Reg.tmbRsp 1)) 31 = false ∧
    reloadDemo.power.entry = 0 ∧ field (cmdOf 2) 0 8 = 2 ∧ (reloadDemo.eng 7).checking = false ∧ (reloadDemo.eng 7).storeGood = true ∧
    (let s := (demo .A).modEng 7 fun e => { e with checking := true }; (s.eng 7).checking = true ∧ (s.eng 7).storeGood = true) ∧
    (engDemo (fun e => { e with checking := true }) 0 1 |>.eng 7).storeGood = false := by decide +kernel
theorem wit_tarn_losses : let s := (demo .A).modTarn fun t => { t with running := false, losses := [.deviceKey, .channel 3] }
    s.tarnOn = false ∧ s.power.stage ≠ .off ∧ .deviceKey ∈ s.tarn.losses ∧ .channel 3 ∈ s.tarn.losses := by decide

/-- A later lookup of an instruction is where an event abandons it; nothing is the first of a pair. -/
theorem wit_abandoned : let s := (demo .A).abandoned 0 []; (demo .A).midPair 0 = false ∧ ((demo .A).core 0).head = none ∧ s.settled 0 ∧
    s.vector 0 0 0x3C 0 0 := ⟨by decide, by decide, ⟨by decide, by decide, by decide⟩, by decide, _, rfl, by decide, by decide, by decide, by decide, by decide, by decide⟩
/-- A load and a store that wait, and how they were read. -/
theorem wit_held : let s := (demo .A).modCore 0 fun x => { x with held := some { form := .A, bytes := [0x01, 0, 3] } }
    (s.core 0).held = some { form := .A, bytes := [0x01, lowByte 0x0300, highByte 0x0300] } ∧ s.canRun 0 = true ∧ (s.core 0).buf.length < 4 ∧
    (heldOp .A [0x01, 0, 3]).isSome = true ∧ (heldOp .A [0x09, 0, 3]).isSome = true := by decide

/-- The TDAC as source of an entry that samples, code 3FFh and attenuation 5, and its injection into the positive line of input 0. -/
theorem wit_tdac : let s := cnvDemo fun c => { c with work := some (.urgent 12 0, false), cap := { c.cap with tdac := 0x17FF } }
    (s.cnv 1).sampling = some 12 ∧ field (s.cnv 1).cap.tdac 10 3 ≤ 5 ∧ ((cnvDemo id).cnv 1).sampling = none := by decide
theorem wit_surge_level : let r := ((cnvDemo id).setReg (Reg.cnvSurge 1) 0xFFD).reg (Reg.cnvSurge 1)
    bit r 3 = true ∧ field r 0 3 = (5 : Fin 8).val ∧ field r 4 8 * 256 ≤ (-65280 : Int).natAbs ∧ (65279 : Int).natAbs < field r 4 8 * 256 := by decide

/-- The header of a TRAIN frame of 32 bytes. -/
def trainHead : BitVec 64 := BitVec.ofNat 64 (beNat (headerBytes { frameDemo typeTrain with len := 32 }))
theorem wit_TrainTaken : TrainTaken (portDemo fun x => { x with state := .fill, rate := 1 }) 3 1 trainHead offerDemo ∧
    (∀ sub ∈ [(3 : Nat), 4, 5], TrainTaken (portDemo fun x => { x with state := .level, rate := 1, partner := { node := 2 }, stamps := [0] }) 3 sub trainHead (trainDemo (BitVec.ofNat 8 sub) id)) ∧
    TrainTaken (portDemo fun x => { x with state := .level, rate := 1, partner := { node := 2 } }) 3 2 trainHead paramDemo :=
  ⟨⟨by decide +kernel, by decide +kernel, by decide +kernel⟩,
    fun sub h => by
      simp only [List.mem_cons, List.not_mem_nil, or_false] at h
      obtain rfl | rfl | rfl := h <;> exact ⟨by decide +kernel, by decide +kernel, by decide +kernel⟩,
    ⟨by decide +kernel, by decide +kernel, by decide +kernel⟩⟩
/-- An own OFFER with SEEN that waits, and one that PARAM's flaws refuse. -/
theorem wit_train_waiting : (let f := plainFrame typeTrain 0 0 offerDemo.toList
      f.type = typeTrain ∧ f.payload.head? = some 1 ∧ f.payload.getD 5 0 = 1) ∧ trainFlaws 1 2 (portDemo id |>.port 3) (trainDemo 2 id) ≠ [] := by decide +kernel
/-- Sixteen codes outside the tables lose the signal; one makes a bad frame. -/
theorem wit_bad_codes : let x := (flowDemo false).port 3; let many := List.replicate 16 (0 : BitVec 10)
    x.framed = true ∧ readFrame (readCodes x.rxPlus many).1 = none ∧ (x.heardCodes many).signalLost = true ∧ (x.heardCodes [0]).signalLost = false ∧
    readFrame (readCodes x.rxPlus [0]).1 = none := by decide +kernel

/-- A command of session 0 that Tarn has to answer keeps the next line waiting. -/
theorem wit_line_waits : let s := runDemo.modNarga fun n => { n with jobs := [.slot 1 none (.reload 7 false)] }
    s.nargaWorks = true ∧ (s.narga.sess[lineDemo.sess]).busy = false ∧ s.narga.updateLock = false ∧ s.narga.waiting.length < 8 := by decide
theorem wit_lines_read : (∃ b ∈ [(0x07 : Byte)], lineByte b = false) ∧
    (∀ b ∈ [(0x20 : Byte), 9], b = 0x20 ∨ b = 9) := by decide
theorem wit_release : let s := (demo .A).modPower fun p => { p with stage := .wellhead, imageOk := true }
    ∀ n, (s.eng n).checking = false := by decide
theorem wit_torn : let s := ((demo .A).modPower fun p => { p with pfail := true }).modNvla fun n => { n with closing := [2] }
    s.power.pfail = true ∧ s.power.stage ≠ .off ∧ s.power.entry < 7 ∧ s.nvla.closing = [2] := by decide
theorem wit_cancel : let s := runDemo.modPower fun p => { p with pend := 2, entry := 5 }
    s.takes .wellhead Reg.pwrReq 0 ∧ 1 ≤ s.power.entry ∧ s.power.entry ≤ 5 ∧ s.power.waking = none :=
  ⟨takes_of rfl (by decide) (by decide) (by decide) (by decide) (by decide) (by decide), by decide, by decide, by decide⟩

/-! ### How lines are read (R533 to R541, R544, Example 15.1) -/

/-- What a line spells: its tag, its check, its flaw and its verb. -/
def spelled (text : String) : Option (Option String × Half × Option LineFlaw × NVerb) :=
  (readLine 0 false (asciiBytes text)).map fun x => (x.1.tag, x.1.check, x.1.flaw, x.2)
theorem test_read_example : spelled "#7 id *91F8" = some (some "7", 0x91F8, none, .id) := by decide +kernel
theorem test_read_bad_check : (spelled "#7 id *91F9").map (·.2.2.1) = some (some .badCheck) := by decide +kernel
theorem test_read_case_and_tabs : (spelled "  CH  2\tReload ").map (·.2.2) = some (none, .chReload 2) := by decide +kernel
theorem test_read_numbers : (readNumber "1_000", readNumber "0ffh", readNumber "101b", readNumber "1__0") = (some 1000, some 255, some 5, none) := by decide +kernel
theorem test_read_flaws : (spelled "ch 2 fly").map (·.2.2.1) = some (some .badNoun) ∧ (spelled "pwr go").map (·.2.2.1) = some (some .badCount) ∧
    (spelled "ch 2x").map (·.2.2.1) = some (some .badNumber) ∧ (spelled "frob").map (·.2.2.2) = some .unknownVerb := by decide +kernel
/-- The first second of the year 2000's second month. -/
theorem test_read_time : readTime "2000-02-01t00:00:01z" = some 2678401 := by decide +kernel
/-- Table 13.1: a frame's symbols come back from its codes with either disparity (R452, R464). -/
theorem test_frame_codes : ∀ plus : Bool, readFrame (readCodes plus (sendCodes plus (frameSyms answerDemo)).1).1 = some answerDemo := by decide +kernel

end Sys2Proof.Tests
end

section
/-! SUPPORT. The laws of register access (R30 to R44): what a read and a write of a device register do to the holders and the register
file, what a commit leaves in a register of SYS, and what a bus error captures. -/

namespace Sys2Proof.Machine

variable {s : State}

/-! ### What leaves the holders unchanged -/

theorem setBytes_holders (s : State) (a : Nat) (l : List Byte) : (s.setBytes a l).holders = s.holders := by
  rw [State.setBytes_rest]

theorem healthPut_holders (s : State) (code sev unit : Nat) (data : List Byte) : (s.healthPut code sev unit data).holders = s.holders := by
  dsimp only [State.healthPut]
  rw [apply_ite State.holders, State.setBits_holders, ite_self, State.modWell_holders, setBytes_holders]

theorem healthSlotLost_holders (s : State) (code sev unit : Nat) (data : List Byte) :
    (s.healthSlotLost code sev unit data).holders = s.holders := by
  rw [State.healthSlotLost, State.modNvla_holders, State.modWell_holders, setBytes_holders]

theorem remapStart_holders {log : State → State} (h : ∀ s, (log s).holders = s.holders) (s : State) (block reason : Nat) :
    (s.remapStart log block reason).holders = s.holders := by
  unfold State.remapStart
  split_ifs
  · rfl
  · exact h s
  · rfl

theorem wearBy_holders {log : State → State} (h : ∀ s, (log s).holders = s.holders) (s : State) (b n : Nat) :
    (s.wearBy log b n).holders = s.holders := by
  dsimp only [State.wearBy]
  rw [apply_ite State.holders, remapStart_holders h, ite_self, State.setWear, State.modNvla_holders]

theorem healthWrite_holders (s : State) (code sev unit : Nat) (data : List Byte) :
    (s.healthWrite code sev unit data).holders = s.holders := by
  have hlost : (if s.nvla.logFails = true then s.healthSlotLost code sev unit data else s).holders = s.holders := by
    rw [apply_ite State.holders, healthSlotLost_holders, ite_self]
  rw [State.healthWrite, wearBy_holders fun s => healthPut_holders s _ _ _ _, State.nvClean, State.modNvla_holders, healthPut_holders, hlost]

theorem hlog_holders (s : State) (code sev unit : Nat) (data : List Byte) : (s.hlog code sev unit data).holders = s.holders := by
  unfold State.hlog
  split_ifs
  · rfl
  · exact healthWrite_holders ..
  · rfl
  · rfl

theorem each_holders {α : Type} (f : State → α → State) (h : ∀ s x, (f s x).holders = s.holders) (l : List α) (s : State) :
    (s.each l f).holders = s.holders := by
  induction l generalizing s with
  | nil => rfl
  | cons x l ih => exact (ih (f s x)).trans (h s x)

theorem keyRepair_holders (s : State) (f : Nat) : (s.keyRepair f).holders = s.holders := by
  unfold State.keyRepair
  split_ifs
  · rw [hlog_holders, State.setKeyEntry, State.setReg_holders]
  · rfl

theorem keyCheck_holders (s : State) (a : Nat) : (s.keyCheck a).holders = s.holders := by
  unfold State.keyCheck
  split_ifs
  · exact each_holders _ (fun s i => keyRepair_holders s _) _ s
  · rfl

/-- A holder pair. -/
def State.holder (s : State) (i : Fin 65) : Holder := s.holders[i]

theorem holder_modHolder_same (s : State) (i : Fin 65) (f : Holder → Holder) : (s.modHolder i f).holder i = f (s.holder i) :=
  Vector.getElem_set_self i.isLt

theorem holder_modHolder_ne (s : State) {i j : Fin 65} (f : Holder → Holder) (h : j ≠ i) : (s.modHolder i f).holder j = s.holder j :=
  Vector.getElem_set_ne i.isLt j.isLt fun e => h (Fin.ext e.symm)

theorem holder_eq_of_holders_eq {t : State} (h : t.holders = s.holders) (i : Fin 65) : t.holder i = s.holder i := by
  simp only [State.holder, h]

theorem reg_eq_of_regs_eq {t : State} (h : t.regs = s.regs) (a : Nat) : t.reg a = s.reg a := by simp only [State.reg, h]

theorem reg_with_berrCnt (s : State) (n : Byte) (a : Nat) : ({ s with berrCnt := n } : State).reg a = s.reg a := rfl

/-! ### A line event changes the ledger cores only, beside what it does itself -/

theorem latched_berrCnt (s : State) : s.latched.berrCnt = s.berrCnt := by rw [latched_cores s]
theorem lineEvent_regs (s : State) (f : State → State) : (s.lineEvent f).regs = (f s.latched).regs := by
  show (f s.latched).unkept.regs = _
  rw [unkept_cores]
theorem lineEvent_holders (s : State) (f : State → State) : (s.lineEvent f).holders = (f s.latched).holders := by
  show (f s.latched).unkept.holders = _
  rw [unkept_cores]
theorem lineEvent_berrCnt (s : State) (f : State → State) : (s.lineEvent f).berrCnt = (f s.latched).berrCnt := by
  show (f s.latched).unkept.berrCnt = _
  rw [unkept_cores]
theorem lineEvent_reg (s : State) (f : State → State) (a : Nat) : (s.lineEvent f).reg a = (f s.latched).reg a := unkept_reg _ a

/-! ### Reads (R32, R33) -/

/-- A byte that leaves the receive FIFO of CON1 changes neither the register file nor the holders. -/
theorem lineEvent_uartPop_one (s : State) :
    (s.lineEvent fun s => s.uartPop 1).regs = s.regs ∧ (s.lineEvent fun s => s.uartPop 1).holders = s.holders := by
  have hpop : ∀ s : State, (s.uartPop 1).regs = s.regs ∧ (s.uartPop 1).holders = s.holders := fun s => by
    unfold State.uartPop
    split <;> exact ⟨rfl, rfl⟩
  rw [lineEvent_regs, lineEvent_holders, (hpop _).1, (hpop _).2, latched_cores]
  exact ⟨rfl, rfl⟩

/-- The registers whose read changes state elsewhere than in the register file. -/
def readsElsewhere : List Nat := [Reg.rtcSec, Reg.conRxd 1, Reg.iicRdata 0, Reg.iicRdata 1]

/-- Reading a register of a block that answers clears it, where its code is RC; else it leaves the register file and the holders. -/
theorem readEffect_cases {m : Master} {a : Nat} (ha : s.answers m a = true) (hc : a ≠ Reg.conRxd 0) :
    s.readEffect m a = s.setReg a 0 ∨
      ((∀ i, regInfo a = some i → i.rc = true → a ∈ readsElsewhere) ∧ (s.readEffect m a).regs = s.regs ∧
        (s.readEffect m a).holders = s.holders) := by
  have hseen : ¬ (¬ s.answers m a = true ∨ hiddenRead m a = true) := not_or.2 ⟨not_not_intro ha, fun h => hc (of_decide_eq_true h).1⟩
  unfold State.readEffect
  rw [if_neg hseen, if_neg hc]
  split_ifs with h₁ h₂ h₃ h₄
  · exact .inr ⟨fun _ _ _ => h₁ ▸ (by decide : Reg.rtcSec ∈ readsElsewhere), rfl, rfl⟩
  · exact .inr ⟨fun _ _ _ => h₂ ▸ (by decide : Reg.conRxd 1 ∈ readsElsewhere), lineEvent_uartPop_one s⟩
  · exact .inr ⟨fun _ _ _ => h₃ ▸ (by decide : Reg.iicRdata 0 ∈ readsElsewhere), rfl, rfl⟩
  · exact .inr ⟨fun _ _ _ => h₄ ▸ (by decide : Reg.iicRdata 1 ∈ readsElsewhere), rfl, rfl⟩
  · cases regInfo a with
    | none => exact .inr ⟨nofun, rfl, rfl⟩
    | some i =>
      by_cases hr : i.rc = true
      · exact .inl (if_pos hr)
      · exact .inr ⟨fun _ hi h => absurd (Option.some.inj hi ▸ h) hr, congrArg State.regs (if_neg hr), congrArg State.holders (if_neg hr)⟩

/-- A snapshot read of a core runs as a read of the piece. -/
theorem exec_snapshotRead_lc {c : Core} {k : Ctx} {sup : Bool} {a : Nat} {w : Width} (hr : region a = .dev)
    (hw : widthOk (.lc c k sup) a w = true) :
    exec (.snapshotRead (.lc c k sup) a w) s = .next (s.readPiece (.lc c k sup) a w).1 := by
  have ht : s.testShut (.lc c k sup) = false := rfl
  have he : s.readError (.lc c k sup) a w = none := by
    unfold State.readError
    rw [hr]
    exact if_pos hw
  show execSnapshotRead _ _ _ _ = _
  rw [execSnapshotRead, ht, he, hr]
  rfl

theorem exec_snapshotRead_error {m : Master} {a : Nat} {w : Width} {k : Nat} (ht : s.testShut m = false)
    (he : s.readError m a w = some k) : exec (.snapshotRead m a w) s = .next (s.busError m a false w k false) := by
  show (if s.testShut m = true then _ else _) = _
  rw [if_neg (ne_true_of_eq_false ht), he]

/-- A read at byte +0 reads the whole register and fills the snapshot holder (R32). -/
theorem readPiece_first {m : Master} {a : Nat} (h : a % 4 = 0) (w : Width) : (s.readPiece m a w).1 =
    ((s.keyCheck a).readEffect m a).modHolder (holderOf m) fun h => { h with snapAddr := some a, snap := (s.keyCheck a).liveWord m a } := by
  have ha : a / 4 * 4 = a := Nat.div_mul_cancel (Nat.dvd_of_mod_eq_zero h)
  rw [State.readPiece, if_pos h, ha]
  rfl

/-- A read of another byte is served from the snapshot, or from the live register without its side effects (R33). -/
theorem readPiece_later {m : Master} {a : Nat} (h : a % 4 ≠ 0) (w : Width) : (s.readPiece m a w).1 =
    if (s.holder (holderOf m)).snapAddr = some (a / 4 * 4) then s else s.keyCheck (a / 4 * 4) :=
  (congrArg Prod.fst (if_neg h)).trans (apply_ite Prod.fst ..)

/-! ### Staged writes (R34 to R36) -/

theorem exec_stagedWrite (s : State) (m : Master) (a : Nat) (w : Width) (v : Word) :
    exec (.stagedWrite m a w v) s = .next (s.writeAt m a w v) := rfl

theorem exec_commit (s : State) (m : Master) (a : Nat) (w : Width) (v : Word) : exec (.commit m a w v) s = .next (s.writeAt m a w v) := rfl

/-- A write of a core to a device register that its rights and width allow is one of a piece. -/
theorem writeAt_lc {c : Core} {k : Ctx} {sup : Bool} {a : Nat} {w : Width} (v : Word) (he : s.writeError (.lc c k sup) a w = none)
    (hr : region a = .dev) : s.writeAt (.lc c k sup) a w v = s.writePiece false (.lc c k sup) a w (v.setWidth 16) := by
  have hc : region a ≠ .ctlStore := by rw [hr]; decide
  have ht : s.testShut (.lc c k sup) = false := rfl
  show (if s.testShut (.lc c k sup) = true then _ else _) = _
  rw [if_neg (ne_true_of_eq_false ht), he]
  exact (if_neg hc).trans (if_neg (not_not_intro hr))

/-- The state in which a write of a piece goes on: a holder staged for another register is abandoned (R36). -/
def State.abandoning (s : State) (m : Master) (a : Nat) : State :=
  let staged := (s.holder (holderOf m)).stageAddr
  if staged ≠ none ∧ staged ≠ some (a / 4 * 4) then s.abandon m else s

/-- The word that a write of a piece stages or commits: the bytes staged before for the same register, else its capture value, with the
piece put in (R34). -/
def State.stagedWord (s : State) (m : Master) (a : Nat) (w : Width) (d : Half) : Word :=
  let h := s.holder (holderOf m)
  setPiece (if h.stageAddr = some (a / 4 * 4) then h.stage else (s.abandoning m a).captureValue m (a / 4 * 4)) (a % 4) w d

theorem abandoning_same {m : Master} {a : Nat} (h : (s.holder (holderOf m)).stageAddr = some (a / 4 * 4)) : s.abandoning m a = s :=
  if_neg fun e => e.2 h

theorem abandoning_fresh {m : Master} {a : Nat} (h : (s.holder (holderOf m)).stageAddr = none) : s.abandoning m a = s :=
  if_neg fun e => e.1 h

theorem stagedWord_same {m : Master} {a : Nat} (h : (s.holder (holderOf m)).stageAddr = some (a / 4 * 4)) (w : Width) (d : Half) :
    s.stagedWord m a w d = setPiece (s.holder (holderOf m)).stage (a % 4) w d :=
  congrArg (setPiece · (a % 4) w d) (if_pos h)

theorem stagedWord_fresh {m : Master} {a : Nat} (h : (s.holder (holderOf m)).stageAddr = none) (w : Width) (d : Half) :
    s.stagedWord m a w d = setPiece (s.captureValue m (a / 4 * 4)) (a % 4) w d := by
  have hne : (s.holder (holderOf m)).stageAddr ≠ some (a / 4 * 4) := by rw [h]; exact nofun
  exact congrArg (setPiece · (a % 4) w d) ((if_neg hne).trans (by rw [abandoning_fresh h]))

theorem abandoning_lc (s : State) (c : Core) (k : Ctx) (sup : Bool) (a : Nat) :
    let staged := (s.holder (holderOf (.lc c k sup))).stageAddr
    s.abandoning (.lc c k sup) a =
      if staged ≠ none ∧ staged ≠ some (a / 4 * 4) then s.setBits Reg.sysStat (BitVec.ofNat 32 (2 ^ c.val)) else s := rfl

theorem abandoning_lc_holders (s : State) (c : Core) (k : Ctx) (sup : Bool) (a : Nat) :
    (s.abandoning (.lc c k sup) a).holders = s.holders := by
  rw [abandoning_lc, apply_ite State.holders, State.setBits_holders, ite_self]

/-- An abandoned staging holder of a core sets SABN of that core, and no other register (R36). -/
theorem abandoning_lc_reg_ne (s : State) (c : Core) (k : Ctx) (sup : Bool) (a : Nat) {x : Nat} (hx : x ≠ Reg.sysStat) :
    (s.abandoning (.lc c k sup) a).reg x = s.reg x := by
  rw [abandoning_lc, apply_ite (State.reg · x), State.reg_setBits_ne _ _ hx, ite_self]

theorem abandoning_lc_sysStat (s : State) (c : Core) (k : Ctx) (sup : Bool) (a : Nat) :
    let staged := (s.holder (holderOf (.lc c k sup))).stageAddr
    (s.abandoning (.lc c k sup) a).reg Reg.sysStat =
      if staged ≠ none ∧ staged ≠ some (a / 4 * 4) then s.reg Reg.sysStat ||| BitVec.ofNat 32 (2 ^ c.val) else s.reg Reg.sysStat := by
  intro staged
  rw [abandoning_lc, apply_ite (State.reg · Reg.sysStat), State.reg_setBits_same]

/-- A write of a piece in the terms above: one that reaches byte +3 empties the staging holder and commits its word (R35), any other leaves
it staged, with the bytes written marked (R34). -/
theorem writePiece_eq (s : State) (buffered : Bool) (m : Master) (a : Nat) (w : Width) (d : Half) : s.writePiece buffered m a w d =
    if a % 4 + widthBytes w = 4 then
      ((s.abandoning m a).modHolder (holderOf m) fun h => { h with stageAddr := none, stage := 0, mask := 0 }).commitWord buffered m
        (a / 4 * 4) (s.stagedWord m a w d)
    else (s.abandoning m a).modHolder (holderOf m) fun h => { h with
      stageAddr := some (a / 4 * 4), stage := s.stagedWord m a w d,
      mask := (if h.stageAddr = some (a / 4 * 4) then h.mask else 0) ||| BitVec.ofNat 4 ((2 ^ widthBytes w - 1) * 2 ^ (a % 4)) } := by
  have hs : s.abandoning m a = if (s.holder (holderOf m)).stageAddr.isSome && decide ((s.holder (holderOf m)).stageAddr ≠ some (a / 4 * 4))
      then s.abandon m else s := by
    simp only [State.abandoning, Bool.and_eq_true, Option.isSome_iff_ne_none, decide_eq_true_eq]
  rw [State.stagedWord, hs]
  rfl

/-- Where the piece does not reach byte +3 the write is staged; of the register file it changes at most SABN (R34, R36). -/
theorem writePiece_stages {m : Master} {a : Nat} {w : Width} (hw : a % 4 + widthBytes w ≠ 4) (d : Half) :
    ∃ f : Holder → Holder, s.writePiece false m a w d = (s.abandoning m a).modHolder (holderOf m) f ∧
      ∀ h, (f h).stageAddr = some (a / 4 * 4) ∧ (f h).stage = s.stagedWord m a w d :=
  ⟨_, (writePiece_eq ..).trans (if_neg hw), fun _ => ⟨rfl, rfl⟩⟩

/-! ### Commits in the SYS block (R37, R44) -/

/-- What a commit leaves in each bit: an RW bit takes the value, a W1C bit with a 1 is cleared, every other bit stands (R37). -/
theorem bit_storedAfter (old v : Word) (i : RegInfo) {j : Nat} (hj : j < 32) :
    bit (storedAfter old v i) j = if bit i.rw j = true then bit v j else bit old j && !(bit i.w1c j && bit v j) := by
  simp only [storedAfter, bit, BitVec.getLsbD_or, BitVec.getLsbD_and, BitVec.getLsbD_not, hj, decide_true, Bool.true_and]
  cases i.rw.getLsbD j <;> cases v.getLsbD j <;> simp

/-- SYS has no expert register (Table 2.5). -/
theorem sysInfo_not_expert {o : Nat} {i : RegInfo} (h : sysInfo o = some i) : i.expert = false := by
  revert h
  fun_cases sysInfo o <;> rintro ⟨⟩ <;> rfl

theorem regInfo_sys {a : Nat} (ha : a / 0x10000 = 0x0400) : regInfo a = sysInfo (a % 0x10000) := by
  unfold regInfo
  rw [ha]
  rfl

/-- In SYS the value is stored, and with BERRV's bit in SYS_STAT the count of bus errors is cleared (R37, R44). -/
theorem commitEffect_sys {a : Nat} (ha : a / 0x10000 = 0x0400) (s : State) (buffered : Bool) (m : Master) (raw v : Word) (i : RegInfo) :
    s.commitEffect buffered m a raw v i =
      { s.storeReg a v i with berrCnt := if a = Reg.sysStat ∧ bit v 8 = true then 0 else s.berrCnt } := by
  unfold State.commitEffect
  rw [ha]
  show (if a = Reg.sysStat ∧ bit v 8 = true then { s.storeReg a v i with berrCnt := 0 } else s.storeReg a v i) = _
  split_ifs <;> rfl

/-- A commit that a register of SYS takes stores the value; with BERRV's bit in SYS_STAT it also clears the count (R44). -/
theorem busCommit_sys {m : Master} {a : Nat} {v : Word} {i : RegInfo} (h : s.takes m a v) (ha : a / 0x10000 = 0x0400) (hi : regInfo a = some i) :
    s.busCommit m a v = s.lineEvent fun s =>
      { s.storeReg a v i with berrCnt := if a = Reg.sysStat ∧ bit v 8 = true then 0 else s.berrCnt } := by
  have hx : i.expert = false := sysInfo_not_expert ((regInfo_sys ha).symm.trans hi)
  rw [busCommit_takes h hi]
  refine congrArg s.lineEvent (funext fun s => ?_)
  rw [if_neg fun e => Bool.false_ne_true (hx.symm.trans e.1), commitEffect_sys ha]

theorem busCommit_sys_reg {m : Master} {a : Nat} {v : Word} {i : RegInfo} (h : s.takes m a v) (ha : a / 0x10000 = 0x0400)
    (hi : regInfo a = some i) (b : Nat) : (s.busCommit m a v).reg b = if b = a then storedAfter (s.reg a) v i else s.reg b := by
  rw [busCommit_sys h ha hi, lineEvent_reg, reg_with_berrCnt, State.storeReg, State.reg_setReg, latched_reg, latched_reg]

theorem busCommit_sys_berrCnt {m : Master} {a : Nat} {v : Word} {i : RegInfo} (h : s.takes m a v) (ha : a / 0x10000 = 0x0400)
    (hi : regInfo a = some i) : (s.busCommit m a v).berrCnt = if a = Reg.sysStat ∧ bit v 8 = true then 0 else s.berrCnt := by
  rw [busCommit_sys h ha hi, lineEvent_berrCnt, latched_berrCnt]

/-- A whole-word write of a device register by Wellhead or Tarn, within its rights, is a commit at the bus (R30). -/
theorem writeAt_word {m : Master} {a : Nat} (hm : m = .wellhead ∨ m = .tarn) (hr : region a = .dev) (ha : a % 4 = 0)
    (hw : mayWrite m a = true) (v : Word) : s.writeAt m a .word v = s.busCommit m a v := by
  have he : s.writeError m a .word = none := by
    have hk : widthOk m a .word = true := by rcases hm with rfl | rfl <;> exact decide_eq_true ha
    unfold State.writeError
    rw [hr]
    exact (if_neg (not_not_intro hw)).trans (if_pos hk)
  have hc : region a ≠ .ctlStore := by rw [hr]; decide
  have ht : s.testShut m = false := by rcases hm with rfl | rfl <;> rfl
  have hb : s.busCommit m a v = s.commitWord false m a v := (if_neg (ne_true_of_eq_false ht)).trans (if_pos hw)
  rw [hb]
  show (if s.testShut m = true then _ else _) = _
  rw [if_neg (ne_true_of_eq_false ht), he]
  rcases hm with rfl | rfl <;> exact (if_neg hc).trans (if_neg (not_not_intro hr))

theorem region_sys {a : Nat} (ha : a / 0x10000 = 0x0400) : region a = .dev := by
  have hlo : 0x04000000 ≤ a := by omega
  have hhi : a < 0x04010000 := by omega
  unfold region
  have out {b : Nat} (hb : b ≤ 0x04000000) : ¬ a < b := by omega
  repeat rw [if_neg (out (by decide))]
  rw [if_pos (by omega)]

/-! ### Bus errors (R42, R44) -/

/-- A bus error that is no window write and not Wellhead's is captured, or counted up to FFh while another one is captured (R44). -/
theorem busError_eq {m : Master} (hm : m ≠ .wellhead) {kind : Nat} (hk : kind ≠ 1) (a : Nat) (wr : Bool) (w : Width) (fetch : Bool) :
    s.busError m a wr w kind fetch =
      if bit (s.reg Reg.sysStat) 8 then { s with berrCnt := if s.berrCnt = 0xFF then 0xFF else s.berrCnt + 1 }
      else ((s.setReg Reg.berrAddr (BitVec.ofNat 32 a)).setReg Reg.berrInfo (berrInfo m wr w kind fetch)).setBits Reg.sysStat 0x100 := by
  dsimp only [State.busError]
  rw [if_neg hk, if_neg hm]

theorem writeAt_error {m : Master} {a : Nat} {w : Width} {k : Nat} (ht : s.testShut m = false) (he : s.writeError m a w = some k) (v : Word) :
    s.writeAt m a w v = s.busError m a true w k false := by
  show (if s.testShut m = true then _ else _) = _
  rw [if_neg (ne_true_of_eq_false ht), he]

end Sys2Proof.Machine
end

section
/-! PROOFS. Register access: the parts of the statement, each from the laws above, and the statement. -/

namespace Sys2Proof.Proofs
open Sys2Proof Sys2Proof.Machine

/-- A core's read at byte +0 changes its own snapshot holder and, of the register file, at most an RC register that it clears (R32). -/
theorem snapshotRead_first {s : State} {c : Core} {k : Ctx} {sup : Bool} {a : Nat} {w : Width} (hr : region a = .dev)
    (hw : widthOk (.lc c k sup) a w = true) (h4 : a % 4 = 0) (hc : a ≠ Reg.conRxd 0)
    (ha : (s.keyCheck a).answers (.lc c k sup) a = true) :
    ∃ t, exec (.snapshotRead (.lc c k sup) a w) s = .next t ∧
      (∀ i, t.holder i = if i = holderOf (.lc c k sup) then
        { s.holder i with snapAddr := some a, snap := (s.keyCheck a).liveWord (.lc c k sup) a } else s.holder i) ∧
      (∀ i, regInfo a = some i → i.rc = true → a ∉ readsElsewhere → t.reg a = 0) ∧ ∀ b, b ≠ a → t.reg b = (s.keyCheck a).reg b := by
  refine ⟨_, (exec_snapshotRead_lc hr hw).trans (congrArg _ (readPiece_first h4 w)), fun i => ?_, ?_, ?_⟩
  · have hh : ((s.keyCheck a).readEffect (.lc c k sup) a).holders = s.holders := by
      rcases readEffect_cases ha hc with e | ⟨-, -, e⟩
      · exact (congrArg State.holders e).trans (keyCheck_holders s a)
      · exact e.trans (keyCheck_holders s a)
    by_cases hi : i = holderOf (.lc c k sup)
    · rw [if_pos hi, hi, holder_modHolder_same, holder_eq_of_holders_eq hh]
    · rw [if_neg hi, holder_modHolder_ne _ _ hi, holder_eq_of_holders_eq hh]
  · intro i hi hrc hn
    rcases readEffect_cases ha hc with e | ⟨hin, -, -⟩
    · rw [reg_eq_of_regs_eq (State.modHolder_regs ..), e, State.reg_setReg_same]
    · exact absurd (hin i hi hrc) hn
  · intro b hb
    rw [reg_eq_of_regs_eq (State.modHolder_regs ..)]
    rcases readEffect_cases ha hc with e | ⟨-, e, -⟩
    · rw [e, State.reg_setReg_ne _ _ hb]
    · exact reg_eq_of_regs_eq e b

/-- A core's write that does not reach byte +3 changes its own staging holder and, of the register file, at most SABN (R34, R36). -/
theorem stagedWrite_stages {s : State} {c : Core} {k : Ctx} {sup : Bool} {a : Nat} {w : Width} (v : Word)
    (he : s.writeError (.lc c k sup) a w = none) (hr : region a = .dev) (hw : a % 4 + widthBytes w ≠ 4) :
    let m := Master.lc c k sup
    let h := s.holder (holderOf m)
    ∃ t, exec (.stagedWrite m a w v) s = .next t ∧ (∀ j, j ≠ holderOf m → t.holder j = s.holder j) ∧
      (t.holder (holderOf m)).stageAddr = some (a / 4 * 4) ∧ (t.holder (holderOf m)).stage = s.stagedWord m a w (v.setWidth 16) ∧
      (∀ x, x ≠ Reg.sysStat → t.reg x = s.reg x) ∧
      t.reg Reg.sysStat = if h.stageAddr ≠ none ∧ h.stageAddr ≠ some (a / 4 * 4) then s.reg Reg.sysStat ||| BitVec.ofNat 32 (2 ^ c.val)
        else s.reg Reg.sysStat := by
  intro m h
  obtain ⟨f, hf, hstaged⟩ := writePiece_stages (s := s) (m := m) hw (v.setWidth 16)
  rw [exec_stagedWrite, writeAt_lc v he hr, hf]
  refine ⟨_, rfl, fun j hj => ?_, ?_, ?_, fun x hx => ?_, ?_⟩
  · rw [holder_modHolder_ne _ _ hj, holder_eq_of_holders_eq (abandoning_lc_holders ..)]
  · rw [holder_modHolder_same, (hstaged _).1]
  · rw [holder_modHolder_same, (hstaged _).2]
  · exact (reg_eq_of_regs_eq (State.modHolder_regs ..) x).trans (abandoning_lc_reg_ne s c k sup a hx)
  · exact (reg_eq_of_regs_eq (State.modHolder_regs ..) _).trans (abandoning_lc_sysStat s c k sup a)

/-- A core's write that reaches byte +3 commits the staged word and empties the holder (R35). -/
theorem commit_staged {s : State} {c : Core} {k : Ctx} {sup : Bool} {a : Nat} {w : Width} (v : Word)
    (he : s.writeError (.lc c k sup) a w = none) (hr : region a = .dev) (hw : a % 4 + widthBytes w = 4) :
    let m := Master.lc c k sup
    exec (.commit m a w v) s = .next (((s.abandoning m a).modHolder (holderOf m) fun h => { h with stageAddr := none, stage := 0, mask := 0 }
      ).commitWord false m (a / 4 * 4) (s.stagedWord m a w (v.setWidth 16))) := by
  intro m
  rw [exec_commit, writeAt_lc v he hr, writePiece_eq, if_pos hw]

/-- A commit by Wellhead or Tarn in SYS follows the access codes bit by bit and leaves every other register (R37). -/
theorem commit_sys {s : State} {m : Master} {a : Nat} {v : Word} (h : s.takes m a v) (ha : a / 0x10000 = 0x0400)
    (hm : m = .wellhead ∨ m = .tarn) (h4 : a % 4 = 0) : ∃ t, exec (.commit m a .word v) s = .next t ∧
      (∀ i, regInfo a = some i → ∀ j, j < 32 →
        bit (t.reg a) j = if bit i.rw j = true then bit v j else bit (s.reg a) j && !(bit i.w1c j && bit v j)) ∧
      ∀ b, b ≠ a → t.reg b = s.reg b := by
  obtain ⟨hw, -, -, i, hi, -⟩ := id h
  rw [exec_commit, writeAt_word hm (region_sys ha) h4 hw v]
  refine ⟨_, rfl, fun i hi j hj => ?_, fun b hb => ?_⟩
  · rw [busCommit_sys_reg h ha hi, if_pos rfl]
    exact bit_storedAfter _ _ _ hj
  · rw [busCommit_sys_reg h ha hi, if_neg hb]

/-- SYS_STAT's sticky bits clear where the value has a 1, and the count of bus errors with BERRV (R44). -/
theorem sysStatClear_clears {s : State} {m : Master} {v : Word} (h : s.takes m Reg.sysStat v) : ∃ t, exec (.sysStatClear m v) s = .next t ∧
    (t.berrCnt = if bit v 8 = true then 0 else s.berrCnt) ∧ (∀ b, b ≠ Reg.sysStat → t.reg b = s.reg b) ∧
    ∀ j ∈ [0, 1, 2, 3, 4, 8], bit (t.reg Reg.sysStat) j = (bit (s.reg Reg.sysStat) j && !bit v j) := by
  have hi : regInfo Reg.sysStat = some { w1c := 0xC000011F, ro := 0x00FF0000 } := rfl
  have hbits : ∀ j ∈ [0, 1, 2, 3, 4, 8], j < 32 ∧ bit (0 : Word) j = false ∧ bit (0xC000011F : Word) j = true := by decide
  refine ⟨s.busCommit m Reg.sysStat v, rfl, ?_, fun b hb => ?_, fun j hj => ?_⟩
  · rw [busCommit_sys_berrCnt h rfl hi]
    simp only [true_and]
  · rw [busCommit_sys_reg h rfl hi, if_neg hb]
  · obtain ⟨h32, hrw, hw1c⟩ := hbits j hj
    rw [busCommit_sys_reg h rfl hi, if_pos rfl, bit_storedAfter _ _ _ h32, hrw, hw1c]
    simp only [Bool.false_eq_true, if_false, Bool.true_and]

/-- A write outside the rights or widths has no effect but its bus error, staged or not (R42, R44). -/
theorem write_error {s : State} {m : Master} {a : Nat} {w : Width} {k : Nat} (v : Word) (ht : s.testShut m = false)
    (he : s.writeError m a w = some k) (hk : k ≠ 1) (hm : m ≠ .wellhead) :
    ∃ t, exec (.stagedWrite m a w v) s = .next t ∧ exec (.commit m a w v) s = .next t ∧
      (bit (s.reg Reg.sysStat) 8 = false → t.berrCnt = s.berrCnt ∧ t.reg Reg.berrAddr = BitVec.ofNat 32 a ∧
        t.reg Reg.berrInfo = berrInfo m true w k false ∧ bit (t.reg Reg.sysStat) 8 = true) ∧
      (bit (s.reg Reg.sysStat) 8 = true → t = { s with berrCnt := if s.berrCnt = 0xFF then 0xFF else s.berrCnt + 1 }) := by
  rw [exec_stagedWrite, exec_commit, writeAt_error ht he v]
  refine ⟨_, rfl, rfl, fun hb => ?_, fun hb => (busError_eq hm hk ..).trans (if_pos hb)⟩
  rw [busError_eq hm hk, if_neg (ne_true_of_eq_false hb)]
  refine ⟨?_, ?_, ?_, ?_⟩
  · rw [State.setBits_berrCnt, State.setReg_berrCnt, State.setReg_berrCnt]
  · rw [State.reg_setBits_ne _ _ (by decide), State.reg_setReg_ne _ _ (by decide), State.reg_setReg_same]
  · rw [State.reg_setBits_ne _ _ (by decide), State.reg_setReg_same]
  · have h8 : (0x100 : Word).getLsbD 8 = true := by decide
    rw [State.reg_setBits_same, bit, BitVec.getLsbD_or, h8, Bool.or_true]

/-- Settles O55: reads through the snapshot holder, writes through the staging holder, commits in SYS and the capture of bus errors, each by
the lemma for it above. -/
theorem registerAccess : Obligations.RegisterAccess := by
  unfold Obligations.RegisterAccess
  refine ⟨fun s c k sup a w hr ha hw => ⟨fun h4 hc => ?_, fun h4 => ?_⟩, fun s m a w k ht he => exec_snapshotRead_error ht he,
    fun s c k sup a w v he hr => ⟨fun hw => ?_, fun hw hs => ?_, fun hw hs => ?_⟩, fun s m a v h ha _ hm h4 => commit_sys h ha hm h4,
    fun s m v h => sysStatClear_clears h, fun s m a w v k ht he hk hm => write_error v ht he hk hm⟩
  · have hb : a / 4 * 4 = a := by omega
    rw [hb] at ha ⊢
    exact snapshotRead_first hr hw h4 hc ha
  · exact (exec_snapshotRead_lc hr hw).trans (congrArg _ (readPiece_later h4 w))
  · obtain ⟨t, ht, hothers, haddr, hstage, hregs, hstat⟩ := stagedWrite_stages v he hr (by omega)
    exact ⟨t, ht, hothers, haddr, fun hs => hstage.trans (stagedWord_same hs ..), fun hs => hstage.trans (stagedWord_fresh hs ..), hregs, hstat⟩
  · rw [commit_staged v he hr hw, abandoning_same hs, stagedWord_same hs]
    rfl
  · rw [commit_staged v he hr hw, abandoning_fresh hs, stagedWord_fresh hs]

end Sys2Proof.Proofs
end

section
/-! SUPPORT. The laws of Tarn's log, mailbox and sign queue (R70 to R84): what an entry in the legal log leaves, how a command that a slot
submits is served and answered, and what the queue's head changes. -/

namespace Sys2Proof.Machine

variable {s t u : State}

/-! ### Big-endian bytes -/

theorem leBytes_leNat (l : List Byte) : leBytes l.length (leNat l) = l := by
  induction l with
  | nil => rfl
  | cons b l ih =>
    have hhead : BitVec.ofNat 8 (b.toNat + 256 * leNat l) = b :=
      BitVec.eq_of_toNat_eq (by rw [BitVec.toNat_ofNat, Nat.add_mul_mod_self_left, Nat.mod_eq_of_lt b.isLt])
    have htail : (b.toNat + 256 * leNat l) / 256 = leNat l := by
      rw [Nat.add_mul_div_left _ _ (by decide), Nat.div_eq_of_lt b.isLt, Nat.zero_add]
    rw [leNat, List.length_cons, leBytes, hhead, htail, ih]

/-- A field of `k` bytes kept in a word of their width is read back as it stood. -/
theorem beBytes_toNat_ofNat_beNat {l : List Byte} {k w : Nat} (h : l.length = k) (hw : 2 ^ w = 256 ^ k) :
    beBytes k (BitVec.ofNat w (beNat l)).toNat = l := by
  have hback : leBytes k (beNat l) = l.reverse := by rw [beNat, ← h, ← List.length_reverse, leBytes_leNat]
  have hfits : beNat l % 256 ^ k = beNat l := by rw [← leNat_leBytes, hback, beNat]
  rw [BitVec.toNat_ofNat, hw, hfits, beBytes, hback, List.reverse_reverse]

theorem argBytes_length (s : State) (slot : Slot) (i : Nat) {k : Nat} (hk : k ≤ 8) : (s.argBytes slot i k).length = k := by
  unfold State.argBytes beBytes
  rw [List.length_take, List.length_append, List.length_reverse, List.length_reverse, leBytes_length, leBytes_length]
  exact Nat.min_eq_left hk

/-! ### Entries in the legal log (R75 to R80) -/

/-- From `s` to `t` Tarn has made entries in the legal log: the channels, the sign queue, the count of sessions and the clock stand, and
of the registers only TMB_EVT has changed, where LOGWARN may have been set (R56, R79). -/
def State.Entered (s t : State) : Prop :=
  t.tarn.chans = s.tarn.chans ∧ t.tarn.queue = s.tarn.queue ∧ t.tarn.sesCtr = s.tarn.sesCtr ∧ t.rtc = s.rtc ∧
    (∀ a, a ≠ Reg.tmbEvt → t.reg a = s.reg a) ∧ ∀ j, bit (s.reg Reg.tmbEvt) j = true → bit (t.reg Reg.tmbEvt) j = true

namespace State.Entered

theorem refl (s : State) : s.Entered s := ⟨rfl, rfl, rfl, rfl, fun _ _ => rfl, fun _ => id⟩

theorem trans (h : s.Entered t) (k : t.Entered u) : s.Entered u := by
  obtain ⟨hchans, hqueue, hctr, hrtc, hreg, hevt⟩ := h
  obtain ⟨kchans, kqueue, kctr, krtc, kreg, kevt⟩ := k
  exact ⟨kchans.trans hchans, kqueue.trans hqueue, kctr.trans hctr, krtc.trans hrtc, fun a ha => (kreg a ha).trans (hreg a ha),
    fun j hj => kevt j (hevt j hj)⟩

theorem chan : s.Entered t → ∀ n : Chan, t.chan n = s.chan n
  | ⟨hchans, _⟩, n => congrArg (fun v : Vector TarnChan 8 => v[n]) hchans
theorem queue : s.Entered t → t.tarn.queue = s.tarn.queue
  | ⟨_, hqueue, _⟩ => hqueue
theorem sesCtr : s.Entered t → t.tarn.sesCtr = s.tarn.sesCtr
  | ⟨_, _, hctr, _⟩ => hctr
theorem rtc : s.Entered t → t.rtc = s.rtc
  | ⟨_, _, _, hrtc, _⟩ => hrtc
theorem reg {a : Nat} : s.Entered t → a ≠ Reg.tmbEvt → t.reg a = s.reg a
  | ⟨_, _, _, _, hreg, _⟩ => hreg a
theorem evt {j : Nat} : s.Entered t → bit (s.reg Reg.tmbEvt) j = true → bit (t.reg Reg.tmbEvt) j = true
  | ⟨_, _, _, _, _, hevt⟩ => hevt j

end State.Entered

theorem bit_setBits {a j : Nat} (v : Word) (h : bit (s.reg a) j = true ∨ bit v j = true) : bit ((s.setBits a v).reg a) j = true := by
  rw [State.reg_setBits_same, bit, BitVec.getLsbD_or, Bool.or_eq_true]
  exact h

theorem entered_setEvt (s : State) (v : Word) : s.Entered (s.setBits Reg.tmbEvt v) :=
  ⟨rfl, rfl, rfl, rfl, fun _ ha => State.reg_setBits_ne s v ha, fun _ hj => bit_setBits v (.inl hj)⟩

theorem entered_ite {p : Prop} [Decidable p] (h : s.Entered t) (k : s.Entered u) : s.Entered (if p then t else u) := by
  split_ifs
  · exact h
  · exact k

theorem entered_modArea {f : TarnSt → TarnSt} (hchans : (f s.tarn).chans = s.tarn.chans) (hqueue : (f s.tarn).queue = s.tarn.queue)
    (hctr : (f s.tarn).sesCtr = s.tarn.sesCtr) : s.Entered (s.modArea f) :=
  ⟨hchans, hqueue, hctr, rfl, fun _ _ => rfl, fun _ => id⟩

theorem entered_legalWrite (s : State) (code chan flags : Nat) (data : List Byte) : s.Entered (s.legalWrite code chan flags data) :=
  entered_ite ((entered_modArea rfl rfl rfl).trans (entered_setEvt ..)) (entered_modArea rfl rfl rfl)

theorem entered_tlog (s : State) (code chan flags : Nat) (data : List Byte) : s.Entered (s.tlog code chan flags data) :=
  entered_ite (.refl s) (entered_ite ((entered_legalWrite ..).trans (entered_legalWrite ..)) (entered_legalWrite ..))

/-! ### Channels after a change of another part of Tarn -/

theorem chan_modTarn {f : TarnSt → TarnSt} (h : (f s.tarn).chans = s.tarn.chans) (n : Chan) : (s.modTarn f).chan n = s.chan n :=
  congrArg (fun v : Vector TarnChan 8 => v[n]) h

theorem chan_modArea {f : TarnSt → TarnSt} (h : (f s.tarn).chans = s.tarn.chans) (n : Chan) : (s.modArea f).chan n = s.chan n :=
  congrArg (fun v : Vector TarnChan 8 => v[n]) h

theorem chan_modChanKept_same (s : State) (n : Chan) (f : TarnChan → TarnChan) : (s.modChanKept n f).chan n = f (s.chan n) := by
  show (s.tarn.chans.set n (f (s.chan n)))[n.val] = _
  exact Vector.getElem_set_self ..

theorem chan_modChanKept_ne (s : State) {n m : Chan} (f : TarnChan → TarnChan) (h : m ≠ n) : (s.modChanKept n f).chan m = s.chan m := by
  show (s.tarn.chans.set n (f (s.chan n)))[m.val] = _
  exact Vector.getElem_set_ne _ _ fun e => h (Fin.ext e.symm)

theorem modChanKept_self {n : Chan} {f : TarnChan → TarnChan} (h : f (s.chan n) = s.chan n) : s.modChanKept n f = s := by
  have hset : s.tarn.chans.set n (f (s.chan n)) = s.tarn.chans := by rw [h]; exact Vector.set_getElem_self ..
  exact congrArg (fun v => { s with tarn := { s.tarn with chans := v } }) hset

/-! ### The record of quanta outside a session (R59) -/

/-- The record enters the log and clears the count of its channel. -/
theorem outsideRecord_cases (s : State) (n : Chan) : s.outsideRecord n = s ∨
    ∃ t, s.Entered t ∧ s.outsideRecord n = t.modChanKept n fun c => { c with outCount := 0, outLoggedAt := some s.us } := by
  unfold State.outsideRecord
  dsimp only
  split_ifs
  · exact .inl rfl
  · exact .inr ⟨_, entered_tlog .., rfl⟩

/-- The record leaves the totalizers and the legal state of its channel. -/
theorem outsideRecord_chan_same (s : State) (n : Chan) : ((s.outsideRecord n).chan n).fwd = (s.chan n).fwd ∧
    ((s.outsideRecord n).chan n).rev = (s.chan n).rev ∧ ((s.outsideRecord n).chan n).legal = (s.chan n).legal := by
  obtain e | ⟨t, h, e⟩ := outsideRecord_cases s n
  · rw [e]
    exact ⟨rfl, rfl, rfl⟩
  · rw [e, chan_modChanKept_same, h.chan]
    exact ⟨rfl, rfl, rfl⟩

theorem outsideRecord_chan_ne (s : State) {n j : Chan} (hj : j ≠ n) : (s.outsideRecord n).chan j = s.chan j := by
  obtain e | ⟨t, h, e⟩ := outsideRecord_cases s n
  · rw [e]
  · rw [e, chan_modChanKept_ne _ _ hj, h.chan]

theorem outsideRecord_sesCtr (s : State) (n : Chan) : (s.outsideRecord n).tarn.sesCtr = s.tarn.sesCtr := by
  obtain e | ⟨t, h, e⟩ := outsideRecord_cases s n
  · rw [e]
  · rw [e]
    exact h.sesCtr

theorem outsideRecord_rtc (s : State) (n : Chan) : (s.outsideRecord n).rtc = s.rtc := by
  obtain e | ⟨t, h, e⟩ := outsideRecord_cases s n
  · rw [e]
  · rw [e]
    exact h.rtc

theorem outsideRecord_tmbArg (s : State) (n : Chan) (slot : Slot) (i : Nat) : (s.outsideRecord n).tmbArg slot i = s.tmbArg slot i := by
  have hne : Reg.tmbArg slot.val i ≠ Reg.tmbEvt := by unfold Reg.tmbArg Reg.tmbSlot Reg.tmbEvt; omega
  obtain e | ⟨t, h, e⟩ := outsideRecord_cases s n
  · rw [e]
  · rw [e]
    exact h.reg hne

theorem outsideRecord_argBytes (s : State) (n : Chan) (slot : Slot) (i k : Nat) :
    (s.outsideRecord n).argBytes slot i k = s.argBytes slot i k := by
  unfold State.argBytes
  rw [outsideRecord_tmbArg, outsideRecord_tmbArg]

/-! ### A command that Tarn serves at once (R83) -/

/-- The state at which Tarn runs a command of a slot: CMD holds it, and its slot is the last served. -/
noncomputable def State.submitted (s : State) (slot : Slot) (cmd : Word) : State :=
  (s.setReg (Reg.tmbCmd slot.val) (cmd &&& 0x00FF07FF)).modTarn fun t => { t with lastSlot := slot }

theorem tmbArg_submitted (s : State) (slot : Slot) (cmd : Word) (i : Nat) : (s.submitted slot cmd).tmbArg slot i = s.tmbArg slot i := by
  have hne : Reg.tmbArg slot.val i ≠ Reg.tmbCmd slot.val := by unfold Reg.tmbArg Reg.tmbCmd; omega
  exact (reg_eq_of_regs_eq (State.modTarn_regs ..) _).trans (s.reg_setReg_ne _ hne)

theorem chan_submitted (s : State) (slot : Slot) (cmd : Word) (n : Chan) : (s.submitted slot cmd).chan n = s.chan n := rfl

theorem argBytes_submitted (s : State) (slot : Slot) (cmd : Word) (i k : Nat) :
    (s.submitted slot cmd).argBytes slot i k = s.argBytes slot i k := by
  unfold State.argBytes
  rw [tmbArg_submitted, tmbArg_submitted]

/-- In Surface with no entry under way an OPEN wakes nothing (Table 18.4, R630). -/
theorem wake_openCmd_surface (h : s.power.entry = 0) : s.wake .openCmd = s := by
  have hmark : wakeMarked .openCmd (entryDepth s.power.entry) = false := by rw [h]; rfl
  unfold State.wake
  rw [hmark, Bool.and_false, Bool.false_and, if_neg Bool.false_ne_true]

theorem tmbSubmit_served {slot : Slot} {cmd : Word} {code : Nat} (h : s.serves slot cmd code) :
    s.tmbSubmit slot cmd = (s.setReg (Reg.tmbCmd slot.val) (cmd &&& 0x00FF07FF)).tmbServe slot cmd := by
  obtain ⟨hon, hidle, hfree, hsurface, hres, -⟩ := h
  have hne : Reg.tmbRsp slot.val ≠ Reg.tmbCmd slot.val := by unfold Reg.tmbRsp Reg.tmbCmd; omega
  have hconsent : s.consented = false := by unfold State.consented; rw [hsurface]; rfl
  generalize hx : s.setReg (Reg.tmbCmd slot.val) (cmd &&& 0x00FF07FF) = x
  have hfree' : ¬ bit (x.reg (Reg.tmbRsp slot.val)) 31 = true := by rw [← hx, s.reg_setReg_ne _ hne, hfree]; exact Bool.false_ne_true
  have hon' : ¬ ¬ x.tarnOn = true := by rw [← hx]; exact not_not_intro hon
  have hwake : x.wake .openCmd = x := wake_openCmd_surface (by rw [← hx]; exact hsurface)
  have hholds : ¬ x.tmbHolds cmd = true := by
    have e : x.tmbHolds cmd = s.tmbHolds cmd := by rw [← hx]; rfl
    rw [e]
    unfold State.tmbHolds
    rw [hidle, hconsent, Bool.and_false]
    exact Bool.false_ne_true
  unfold State.tmbSubmit
  dsimp only
  rw [if_neg (not_not_intro hres), hx, if_neg hon', if_neg hfree', hwake, ite_self, if_neg hholds]

/-- A command that Tarn serves at once runs, and its slot takes the answer (R83). -/
theorem tmbRow_runs {slot : Slot} {cmd : Word} {code : Nat} (h : s.serves slot cmd code) {r : TmbResult} {d : List Word}
    (hrun : (s.submitted slot cmd).tmbRun slot cmd = (t, some (r, d))) :
    tmbRow code slot cmd s = .next (t.tmbAnswer slot (field cmd 16 8) r d) := by
  have hserve : (s.setReg (Reg.tmbCmd slot.val) (cmd &&& 0x00FF07FF)).tmbServe slot cmd = t.tmbAnswer slot (field cmd 16 8) r d := by
    unfold State.submitted at hrun
    unfold State.tmbServe
    dsimp only
    rw [if_neg (not_not_intro h.reserved), hrun]
  unfold tmbRow
  rw [if_pos h.code, tmbSubmit_served h, hserve]

/-- Writes of registers change the register file only. -/
theorem each_setReg_rest {α : Type} (a : α → Nat) (v : α → Word) (l : List α) (s : State) :
    s.each l (fun s x => s.setReg (a x) (v x)) = { s with regs := (s.each l fun s x => s.setReg (a x) (v x)).regs } := by
  induction l generalizing s with
  | nil => rfl
  | cons x l ih => exact ih (s.setReg (a x) (v x))

theorem tmbAnswer_rest (s : State) (slot : Slot) (tag : Nat) (r : TmbResult) (d : List Word) :
    s.tmbAnswer slot tag r d = { s with regs := (s.tmbAnswer slot tag r d).regs } :=
  congrArg (State.setReg · (Reg.tmbRsp slot.val) (BitVec.ofNat 32 (2 ^ 30 + tag * 65536 + tmbCode r))) (each_setReg_rest _ _ d.zipIdx s)

theorem tmbAnswer_tarn (s : State) (slot : Slot) (tag : Nat) (r : TmbResult) (d : List Word) :
    (s.tmbAnswer slot tag r d).tarn = s.tarn := by rw [tmbAnswer_rest]

theorem tmbAnswer_chan (s : State) (slot : Slot) (tag : Nat) (r : TmbResult) (d : List Word) (n : Chan) :
    (s.tmbAnswer slot tag r d).chan n = s.chan n := congrArg (fun x : TarnSt => x.chans[n]) (tmbAnswer_tarn ..)

/-- Words written to RDATA from word `k` on are read back, and no RDATA word before them changes. -/
theorem reg_each_rdata (slot : Slot) (d : List Word) : ∀ (s : State) (k : Nat),
    let t := s.each (d.zipIdx k) fun s p => s.setReg (Reg.tmbRdata slot.val p.2) p.1
    (∀ i w, d[i]? = some w → t.reg (Reg.tmbRdata slot.val (k + i)) = w) ∧
      ∀ j, j < k → t.reg (Reg.tmbRdata slot.val j) = s.reg (Reg.tmbRdata slot.val j) := by
  induction d with
  | nil => exact fun s k => ⟨fun i w h => by simp at h, fun _ _ => rfl⟩
  | cons v d ih =>
    intro s k
    obtain ⟨hread, hkept⟩ := ih (s.setReg (Reg.tmbRdata slot.val k) v) (k + 1)
    refine ⟨fun i w h => ?_, fun j hj => (hkept j (by omega)).trans (s.reg_setReg_ne _ ?_)⟩
    · cases i with
      | zero =>
        obtain rfl : v = w := by simpa using h
        exact (hkept k (by omega)).trans (s.reg_setReg_same ..)
      | succ i =>
        have e := hread i w (by simpa using h)
        rwa [show k + 1 + i = k + (i + 1) by omega] at e
    · unfold Reg.tmbRdata; omega

theorem tmbAnswer_answered (s : State) (slot : Slot) (cmd : Word) (r : TmbResult) (d : List Word) :
    (s.tmbAnswer slot (field cmd 16 8) r d).answered slot cmd r d := by
  refine ⟨State.reg_setReg_same .., fun i w h => ?_⟩
  have hne : Reg.tmbRdata slot.val i ≠ Reg.tmbRsp slot.val := by unfold Reg.tmbRdata Reg.tmbRsp; omega
  obtain ⟨hread, -⟩ := reg_each_rdata slot d s 0
  have hword := hread i w h
  rw [Nat.zero_add] at hword
  exact (State.reg_setReg_ne _ _ hne).trans hword

/-! ### The sign queue (R70, R71) -/

/-- Serving the queue begins the signature of its head, once its close entry stands in the log. -/
theorem serveQueue_cases (s : State) : s.serveQueue = s ∨ ∃ n rest, s.tarn.queue = n :: rest ∧ ∃ t, s.Entered t ∧
    s.serveQueue = (t.modChanKept n fun c => { c with closeLogged := true }).modTarn fun x => { x with signing := true } := by
  unfold State.serveQueue
  rcases hq : s.tarn.queue with _ | ⟨n, rest⟩
  · exact .inl rfl
  · dsimp only
    split_ifs with hstop hlogged
    · exact .inl rfl
    · have hself : { s.chan n with closeLogged := true } = s.chan n := by rw [← hlogged]
      exact .inr ⟨n, rest, rfl, s, .refl s, by rw [modChanKept_self hself]⟩
    · exact .inr ⟨n, rest, rfl, _, entered_tlog .., rfl⟩

theorem serveQueue_queue (s : State) : s.serveQueue.tarn.queue = s.tarn.queue := by
  obtain e | ⟨n, rest, -, t, h, e⟩ := serveQueue_cases s
  · rw [e]
  · rw [e]
    exact h.queue

/-- Of a channel at most the mark of its close entry changes. -/
theorem serveQueue_chan (s : State) (j : Chan) : ∃ b, s.serveQueue.chan j = { s.chan j with closeLogged := b } := by
  obtain e | ⟨n, rest, -, t, h, e⟩ := serveQueue_cases s
  · exact ⟨_, congrArg (State.chan · j) e⟩
  · rw [e, chan_modTarn rfl]
    by_cases hn : j = n
    · subst hn
      exact ⟨true, by rw [chan_modChanKept_same, h.chan]⟩
    · exact ⟨_, by rw [chan_modChanKept_ne _ _ hn, h.chan]⟩

theorem serveQueue_chan_ne (s : State) {j : Chan} (hj : j ∉ s.tarn.queue) : s.serveQueue.chan j = s.chan j := by
  obtain e | ⟨n, rest, hq, t, h, e⟩ := serveQueue_cases s
  · rw [e]
  · have hn : j ≠ n := fun hjn => hj (by rw [hq, hjn]; exact List.mem_cons_self)
    rw [e, chan_modTarn rfl, chan_modChanKept_ne _ _ hn, h.chan]

theorem serveQueue_evt (s : State) {j : Nat} (hj : bit (s.reg Reg.tmbEvt) j = true) : bit (s.serveQueue.reg Reg.tmbEvt) j = true := by
  obtain e | ⟨n, rest, -, t, h, e⟩ := serveQueue_cases s
  · rwa [e]
  · rw [e]
    exact h.evt hj

/-- The state once SIGN has stored the body and put its channel at the end of the queue, before Tarn serves the head (R70). -/
noncomputable def State.queued (s : State) (n : Chan) (am : List Byte) (code : Nat) (slot4 : Bool) : State :=
  (s.modChan n fun c => { c with sess := .signing, body := recordBody n c am code slot4, closeLogged := false }).modArea
    fun t => { t with queue := t.queue ++ [n] }

theorem queueRecord_queue (s : State) (n : Chan) (am : List Byte) (code : Nat) (slot4 : Bool) :
    (s.queueRecord n am code slot4).tarn.queue = s.tarn.queue ++ [n] := serveQueue_queue _

theorem queueRecord_chan_same (s : State) (n : Chan) (am : List Byte) (code : Nat) (slot4 : Bool) :
    ((s.queueRecord n am code slot4).chan n).sess = .signing ∧
      ((s.queueRecord n am code slot4).chan n).body = recordBody n (s.chan n) am code slot4 := by
  obtain ⟨b, e⟩ := serveQueue_chan (s.queued n am code slot4) n
  unfold State.queueRecord
  unfold State.queued at e
  rw [chan_modArea rfl, State.chan_modChan_same] at e
  exact ⟨congrArg TarnChan.sess e, congrArg TarnChan.body e⟩

theorem queueRecord_chan_ne (s : State) {n j : Chan} (am : List Byte) (code : Nat) (slot4 : Bool) (hn : j ≠ n) (hj : j ∉ s.tarn.queue) :
    (s.queueRecord n am code slot4).chan j = s.chan j := by
  have hq : j ∉ (s.queued n am code slot4).tarn.queue := by
    show j ∉ s.tarn.queue ++ [n]
    simp [hn, hj]
  exact (serveQueue_chan_ne _ hq).trans ((chan_modArea rfl j).trans (State.chan_modChan_ne _ _ hn))

/-! ### The commands of a session (R66 to R72) -/

theorem tmbRun_open {slot : Slot} {cmd : Word} (h : field cmd 0 8 = 1) :
    s.tmbRun slot cmd = ((s.openSession slot (chanOf cmd)).1, some (s.openSession slot (chanOf cmd)).2) := by
  unfold State.tmbRun
  rw [h]
  rfl

theorem tmbRun_freeze {slot : Slot} {cmd : Word} (h : field cmd 0 8 = 2) :
    s.tmbRun slot cmd = ((s.freezeSession (chanOf cmd)).1, some (s.freezeSession (chanOf cmd)).2) := by
  unfold State.tmbRun
  rw [h]
  rfl

theorem tmbRun_sign {slot : Slot} {cmd : Word} (h : field cmd 0 8 = 3) :
    s.tmbRun slot cmd = ((s.signSession slot (chanOf cmd)).1, some (s.signSession slot (chanOf cmd)).2) := by
  unfold State.tmbRun
  rw [h]
  rfl

/-- The state once an OPEN on channel `n` that Tarn grants has run (R66, R67). -/
noncomputable def State.opens (s : State) (slot : Slot) (n : Chan) : State :=
  ((s.outsideRecord n).modArea fun t => { t with sesCtr := s.tarn.sesCtr + 1 }).modChan n fun c =>
    c.opened (s.tarn.sesCtr + 1) s.rtc (bit (s.tmbArg slot 0) 0) (s.argBytes slot 1 6) (s.argBytes slot 3 8)

theorem openSession_granted {slot : Slot} {n : Chan} (h : s.openRefusal slot n = none) :
    s.openSession slot n = (s.opens slot n, .ok, [s.tarn.sesCtr + 1]) := by
  have harg : ∀ (s : State) f i, (s.modArea f).tmbArg slot i = s.tmbArg slot i := fun _ _ _ => rfl
  have hbytes : ∀ (s : State) f i k, (s.modArea f).argBytes slot i k = s.argBytes slot i k := fun _ _ _ _ => rfl
  unfold State.openSession State.opens
  rw [h]
  dsimp only
  simp only [harg, hbytes, outsideRecord_tmbArg, outsideRecord_argBytes, outsideRecord_sesCtr, State.modArea_rtc, outsideRecord_rtc]

theorem opens_sesCtr (s : State) (slot : Slot) (n : Chan) : (s.opens slot n).tarn.sesCtr = s.tarn.sesCtr + 1 := rfl

theorem opens_chan_same (s : State) (slot : Slot) (n : Chan) : (s.opens slot n).chan n =
    let c := ((s.outsideRecord n).chan n).opened (s.tarn.sesCtr + 1) s.rtc (bit (s.tmbArg slot 0) 0) (s.argBytes slot 1 6) (s.argBytes slot 3 8)
    { c with ucnt := c.ucnt + 2 } := by
  exact State.chan_modChan_same ..

theorem opens_chan_ne (s : State) (slot : Slot) {n j : Chan} (hj : j ≠ n) : (s.opens slot n).chan j = s.chan j := by
  exact (State.chan_modChan_ne _ _ hj).trans (outsideRecord_chan_ne s hj)

theorem openRefusal_eq_none {slot : Slot} {n : Chan} (hprice : (parsePacked (s.argBytes slot 1 6)).isSome = true)
    (hpreset : (parsePacked (s.argBytes slot 3 8)).isSome = true) (hsign : s.tarn.signStop = false) (hkey : s.tarn.keyLost = false)
    (htap : s.boundaryOn = false) (hlog : s.tarn.unexported < 3008) (hlegal : (s.chan n).legal = .isIn) (hsess : (s.chan n).sess = .none) :
    s.openRefusal slot n = none := by
  unfold State.openRefusal
  simp [← Option.not_isSome, hprice, hpreset, hsign, hkey, htap, hlog, hlegal, hsess]

theorem freezeSession_runs {n : Chan} (h : (s.chan n).sess = .open ∨ (s.chan n).sess = .stopped) :
    s.freezeSession n = (s.freezeAt n s.rtc, .ok, [(s.chan n).session]) := by
  unfold State.freezeSession
  rcases h with h | h <;> rw [h]

theorem signSession_runs {slot : Slot} {n : Chan} {am : List Byte} (ham : s.signAmount slot = .ok am) (h : (s.chan n).sess = .frozen) :
    s.signSession slot n = (s.queueRecord n am closeComplete (decide (slot = 4)), .ok, []) := by
  unfold State.signSession
  rw [ham]
  dsimp only
  rw [h]

/-- A priced SIGN supplies its amount, with a preferred sign nibble (R72). -/
theorem signAmount_priced {slot : Slot} (h2 : s.tmbArg slot 2 = 0) (ham : (parsePacked (s.argBytes slot 0 8)).isSome = true)
    (hsign : signNibble (s.argBytes slot 0 8) = 0xC ∨ signNibble (s.argBytes slot 0 8) = 0xD) :
    s.signAmount slot = .ok (s.argBytes slot 0 8) := by
  unfold State.signAmount
  simp [h2, bit, ← Option.not_isSome, ham, hsign]

/-- A SIGN with UNPRICED and an amount of 0 supplies the amount of an unpriced record (R72). -/
theorem signAmount_unpriced {slot : Slot} (h2 : s.tmbArg slot 2 = 1) (h0 : s.tmbArg slot 0 = 0) (h1 : s.tmbArg slot 1 = 0) :
    s.signAmount slot = .ok unpricedAmount := by
  unfold State.signAmount
  simp [h2, bit, h0, h1]

/-! ### The end of a signature (R71, R104) -/

/-- The state once the record of channel `n` has been released, before Tarn serves the rest of its queue (R71). -/
noncomputable def State.recordReleased (s : State) (n : Chan) (rest : List Chan) : State :=
  ((s.modChan n fun c => { c with sess := .none, record := c.body ++ (List.range 64).map (Config.sign c.body) }).modArea
    fun t => { t with queue := rest, signing := false, retry := false }).setBits Reg.tmbEvt (BitVec.ofNat 32 (2 ^ n.val))

theorem recordReleased_chan (s : State) (n : Chan) (rest : List Chan) : ((s.recordReleased n rest).chan n).sess = .none ∧
    ((s.recordReleased n rest).chan n).record = (s.chan n).body ++ (List.range 64).map (Config.sign (s.chan n).body) := by
  have e := State.chan_modChan_same s n fun c => { c with sess := .none, record := c.body ++ (List.range 64).map (Config.sign c.body) }
  exact ⟨congrArg TarnChan.sess e, congrArg TarnChan.record e⟩

theorem recordReleased_evt (s : State) (n : Chan) (rest : List Chan) : bit ((s.recordReleased n rest).reg Reg.tmbEvt) n.val = true := by
  have hbit : ∀ n : Chan, bit (BitVec.ofNat 32 (2 ^ n.val)) n.val = true := by decide
  exact bit_setBits _ (.inr (hbit n))

/-- The state once a second check of the signature of channel `n` has failed (R104). -/
noncomputable def State.signingStopped (s : State) (n : Chan) : State :=
  ((s.tlog 0x0443 n.val 0 []).modArea fun t => { t with signing := false, retry := false, signStop := true }).healthNotice 0x50 .failed true
    0x0443

theorem signingStopped_tarn (s : State) (n : Chan) : (s.signingStopped n).tarn.signStop = true ∧ (s.signingStopped n).tarn.signing = false ∧
    (s.signingStopped n).tarn.queue = s.tarn.queue ∧ (s.signingStopped n).chan n = s.chan n := by
  have hlog := entered_tlog s 0x0443 n.val 0 []
  exact ⟨rfl, rfl, hlog.queue, hlog.chan n⟩

/-- The three ends of the head's signature: it passes, it is made once more, or it stops signing. -/
theorem exec_signatureDone {n : Chan} {rest : List Chan} (hq : s.tarn.queue = n :: rest) (hsigning : s.tarn.signing = true)
    (hon : s.tarnOn = true) (ok : Bool) : exec (.signatureDone ok) s =
      if ok then .next (s.recordReleased n rest).serveQueue
      else if ¬ s.tarn.retry then .next (s.modTarn fun t => { t with retry := true })
      else .next (s.signingStopped n) := by
  have hgo : ¬ (¬ s.tarn.signing = true ∨ ¬ s.tarnOn = true) := not_or.mpr ⟨not_not_intro hsigning, not_not_intro hon⟩
  show execSignatureDone ok s = _
  unfold execSignatureDone
  rw [hq]
  exact if_neg hgo

end Sys2Proof.Machine
end

section
/-! PROOFS. Sessions: the parts of the statement, each from the laws above, and the statement. -/

namespace Sys2Proof.Proofs
open Sys2Proof Sys2Proof.Machine

/-- An OPEN that Tarn grants opens the session and answers its number (R67). -/
theorem exec_tmbOpen {s : State} {slot : Slot} {cmd : Word} (h : s.serves slot cmd 1) (hgrant : s.openRefusal slot (chanOf cmd) = none) :
    exec (.tmbOpen slot cmd) s =
      .next (((s.submitted slot cmd).opens slot (chanOf cmd)).tmbAnswer slot (field cmd 16 8) .ok [s.tarn.sesCtr + 1]) := by
  have hgrant' : (s.submitted slot cmd).openRefusal slot (chanOf cmd) = none := by
    rw [← hgrant]
    unfold State.openRefusal
    rw [argBytes_submitted, argBytes_submitted]
    rfl
  exact tmbRow_runs h ((tmbRun_open h.code).trans (by rw [openSession_granted hgrant']; rfl))

/-- FREEZE of an OPEN or STOPPED session freezes it and answers its number (R69). -/
theorem exec_freeze {s : State} {slot : Slot} {cmd : Word} (h : s.serves slot cmd 2)
    (hsess : (s.chan (chanOf cmd)).sess = .open ∨ (s.chan (chanOf cmd)).sess = .stopped) : exec (.freeze slot cmd) s =
      .next (((s.submitted slot cmd).freezeAt (chanOf cmd) s.rtc).tmbAnswer slot (field cmd 16 8) .ok [(s.chan (chanOf cmd)).session]) :=
  tmbRow_runs h ((tmbRun_freeze h.code).trans (by rw [freezeSession_runs (s := s.submitted slot cmd) hsess]; rfl))

/-- SIGN of a FROZEN session queues its record with the amount that it supplies (R70). -/
theorem exec_sign {s : State} {slot : Slot} {cmd : Word} (h : s.serves slot cmd 3) {am : List Byte} (ham : s.signAmount slot = .ok am)
    (hsess : (s.chan (chanOf cmd)).sess = .frozen) : exec (.sign slot cmd) s =
      .next (((s.submitted slot cmd).queueRecord (chanOf cmd) am closeComplete (decide (slot = 4))).tmbAnswer slot (field cmd 16 8) .ok []) := by
  have ham' : (s.submitted slot cmd).signAmount slot = .ok am := by
    rw [← ham]
    unfold State.signAmount
    simp only [argBytes_submitted, tmbArg_submitted]
  exact tmbRow_runs h ((tmbRun_sign h.code).trans (by rw [signSession_runs ham' hsess]))

/-- Settles O25: each command by the state that it runs to and that state's laws, and each end of a signature likewise. -/
theorem sessionCommands : Obligations.SessionCommands := by
  unfold Obligations.SessionCommands
  refine ⟨fun s slot cmd h => ?_, fun s slot cmd h => ?_, fun s slot cmd h => ?_, fun s n rest hq hsigning hon => ⟨?_, ?_, ?_⟩⟩
  case refine_1 =>
    intro n c dir hprice hpreset hsign hkey htap hlog hlegal hsess
    have hrun := exec_tmbOpen h (openRefusal_eq_none hprice hpreset hsign hkey htap hlog hlegal hsess)
    obtain ⟨hfwd, hrev, hleg⟩ := outsideRecord_chan_same (s.submitted slot cmd) (chanOf cmd)
    refine ⟨_, hrun, tmbAnswer_answered .., ?_⟩
    rw [tmbAnswer_tarn, opens_sesCtr]
    refine ⟨rfl, ?_⟩
    simp only [tmbAnswer_chan]
    rw [opens_chan_same, argBytes_submitted, argBytes_submitted, tmbArg_submitted]
    simp only [TarnChan.opened, n, hfwd, hrev, hleg]
    refine ⟨trivial, rfl, rfl, rfl, ?_, ?_, trivial, rfl, rfl, rfl, hlegal, ?_⟩
    · exact beBytes_toNat_ofNat_beNat (argBytes_length _ _ _ (by decide)) rfl
    · exact beBytes_toNat_ofNat_beNat (argBytes_length _ _ _ (by decide)) rfl
    · exact fun j hj => opens_chan_ne _ slot hj
  case refine_2 =>
    intro n c hsess
    refine ⟨_, exec_freeze h hsess, tmbAnswer_answered .., ?_, fun j hj => ?_⟩
    · exact (tmbAnswer_chan ..).trans (State.chan_modChan_same ..)
    · exact (tmbAnswer_chan ..).trans (State.chan_modChan_ne _ _ hj)
  case refine_3 =>
    intro n c am a2 hsess am' ham
    have hamount : s.signAmount slot = .ok am' := by
      obtain ⟨h2, hdec, hsign, rfl⟩ | ⟨h2, h0, h1, rfl⟩ := ham
      · exact signAmount_priced h2 hdec hsign
      · exact signAmount_unpriced h2 h0 h1
    obtain ⟨hsigning, hbody⟩ := queueRecord_chan_same (s.submitted slot cmd) n am' closeComplete (decide (slot = 4))
    refine ⟨_, exec_sign h hamount hsess, tmbAnswer_answered .., ?_, ?_, ?_, fun j hn hj => ?_⟩
    · rw [tmbAnswer_chan]
      exact hsigning
    · rw [tmbAnswer_chan]
      exact hbody
    · rw [tmbAnswer_tarn, queueRecord_queue]
      rfl
    · rw [tmbAnswer_chan]
      exact queueRecord_chan_ne _ am' _ _ hn hj
  case refine_4 =>
    obtain ⟨hsess, hrecord⟩ := recordReleased_chan s n rest
    obtain ⟨b, e⟩ := serveQueue_chan (s.recordReleased n rest) n
    refine ⟨_, (exec_signatureDone hq hsigning hon true).trans (if_pos rfl), serveQueue_queue _, ?_, ?_, serveQueue_evt _ (recordReleased_evt ..)⟩
    · rw [e]
      exact hsess
    · rw [e]
      exact hrecord
  case refine_5 =>
    intro hretry
    rw [exec_signatureDone hq hsigning hon, if_neg Bool.false_ne_true, if_pos (ne_true_of_eq_false hretry)]
  case refine_6 =>
    intro hretry
    refine ⟨s.signingStopped n, ?_, signingStopped_tarn s n⟩
    rw [exec_signatureDone hq hsigning hon, if_neg Bool.false_ne_true, if_neg (not_not_intro hretry)]

end Sys2Proof.Proofs
end
